-- ==== Sys2Proof/Word.lean ====
section
/-! DEFINITION. The word types of the Efver 9600 and their plainest arithmetic. -/

namespace Sys2Proof

/-- One byte of memory (R8). -/
abbrev Byte := BitVec 8
/-- One 32-bit register lane (R52). -/
abbrev W32 := BitVec 32
/-- One 64-bit scalar register, pair or virtual address (R13, R52, R53). -/
abbrev W64 := BitVec 64

/-- The n bits of w that start at bit lo, as a number (R8). -/
def bits (w lo n : Nat) : Nat := w / 2 ^ lo % 2 ^ n

end Sys2Proof
end

