-- ==== Sys2Proof/Syntax.lean ====
section
/-! DEFINITION. The instructions of the Efver 9600 and the events of its opcode table, one constructor a row. -/

namespace Sys2Proof

/-- A source operand of kind V, U or U+ (R219, R223): a register, EXEC, an immediate or the literal. -/
inductive Src where
  | v (n : Nat)
  | s (n : Nat)
  | o (n : Nat)
  | y (n : Nat)
  | exec
  | imm (i : Int)
  | lit (l : W32)
  deriving DecidableEq, Repr, Inhabited

/-- A source with its hold bit (R62, R221). -/
structure HSrc where
  src : Src
  hold : Bool
  deriving DecidableEq, Repr, Inhabited

/-- A destination of kind D or S (R220). -/
inductive Dst where
  | v (n : Nat)
  | o (n : Nat)
  | s (n : Nat)
  | exec
  deriving DecidableEq, Repr, Inhabited

/-- The source of pmov: a predicate (AUX 0) or a value (AUX 1) (R237). -/
inductive PSrc where
  | p (n : Nat)
  | val (a : HSrc)
  deriving DecidableEq, Repr, Inhabited

/-- A tile operand of kind T (R220, R359). -/
inductive TOp where
  | v (n : Nat)
  | s (n : Nat)
  deriving DecidableEq, Repr, Inhabited

/-- The guard of an instruction (R222): p0 with neg false is the unguarded form. -/
structure Guard where
  p : Nat
  neg : Bool
  deriving DecidableEq, Repr, Inhabited

/-- The integer width of group 3 (R232). -/
inductive ITy where
  | w32 | w64 | w16 | w8
  deriving DecidableEq, Repr, Inhabited

/-- The float format of group 4 (R232). -/
inductive FTy where
  | f32 | f64 | f16 | bf16
  deriving DecidableEq, Repr, Inhabited

/-- The access size of group 6 (R232). -/
inductive MSz where
  | b1 | b2 | b4 | b8
  deriving DecidableEq, Repr, Inhabited

/-- The formats of a K field (R233). -/
inductive Fmt where
  | int8 | uint8 | int16 | uint16 | int32 | uint32 | int64 | uint64
  | fp16 | bf16 | fp32 | fp64 | e4m3 | e5m2 | e2m1 | t8 | e8m0
  deriving DecidableEq, Repr, Inhabited

/-- Scopes (R11, R234). -/
inductive Scope where
  | w | u | d | k | f
  deriving DecidableEq, Repr, Inhabited

/-- Integer conditions (R234). -/
inductive ICond where
  | eq | ne | lt | le | gt | ge
  deriving DecidableEq, Repr, Inhabited

/-- Float conditions (R234). -/
inductive FCond where
  | eq | ne | lt | le | gt | ge | un | ord
  deriving DecidableEq, Repr, Inhabited

/-- Barrier levels (R234). -/
inductive BarLvl where
  | u | d | k
  deriving DecidableEq, Repr, Inhabited

/-- Counter levels (R234): launch, graph, phase, job. -/
inductive CLvl where
  | launch | graph | phase | job
  deriving DecidableEq, Repr, Inhabited

/-- Modes of shfl (R289). -/
inductive ShflMode where
  | idx | up | down | xor
  deriving DecidableEq, Repr, Inhabited

/-- Operations of lred and lscan (R291). -/
inductive RedOp where
  | add | min | max | and | or | xor
  deriving DecidableEq, Repr, Inhabited

/-- Modes of fround (R298). -/
inductive RndMode where
  | rne | rtz | rup | rdn | rna | dyn
  deriving DecidableEq, Repr, Inhabited

/-- Atomic operations (R241, R318); min and max carry their signed bit. -/
inductive AtomOp where
  | add | min (signed : Bool) | max (signed : Bool) | and | or | xor | exch
  deriving DecidableEq, Repr, Inhabited

/-- Fold kinds of csum (R308). -/
inductive FoldKind where
  | add | rot | crc
  deriving DecidableEq, Repr, Inhabited

/-- Comparisons of chk (R309). -/
inductive ChkKind where
  | eq | fold | near
  deriving DecidableEq, Repr, Inhabited

/-- The restricted opcodes of pairs and compact forms but for cnop (R230). -/
inductive ROp where
  | addU32 | subU32 | mulU32 | madU32 | andU32 | orU32 | xorU32 | shlU32 | shrU32 | sarI32
  | minI32 | maxI32 | minU32 | maxU32 | addSatI32 | subSatI32 | movU32 | notU32 | absI32 | clzU32
  | popcU32 | mulhI32 | mulhU32 | addSatU32 | faddF32 | fsubF32 | fmulF32 | fmaF32 | fminF32 | fmaxF32
  | faddF16 | fmulF16 | fmaF16 | faddBf16 | fmulBf16 | fmaBf16 | frcpF32 | frsqF32 | fexp2F32 | flog2F32
  | fsubF16 | fsubBf16 | addU16 | subU16 | fminF16 | fmaxF16 | fminBf16 | fmaxBf16 | subSatU32
  | fdot2F16 | fdot2Bf16 | mulU16 | minI16 | maxI16 | madU16
  deriving DecidableEq, Repr, Inhabited

/-- One half of a pair (R226, R229). A unary half holds the immediate-free source `b` of code 0, which is written `none`. -/
structure Half where
  op : ROp
  d : Dst
  a : Src
  b : Option Src
  deriving DecidableEq, Repr, Inhabited

/-- Registers of the hypervisor window that software outside the device writes by the access codes of R9 (R391, R416 to R419, R17, R18, R182, R351, R370, R408, R411). -/
inductive HReg where
  | frbase (vf : Nat) | frlog2 (vf : Nat) | brlog2 (vf : Nat) | bwlog2 (vf : Nat) | bwbase (vf : Nat) | cmd (vf : Nat)
  | fcbState (vf : Nat) | frwrite (vf : Nat) | bwwrite (vf : Nat) | resets (vf : Nat)
  | hostEntry (vf : Nat)
  | rasbase | raslog2 | raswrite
  | pkgid | fabctl | linkup | linkdir | fmnode | hvnode
  | pwrlim | pwrnow | floor | tmax
  | window (n : Nat) | kind (n : Nat)
  | route (bank : Bool) (n : Nat) | key (bank : Bool) (port k : Nat)
  | qRingbase (q : Nat) | qLog2n (q : Nat) | qVf (q : Nat) | qPrio (q : Nat) | qState (q : Nat) | qErrcode (q : Nat) | qTail (q : Nat) | qHead (q : Nat)
  | elbase (vf : Nat) | ellog2 (vf : Nat) | gqlog2 (vf : Nat) | thlog2 (vf : Nat) | gflags (vf : Nat) | gwindow (vf : Nat) | gqbase (vf : Nat)
  | elwrite (vf : Nat) | gqwrite (vf : Nat) | gqread (vf : Nat)
  | group (vf n : Nat)
  | pageTimeout (vf : Nat)
  | grazeWindow (vf : Nat)
  deriving DecidableEq, Repr, Inhabited

/-- The source of a fabric request, or its destination: a package or a host node (R17, R408). -/
structure Endpoint where
  host : Bool
  id : Nat
  deriving DecidableEq, Repr, Inhabited

/-- What an incoming fabric request asks for (R120, R407). -/
inductive FabOp where
  | read (n : Nat)
  | write (bytes : List Byte)
  | atomic (op : AtomOp) (size : MSz) (operand : W64)
  | cas (size : MSz) (compare new : W64)
  | atomics (op : AtomOp) (size : MSz) (operands : List W64)
  | swaps (size : MSz) (pairs : List (W64 × W64))
  deriving DecidableEq, Repr, Inhabited

/-- A request that arrives over the fabric (R120, R411, R416). -/
structure FabReq where
  src : Endpoint
  pkey : BitVec 16
  port : Nat
  addr : Nat
  op : FabOp
  chan : Nat := 0
  dst : Option Endpoint := none
  deriving DecidableEq, Repr, Inhabited

/-- What an uncorrectable error poisons (R87, R396); ring names a 64-byte line of a bounded queue's ring. -/
inductive ErrTarget where
  | vLane (slot n lane : Nat) | oLane (slot n lane : Nat) | yLane (slot n lane : Nat)
  | sReg (slot n : Nat) | pLane (slot lane : Nat)
  | spWord (core word : Nat) | accWord (core word : Nat)
  | line (paddr : Nat)
  | control (slot : Nat)
  | latch (slot source lane : Nat)
  | sbLine (unit n : Nat)
  | copyLine (die line : Nat)
  | ring (launch queue n : Nat)
  deriving DecidableEq, Repr, Inhabited

/-- Why the module powers off by itself (R424). -/
inductive ShutdownCause where
  | sensor (core : Nat)
  | coolant
  deriving DecidableEq, Repr, Inhabited

/-- Every instruction of the device and every event of its opcode table. -/
inductive Instr where
  -- group 0, control and system (R235)
  | nop
  | region (vlive olive : Nat)
  | ifP (neg : Bool) (p off : Nat)
  | elseP (off : Nat)
  | endif
  | loop
  | endloop (off : Nat)
  | breakP (neg : Bool) (p : Nat)
  | contP (neg : Bool) (p : Nat)
  | callRelative (d : Nat) (off : Int)
  | callIndirect (d : Nat) (t : HSrc)
  | ret (t : HSrc)
  | exit
  | trap (code : Nat)
  | tret
  | bkpt (tag : Nat)
  | spawn (t arg : HSrc)
  | yield
  | svc (code : Nat)
  | rdsys (d index : Nat)
  | wrsys (a : Src) (index : Nat)
  | rdtime (d : Nat)
  | rdid (d : Dst) (sel : Nat)
  -- group 1, scalar (R236)
  | sadd (d : Nat) (a b : Src)
  | ssub (d : Nat) (a b : Src)
  | smul (d : Nat) (a b : Src)
  | smulh (sg : Bool) (d : Nat) (a b : Src)
  | sdiv (sg : Bool) (d : Nat) (a b : Src)
  | srem (sg : Bool) (d : Nat) (a b : Src)
  | sand (d : Nat) (a b : Src)
  | sor (d : Nat) (a b : Src)
  | sxor (d : Nat) (a b : Src)
  | sshl (d : Nat) (a b : Src)
  | sshr (d : Nat) (a b : Src)
  | ssar (d : Nat) (a b : Src)
  | smin (sg : Bool) (d : Nat) (a b : Src)
  | smax (sg : Bool) (d : Nat) (a b : Src)
  | scmp (sg : Bool) (cond : ICond) (p : Nat) (a b : Src)
  | smov (d : Dst) (a : Src)
  | sli (d : Nat) (imm : Int)
  | sclz (d : Nat) (a : Src)
  | spopc (d : Nat) (a : Src)
  | sbfx (sg : Bool) (d : Nat) (a pos len : Src)
  | sbfi (d : Nat) (a pos len : Src)
  | sadr (d : Nat) (base index scale : Src)
  | sext (sg : Bool) (d : Nat) (a len : Src)
  -- group 2, predicates (R237)
  | pand (g : Guard) (d a b : Nat)
  | por (g : Guard) (d a b : Nat)
  | pxor (g : Guard) (d a b : Nat)
  | pnot (g : Guard) (d a : Nat)
  | pmov (g : Guard) (d : Nat) (a : PSrc)
  | pany (g : Guard) (d a : Nat)
  | pall (g : Guard) (d a : Nat)
  | pcnt (g : Guard) (d a : Nat)
  | pfirst (g : Guard) (d a : Nat)
  | pballot (g : Guard) (d : Dst) (a : Nat)
  -- group 3, vector integer and lane operations (R238)
  | add (t : ITy) (g : Guard) (d : Dst) (a b : HSrc)
  | sub (t : ITy) (g : Guard) (d : Dst) (a b : HSrc)
  | mul (t : ITy) (g : Guard) (d : Dst) (a b : HSrc)
  | mulh (t : ITy) (sg : Bool) (g : Guard) (d : Dst) (a b : HSrc)
  | mad (t : ITy) (g : Guard) (d : Dst) (a b c : HSrc)
  | div (t : ITy) (sg : Bool) (g : Guard) (d : Dst) (a b : HSrc)
  | rem (t : ITy) (sg : Bool) (g : Guard) (d : Dst) (a b : HSrc)
  | min (t : ITy) (sg : Bool) (g : Guard) (d : Dst) (a b : HSrc)
  | max (t : ITy) (sg : Bool) (g : Guard) (d : Dst) (a b : HSrc)
  | abs (t : ITy) (sg : Bool) (g : Guard) (d : Dst) (a : HSrc)
  | and (t : ITy) (g : Guard) (d : Dst) (a b : HSrc)
  | or (t : ITy) (g : Guard) (d : Dst) (a b : HSrc)
  | xor (t : ITy) (g : Guard) (d : Dst) (a b : HSrc)
  | not (t : ITy) (g : Guard) (d : Dst) (a : HSrc)
  | shl (t : ITy) (g : Guard) (d : Dst) (a b : HSrc)
  | shr (t : ITy) (g : Guard) (d : Dst) (a b : HSrc)
  | sar (t : ITy) (g : Guard) (d : Dst) (a b : HSrc)
  | clz (t : ITy) (g : Guard) (d : Dst) (a : HSrc)
  | popc (t : ITy) (g : Guard) (d : Dst) (a : HSrc)
  | bfx (t : ITy) (sg : Bool) (g : Guard) (d : Dst) (a pos len : HSrc)
  | bfi (t : ITy) (g : Guard) (d : Dst) (a pos len : HSrc)
  | sel (t : ITy) (g : Guard) (d : Dst) (a b : HSrc) (p : Nat)
  | cmp (t : ITy) (sg : Bool) (cond : ICond) (g : Guard) (p : Nat) (a b : HSrc)
  | mov (t : ITy) (g : Guard) (d : Dst) (a : HSrc)
  | shfl (t : ITy) (mode : ShflMode) (g : Guard) (d : Dst) (a b : HSrc)
  | bcast (t : ITy) (g : Guard) (d : Dst) (a : HSrc) (n : Src)
  | lred (t : ITy) (sg : Bool) (op : RedOp) (g : Guard) (d : Dst) (a : HSrc)
  | lscan (t : ITy) (sg : Bool) (op : RedOp) (excl : Bool) (g : Guard) (d : Dst) (a : HSrc)
  | addSat (t : ITy) (sg : Bool) (g : Guard) (d : Dst) (a b : HSrc)
  | subSat (t : ITy) (sg : Bool) (g : Guard) (d : Dst) (a b : HSrc)
  | mulSat (t : ITy) (sg : Bool) (g : Guard) (d : Dst) (a b : HSrc)
  -- group 4, vector floating point (R239)
  | fadd (t : FTy) (g : Guard) (d : Dst) (a b : HSrc)
  | fsub (t : FTy) (g : Guard) (d : Dst) (a b : HSrc)
  | fmul (t : FTy) (g : Guard) (d : Dst) (a b : HSrc)
  | fma (t : FTy) (g : Guard) (d : Dst) (a b c : HSrc)
  | fmin (t : FTy) (g : Guard) (d : Dst) (a b : HSrc)
  | fmax (t : FTy) (g : Guard) (d : Dst) (a b : HSrc)
  | fdiv (t : FTy) (g : Guard) (d : Dst) (a b : HSrc)
  | fsqrt (t : FTy) (g : Guard) (d : Dst) (a : HSrc)
  | frcp (t : FTy) (g : Guard) (d : Dst) (a : HSrc)
  | frsq (t : FTy) (g : Guard) (d : Dst) (a : HSrc)
  | fexp2 (t : FTy) (g : Guard) (d : Dst) (a : HSrc)
  | flog2 (t : FTy) (g : Guard) (d : Dst) (a : HSrc)
  | fsin (t : FTy) (g : Guard) (d : Dst) (a : HSrc)
  | fcos (t : FTy) (g : Guard) (d : Dst) (a : HSrc)
  | ftanh (t : FTy) (g : Guard) (d : Dst) (a : HSrc)
  | fcmp (t : FTy) (cond : FCond) (g : Guard) (p : Nat) (a b : HSrc)
  | fcls (t : FTy) (g : Guard) (p : Nat) (a : HSrc) (mask : Nat)
  | fround (t : FTy) (mode : RndMode) (g : Guard) (d : Dst) (a : HSrc)
  | fdot2 (t : FTy) (g : Guard) (d : Dst) (a b c : HSrc)
  -- group 5, conversion and checks (R240)
  | cvt (dst src : Fmt) (g : Guard) (d : Dst) (a : HSrc)
  | pack (dst src : Fmt) (g : Guard) (d : Dst) (a b : HSrc)
  | packTile (dst : Fmt) (d : Dst) (f n : Src)
  | unpk (dst src : Fmt) (g : Guard) (d : Dst) (a k : HSrc)
  | qnt (dst : Fmt) (g : Guard) (d : Dst) (a sc : HSrc)
  | dqnt (src : Fmt) (g : Guard) (d : Dst) (a sc : HSrc)
  | csum (kind : FoldKind) (g : Guard) (d : Dst) (a : HSrc)
  | chk (kind : ChkKind) (g : Guard) (a b : HSrc)
  -- group 6, memory and synchronisation (R241)
  | ld (sz : MSz) (sp : Bool) (g : Guard) (d : Dst) (a c : HSrc)
  | ldSigned (sz : MSz) (sp : Bool) (g : Guard) (d : Dst) (a c : HSrc)
  | st (sz : MSz) (sp : Bool) (g : Guard) (a b c : HSrc)
  | sld (sz : MSz) (sp : Bool) (d : Nat) (a c : Src)
  | sst (sz : MSz) (sp : Bool) (a b c : Src)
  | prf (sp : Bool) (g : Guard) (a c : HSrc)
  | atom (op : AtomOp) (sz : MSz) (sp : Bool) (scope : Scope) (g : Guard) (d : Dst) (a b : HSrc)
  | cas (sz : MSz) (sp : Bool) (scope : Scope) (g : Guard) (d : Dst) (a b : HSrc)
  | ldacq (sz : MSz) (sp : Bool) (scope : Scope) (g : Guard) (d : Dst) (a : HSrc)
  | strel (sz : MSz) (sp : Bool) (scope : Scope) (g : Guard) (a b : HSrc)
  | fence (scope : Scope)
  | rel (scope : Scope)
  | acq (scope : Scope)
  | bar (lvl : BarLvl)
  | poll (space : Bool) (p : Nat) (q : Src)
  | wait (nl ns nc nt : Nat)
  | qput (q : Src) (b : Nat)
  | qget (d : Nat) (q : Src)
  | qprobe (d : Nat) (q : Src)
  | cncl (lvl : CLvl)
  -- group 7, engines and Graze (R242)
  | cpy (h desc : Src)
  | stadv (n : Nat)
  | hwait (full : Bool) (p : Nat) (h : Src)
  | hrel (h : Src)
  | mtask (t : Src) (a b : TOp) (fb : Src)
  | aalloc (n : Src)
  | afree
  | ald (g : Guard) (d : Dst) (a c : HSrc)
  | ast (g : Guard) (a b c : HSrc)
  | azero (t : Src)
  | aep (t dst ed : Src)
  | cpyc (h desc grp : Src)
  | evget (d : Nat)
  | gpol (lvl : Src)
  | gqry (d : Nat) (id : Src)
  | gcul (id : Src)
  -- the pair and the compact forms (R226 to R230)
  | pair (x y : Half)
  | addU32Compact (d : Dst) (a b : Src)
  | subU32Compact (d : Dst) (a b : Src)
  | mulU32Compact (d : Dst) (a b : Src)
  | madU32Compact (d : Dst) (a b : Src)
  | andU32Compact (d : Dst) (a b : Src)
  | orU32Compact (d : Dst) (a b : Src)
  | xorU32Compact (d : Dst) (a b : Src)
  | shlU32Compact (d : Dst) (a b : Src)
  | shrU32Compact (d : Dst) (a b : Src)
  | sarI32Compact (d : Dst) (a b : Src)
  | minI32Compact (d : Dst) (a b : Src)
  | maxI32Compact (d : Dst) (a b : Src)
  | minU32Compact (d : Dst) (a b : Src)
  | maxU32Compact (d : Dst) (a b : Src)
  | addSatI32Compact (d : Dst) (a b : Src)
  | subSatI32Compact (d : Dst) (a b : Src)
  | movU32Compact (d : Dst) (a : Src)
  | notU32Compact (d : Dst) (a : Src)
  | absI32Compact (d : Dst) (a : Src)
  | clzU32Compact (d : Dst) (a : Src)
  | popcU32Compact (d : Dst) (a : Src)
  | mulhI32Compact (d : Dst) (a b : Src)
  | mulhU32Compact (d : Dst) (a b : Src)
  | addSatU32Compact (d : Dst) (a b : Src)
  | faddF32Compact (d : Dst) (a b : Src)
  | fsubF32Compact (d : Dst) (a b : Src)
  | fmulF32Compact (d : Dst) (a b : Src)
  | fmaF32Compact (d : Dst) (a b : Src)
  | fminF32Compact (d : Dst) (a b : Src)
  | fmaxF32Compact (d : Dst) (a b : Src)
  | faddF16Compact (d : Dst) (a b : Src)
  | fmulF16Compact (d : Dst) (a b : Src)
  | fmaF16Compact (d : Dst) (a b : Src)
  | faddBf16Compact (d : Dst) (a b : Src)
  | fmulBf16Compact (d : Dst) (a b : Src)
  | fmaBf16Compact (d : Dst) (a b : Src)
  | frcpF32Compact (d : Dst) (a : Src)
  | frsqF32Compact (d : Dst) (a : Src)
  | fexp2F32Compact (d : Dst) (a : Src)
  | flog2F32Compact (d : Dst) (a : Src)
  | fsubF16Compact (d : Dst) (a b : Src)
  | fsubBf16Compact (d : Dst) (a b : Src)
  | addU16Compact (d : Dst) (a b : Src)
  | subU16Compact (d : Dst) (a b : Src)
  | fminF16Compact (d : Dst) (a b : Src)
  | fmaxF16Compact (d : Dst) (a b : Src)
  | fminBf16Compact (d : Dst) (a b : Src)
  | fmaxBf16Compact (d : Dst) (a b : Src)
  | subSatU32Compact (d : Dst) (a b : Src)
  | cnop
  -- events: translation and firmware (01)
  | translationWalk (slot : Nat)
  | reserve (vf : Nat)
  | populate (vf : Nat)
  | unmap (vf : Nat)
  | protect (vf : Nat)
  | invalidationSweep (core : Nat)
  | sweepAcknowledge (vf core : Nat)
  | pageRequestAnswer (vf tag status : Nat) (frames : List Nat)
  | pageRequestTimeout (vf entry : Nat)
  | quarantineRelease (vf entry : Nat)
  | engineTranslationMiss (core cmd : Nat)
  -- events: claims, loads, releases, records (03, 04)
  | claim (n : Nat)
  | verdictReturn (n : Nat)
  | claimSpaceTimeout (n : Nat)
  | loadWriteback (slot id : Nat)
  | lineDrain (n : Nat)
  | drainAcknowledge (n : Nat)
  | slotStatusChange (n : Nat)
  | recordPurge (n : Nat)
  | recordRewriteComplete (identity : Nat)
  | fabricRequestIn (r : FabReq)
  | fabricAcknowledge (id : Nat) (data : List Byte)
  | fabricRefusal (id : Nat)
  -- events: engines (13)
  | commandStart (core cmd : Nat)
  | copyComplete (core cmd : Nat)
  | tileTaskStart (core cmd : Nat)
  | tileTaskComplete (core cmd : Nat)
  | aepComplete (core cmd : Nat)
  | aallocGrant (core : Nat)
  | collectiveTimeout (core cmd : Nat)
  -- events: issue, barriers, context (06, 07, 18)
  | starvationPromotion (slot : Nat)
  | parkExpiry (slot : Nat)
  | yieldExpiry (slot : Nat)
  | barrierArrivalUp (unit : Nat)
  | barrierRelease (unit : Nat)
  | preemptionRequest (unit : Nat)
  | ctxdatRead (d : Nat)
  | ctxdatWrite (a : Src)
  | unitPlacement (vf : Nat)
  | tailDoorbell (q tail : Nat)
  | launchRecordTake (q : Nat)
  | queueRestart (q : Nat)
  | eventRecordDeliver (core : Nat)
  | unitKill (slot cause : Nat) (lanes : W32) (detail addr : W64)
  -- events: heat, the Drover, power (07)
  | sensorSample (readings : List (Nat × Nat))
  | refreshMultiplierFall (vault : Nat)
  | thermalMigration (core : Nat)
  | droverSample (launch : Nat)
  | droverRebalance (launch : Nat)
  | nearThresholdTransition (core quarter busy : Nat)
  | lendingStart (core : Nat)
  | lendingRecall (core : Nat)
  -- events: Graze (14)
  | candidateBuild (vf target : Nat) (code : List W32)
  | candidateTest (vf cand : Nat)
  | hurdleComparison (slot : Nat)
  | comparisonAbandon (slot : Nat)
  | cullWithdrawalRecord (vf id : Nat)
  | gqrdWrite (vf : Nat) (value : W64)
  -- events: errors, resets, observation (15)
  | uncorrectableError (t : ErrTarget)
  | correctedError (die vault bank row col : Nat)
  | dramRepair (die vault bank : Nat) (isRow : Bool) (n : Nat)
  | correctionEntryLapse (die n : Nat)
  | functionReset (vf : Nat)
  | functionResetComplete (vf : Nat)
  | bellwetherRecord (core quarter : Nat)
  | trcfgWrite (k : Nat) (value : W64)
  | traceHypervisorHold (core : Nat)
  | traceHypervisorRelease (core : Nat)
  | runhaltWrite (c : Nat) (value : W64)
  | runbkWrite (c : Nat) (value : W64)
  | registerWrite (r : HReg) (value : BitVec 128)
  -- events: fabric, attestation, start and power (16)
  | flitResend (link : Nat)
  | linkDown (link : Nat)
  | linkUp (link : Nat)
  | bankSwitch
  | requestTimeout (id : Nat)
  | getVersion (requester : Endpoint)
  | getCapabilities (requester : Endpoint)
  | negotiateAlgorithms (requester : Endpoint) (asym hash : Bool)
  | getDigests (requester : Endpoint)
  | getCertificate (requester : Endpoint) (offset length : Nat)
  | challenge (requester : Endpoint) (nonce : List Byte)
  | getMeasurements (requester : Endpoint) (index : Nat) (nonce : List Byte)
  | spdmUnsupportedRequest (requester : Endpoint) (code : Nat)
  | coldStart
  | configImageRewrite
  | thermalShutdown (c : ShutdownCause)
  | powerAllowanceRefill (core quarter : Nat)
  | hostCancel (launch : Nat) (lvl : CLvl)
  | powerOff
  | resultWriteback (slot : Nat)
  deriving DecidableEq, Repr, Inhabited

end Sys2Proof
end

