-- ==== Sys2Proof/Decode.lean ====
section
/-! DEFINITION. The encodings of R216 to R244: the fields of an instruction, the checks in the order of R243, the decoder, and the encoder beside it. -/

namespace Sys2Proof

/-! ## Codes -/

/-- The operand code of a source (R219). -/
def Src.code : Src → Nat
  | .v n => n
  | .s n => 256 + n
  | .o n => 320 + n
  | .y n => 328 + n
  | .exec => 330
  | .imm i => (i + 640).toNat
  | .lit _ => 1023

/-- The operand code of a destination (R219, R220). -/
def Dst.code : Dst → Nat
  | .v n => n
  | .o n => 320 + n
  | .s n => 256 + n
  | .exec => 330

/-- The operand code of a tile operand (R220). -/
def TOp.code : TOp → Nat
  | .v n => n
  | .s n => 256 + n

def ITy.code : ITy → Nat
  | .w32 => 0 | .w64 => 1 | .w16 => 2 | .w8 => 3

def ITy.of (t : Nat) : ITy :=
  match t with
  | 0 => .w32 | 1 => .w64 | 2 => .w16 | _ => .w8

def FTy.code : FTy → Nat
  | .f32 => 0 | .f64 => 1 | .f16 => 2 | .bf16 => 3

def FTy.of (t : Nat) : FTy :=
  match t with
  | 0 => .f32 | 1 => .f64 | 2 => .f16 | _ => .bf16

def MSz.code : MSz → Nat
  | .b1 => 0 | .b2 => 1 | .b4 => 2 | .b8 => 3

def MSz.of (t : Nat) : MSz :=
  match t with
  | 0 => .b1 | 1 => .b2 | 2 => .b4 | _ => .b8

/-- Format codes (R233). -/
def Fmt.code : Fmt → Nat
  | .int8 => 0 | .uint8 => 1 | .int16 => 2 | .uint16 => 3 | .int32 => 4 | .uint32 => 5 | .int64 => 6 | .uint64 => 7
  | .fp16 => 8 | .bf16 => 9 | .fp32 => 10 | .fp64 => 11 | .e4m3 => 12 | .e5m2 => 13 | .e2m1 => 14 | .t8 => 15 | .e8m0 => 16

def Fmt.of (n : Nat) : Fmt :=
  match n with
  | 0 => .int8 | 1 => .uint8 | 2 => .int16 | 3 => .uint16 | 4 => .int32 | 5 => .uint32 | 6 => .int64 | 7 => .uint64
  | 8 => .fp16 | 9 => .bf16 | 10 => .fp32 | 11 => .fp64 | 12 => .e4m3 | 13 => .e5m2 | 14 => .e2m1 | 15 => .t8 | _ => .e8m0

/-- Scope codes (R234). -/
def Scope.code : Scope → Nat
  | .w => 1 | .u => 2 | .d => 3 | .k => 4 | .f => 5

def Scope.of (n : Nat) : Scope :=
  match n with
  | 1 => .w | 2 => .u | 3 => .d | 4 => .k | _ => .f

def ICond.code : ICond → Nat
  | .eq => 0 | .ne => 1 | .lt => 2 | .le => 3 | .gt => 4 | .ge => 5

def ICond.of (n : Nat) : ICond :=
  match n with
  | 0 => .eq | 1 => .ne | 2 => .lt | 3 => .le | 4 => .gt | _ => .ge

def FCond.code : FCond → Nat
  | .eq => 0 | .ne => 1 | .lt => 2 | .le => 3 | .gt => 4 | .ge => 5 | .un => 6 | .ord => 7

def FCond.of (n : Nat) : FCond :=
  match n with
  | 0 => .eq | 1 => .ne | 2 => .lt | 3 => .le | 4 => .gt | 5 => .ge | 6 => .un | _ => .ord

def BarLvl.code : BarLvl → Nat
  | .u => 1 | .d => 2 | .k => 3

def BarLvl.of (n : Nat) : BarLvl :=
  match n with
  | 1 => .u | 2 => .d | _ => .k

def CLvl.code : CLvl → Nat
  | .launch => 0 | .graph => 1 | .phase => 2 | .job => 3

def CLvl.of (n : Nat) : CLvl :=
  match n with
  | 0 => .launch | 1 => .graph | 2 => .phase | _ => .job

def ShflMode.code : ShflMode → Nat
  | .idx => 0 | .up => 1 | .down => 2 | .xor => 3

def ShflMode.of (n : Nat) : ShflMode :=
  match n with
  | 0 => .idx | 1 => .up | 2 => .down | _ => .xor

def RedOp.code : RedOp → Nat
  | .add => 0 | .min => 1 | .max => 2 | .and => 3 | .or => 4 | .xor => 5

def RedOp.of (n : Nat) : RedOp :=
  match n with
  | 0 => .add | 1 => .min | 2 => .max | 3 => .and | 4 => .or | _ => .xor

def RndMode.code : RndMode → Nat
  | .rne => 0 | .rtz => 1 | .rup => 2 | .rdn => 3 | .rna => 4 | .dyn => 5

def RndMode.of (n : Nat) : RndMode :=
  match n with
  | 0 => .rne | 1 => .rtz | 2 => .rup | 3 => .rdn | 4 => .rna | _ => .dyn

/-- The operation and the signed bit in the K field of atom, bits [7:3] (R318). -/
def AtomOp.code : AtomOp → Nat
  | .add => 0 | .min sg => 1 + cond sg 16 0 | .max sg => 2 + cond sg 16 0 | .and => 3 | .or => 4 | .xor => 5 | .exch => 6

def AtomOp.of (n : Nat) : AtomOp :=
  match n % 16 with
  | 0 => .add | 1 => .min (n / 16 == 1) | 2 => .max (n / 16 == 1) | 3 => .and | 4 => .or | 5 => .xor | _ => .exch

def FoldKind.code : FoldKind → Nat
  | .add => 0 | .rot => 1 | .crc => 2

def FoldKind.of (n : Nat) : FoldKind :=
  match n with
  | 0 => .add | 1 => .rot | _ => .crc

def ChkKind.code : ChkKind → Nat
  | .eq => 0 | .fold => 1 | .near => 2

def ChkKind.of (n : Nat) : ChkKind :=
  match n with
  | 0 => .eq | 1 => .fold | _ => .near

/-- Restricted opcodes (R230). -/
def ROp.code : ROp → Nat
  | .addU32 => 0 | .subU32 => 1 | .mulU32 => 2 | .madU32 => 3 | .andU32 => 4 | .orU32 => 5 | .xorU32 => 6 | .shlU32 => 7
  | .shrU32 => 8 | .sarI32 => 9 | .minI32 => 10 | .maxI32 => 11 | .minU32 => 12 | .maxU32 => 13 | .addSatI32 => 14
  | .subSatI32 => 15 | .movU32 => 16 | .notU32 => 17 | .absI32 => 18 | .clzU32 => 19 | .popcU32 => 20 | .mulhI32 => 21
  | .mulhU32 => 22 | .addSatU32 => 23 | .faddF32 => 24 | .fsubF32 => 25 | .fmulF32 => 26 | .fmaF32 => 27 | .fminF32 => 28
  | .fmaxF32 => 29 | .faddF16 => 30 | .fmulF16 => 31 | .fmaF16 => 32 | .faddBf16 => 33 | .fmulBf16 => 34 | .fmaBf16 => 35
  | .frcpF32 => 36 | .frsqF32 => 37 | .fexp2F32 => 38 | .flog2F32 => 39 | .fsubF16 => 40 | .fsubBf16 => 41 | .addU16 => 42
  | .subU16 => 43 | .fminF16 => 44 | .fmaxF16 => 45 | .fminBf16 => 46 | .fmaxBf16 => 47 | .subSatU32 => 48
  | .fdot2F16 => 64 | .fdot2Bf16 => 65 | .mulU16 => 66 | .minI16 => 67 | .maxI16 => 68 | .madU16 => 69

/-- The restricted opcodes that a pair and a compact form may both use, 0 to 48 in order (R230). -/
def ropTable : List ROp :=
  [.addU32, .subU32, .mulU32, .madU32, .andU32, .orU32, .xorU32, .shlU32, .shrU32, .sarI32, .minI32, .maxI32, .minU32,
   .maxU32, .addSatI32, .subSatI32, .movU32, .notU32, .absI32, .clzU32, .popcU32, .mulhI32, .mulhU32, .addSatU32] ++
  [.faddF32, .fsubF32, .fmulF32, .fmaF32, .fminF32, .fmaxF32, .faddF16, .fmulF16, .fmaF16, .faddBf16, .fmulBf16, .fmaBf16,
   .frcpF32, .frsqF32, .fexp2F32, .flog2F32, .fsubF16, .fsubBf16, .addU16, .subU16, .fminF16, .fmaxF16, .fminBf16,
   .fmaxBf16, .subSatU32]

/-- The restricted opcodes of a pair alone, 64 to 69 (R230). -/
def ropPairTable : List ROp := [.fdot2F16, .fdot2Bf16, .mulU16, .minI16, .maxI16, .madU16]

/-- The restricted opcode that a code names, in a pair or in a compact form (R230). -/
def ROp.of (pair : Bool) (n : Nat) : Option ROp :=
  if n < 64 then ropTable[n]? else if pair then ropPairTable[n - 64]? else none

/-- The unary restricted forms, whose b must hold code 0 (R229, R230). -/
def ROp.unary : ROp → Bool
  | .movU32 | .notU32 | .absI32 | .clzU32 | .popcU32 | .frcpF32 | .frsqF32 | .fexp2F32 | .flog2F32 => true
  | _ => false

/-- The accumulate restricted forms, which read d as source C (R229, R230). -/
def ROp.accum : ROp → Bool
  | .madU32 | .fmaF32 | .fmaF16 | .fmaBf16 | .fdot2F16 | .fdot2Bf16 | .madU16 => true
  | _ => false

/-! ## Format pairs -/

/-- cvt: distinct formats of codes 0 to 15, and E8M0 to FP32 (R302). -/
def cvtOk (d s : Nat) : Bool := (d < 16 && s < 16 && d != s) || (s == 16 && d == 10)
/-- pack (R303). -/
def packOk (d s : Nat) : Bool := ((d == 8 || d == 9) && s == 10) || ([12, 13, 15, 0, 1].contains d && (s == 8 || s == 9))
/-- pack.tile (R304). -/
def packTileOk (d s : Nat) : Bool := s == 10 && [8, 9, 12, 13, 15, 0, 14].contains d
/-- unpk (R305). -/
def unpkOk (d s : Nat) : Bool :=
  ([12, 13, 14, 15, 8, 9].contains s && [10, 8, 9].contains d && d != s) || (s < 4 && d == 4)
/-- qnt (R306). -/
def qntOk (d s : Nat) : Bool := s == 10 && [12, 13, 14, 15, 0].contains d
/-- dqnt (R307). -/
def dqntOk (d s : Nat) : Bool := d == 10 && [12, 13, 14, 15, 0].contains s
/-- The 64-bit formats, whose operands are register pairs (R301). -/
def fmtWide (n : Nat) : Bool := n == 6 || n == 7 || n == 11
/-- The K field of atom: scope, operation and signed bit (R318). -/
def atomOk (c : Nat) : Bool :=
  1 ≤ c % 8 && c % 8 ≤ 5 && c < 256 && c / 8 % 16 ≤ 6 && (c < 128 || c / 8 % 16 == 1 || c / 8 % 16 == 2)
/-- A scope code (R234, R323). -/
def scopeOk (c : Nat) : Bool := 1 ≤ c && c ≤ 5

/-! ## The operand fields of an instruction -/

/-- The four kinds of source field (R220, R236). -/
inductive SrcKind where
  | v | scal | uni | uniPlus
  deriving DecidableEq, Repr

/-- One operand field of a full or literal form, with what its kind asks of it (R220). -/
inductive Opd where
  /-- Kind —. -/
  | none
  /-- Kinds V, U and U+; wide is a 64-bit operand (R53). -/
  | src (k : SrcKind) (wide : Bool) (x : HSrc)
  /-- Kind D, and S where EXEC is accepted; v and o registers only where vo holds. -/
  | dst (vo s exec wide : Bool) (x : Dst)
  /-- Kind S; even asks for an even register (R365). -/
  | sdst (even : Bool) (n : Nat)
  /-- Kind P. -/
  | pred (n : Nat)
  /-- Kind T. -/
  | tile (t : TOp)
  /-- The first of a run of vector registers (R326). -/
  | vreg (n : Nat)
  /-- Kind K, and the two parts of kind I. -/
  | kval (n : Nat) (ok : Bool)
  deriving DecidableEq, Repr

/-- What the encoding tables R235 to R242 give an instruction of the full or literal form: opcode, AUX, guard and operand fields; ok says that its type is allowed. -/
structure View where
  op : Nat
  aux : Bool := false
  ok : Bool := true
  guard : Option Guard := none
  d : Opd := .none
  a : Opd := .none
  b : Opd := .none
  c : Opd := .none
  deriving DecidableEq, Repr

/-- The two parts of an unsigned 20-bit immediate (R224): the part in B carries the range check. -/
def iuB (n : Nat) : Opd := .kval (n % 1024) (n < 2 ^ 20)
def iuC (n : Nat) : Opd := .kval (n / 1024 % 1024) true
/-- The two parts of a signed 20-bit immediate (R224). -/
def isB (i : Int) : Opd := .kval ((i % 2 ^ 20).toNat % 1024) (-(2 ^ 19) ≤ i && i < 2 ^ 19)
def isC (i : Int) : Opd := .kval ((i % 2 ^ 20).toNat / 1024) true

/-- Whether a source is the literal. -/
def Src.isLit : Src → Bool
  | .lit _ => true
  | _ => false

/-- A source without a hold bit. -/
def noHold (x : Src) : HSrc := ⟨x, false⟩
/-- A 32-bit or 64-bit source of kind V. -/
def srcV (wide : Bool) (x : HSrc) : Opd := .src .v wide x
/-- A scalar source (R236). -/
def srcS (x : Src) : Opd := .src .scal false (noHold x)
/-- A uniform source. -/
def srcU (x : Src) : Opd := .src .uni false (noHold x)
/-- A v or o destination. -/
def dstV (wide : Bool) (x : Dst) : Opd := .dst true false false wide x

def ITy.wide (t : ITy) : Bool := t == .w64
def ITy.narrow (t : ITy) : Bool := t == .w16 || t == .w8
def FTy.wide (t : FTy) : Bool := t == .f64
def MSz.wide (t : MSz) : Bool := t == .b8
def MSz.half (t : MSz) : Bool := t == .b1 || t == .b2

/-- The view of a group 3 instruction: op index, type, AUX and fields (R238). -/
def view3 (op : Nat) (t : ITy) (sg : Bool) (g : Guard) (ok : Bool) (d a b c : Opd) : Option View :=
  some { op := 0x180 + 4 * op + t.code, aux := sg, ok := ok, guard := some g, d := d, a := a, b := b, c := c }

/-- The view of a group 4 instruction (R239). -/
def view4 (op : Nat) (t : FTy) (g : Guard) (ok : Bool) (d a b c : Opd) : Option View :=
  some { op := 0x200 + 4 * op + t.code, ok := ok, guard := some g, d := d, a := a, b := b, c := c }

/-- The view of a group 6 instruction (R241). -/
def view6 (op : Nat) (t : MSz) (sp : Bool) (g : Option Guard) (ok : Bool) (d a b c : Opd) : Option View :=
  some { op := 0x300 + 4 * op + t.code, aux := sp, ok := ok, guard := g, d := d, a := a, b := b, c := c }

/-- The three-operand integer forms. -/
def view3ab (op : Nat) (t : ITy) (sg : Bool) (g : Guard) (ok : Bool) (d : Dst) (a b : HSrc) : Option View :=
  view3 op t sg g ok (dstV t.wide d) (srcV t.wide a) (srcV t.wide b) .none
/-- The two-operand integer forms. -/
def view3a (op : Nat) (t : ITy) (sg : Bool) (g : Guard) (ok : Bool) (d : Dst) (a : HSrc) : Option View :=
  view3 op t sg g ok (dstV t.wide d) (srcV t.wide a) .none .none
/-- The three-operand float forms. -/
def view4ab (op : Nat) (t : FTy) (g : Guard) (d : Dst) (a b : HSrc) : Option View :=
  view4 op t g true (dstV t.wide d) (srcV t.wide a) (srcV t.wide b) .none
/-- The two-operand float forms. -/
def view4a (op : Nat) (t : FTy) (g : Guard) (ok : Bool) (d : Dst) (a : HSrc) : Option View :=
  view4 op t g ok (dstV t.wide d) (srcV t.wide a) .none .none
/-- The scalar forms (R236). -/
def view1 (minor : Nat) (sg : Bool) (d a b c : Opd) : Option View :=
  some { op := 0x080 + minor, aux := sg, d := d, a := a, b := b, c := c }
/-- The predicate forms (R237). -/
def view2 (minor : Nat) (aux : Bool) (g : Guard) (d a b : Opd) : Option View :=
  some { op := 0x100 + minor, aux := aux, guard := some g, d := d, a := a, b := b }
/-- The formats of a K field: destination in [4:0], source in [9:5] (R240). -/
def fmtK (d s : Fmt) (ok : Nat → Nat → Bool) : Opd := .kval (d.code + 32 * s.code) (ok d.code s.code)

/-- The encoding table's view of every instruction of the full and literal forms; pairs, compact forms and events have none. -/
def Instr.view : Instr → Option View
  | .nop => some { op := 0 }
  | .region vl ol => some { op := 1, ok := ol < 256 && vl < 256, b := iuB (vl + 256 * ol), c := iuC (vl + 256 * ol) }
  | .ifP n p off => some { op := 2, aux := n, a := .pred p, b := iuB off, c := iuC off }
  | .elseP off => some { op := 3, b := iuB off, c := iuC off }
  | .endif => some { op := 4 }
  | .loop => some { op := 5 }
  | .endloop off => some { op := 6, b := iuB off, c := iuC off }
  | .breakP n p => some { op := 7, aux := n, a := .pred p }
  | .contP n p => some { op := 8, aux := n, a := .pred p }
  | .callRelative d off => some { op := 9, d := .sdst false d, b := isB off, c := isC off }
  | .callIndirect d t => some { op := 0xA, d := .sdst false d, a := .src .uniPlus true t }
  | .ret t => some { op := 0xB, a := .src .uniPlus true t }
  | .exit => some { op := 0xC }
  | .trap n => some { op := 0xD, b := iuB n, c := iuC n }
  | .tret => some { op := 0xE }
  | .bkpt n => some { op := 0xF, b := iuB n, c := iuC n }
  | .spawn t arg => some { op := 0x10, a := .src .uniPlus true t, b := .src .uniPlus true arg }
  | .yield => some { op := 0x11 }
  | .svc n => some { op := 0x12, b := iuB n, c := iuC n }
  | .rdsys d n => some { op := 0x18, d := .sdst false d, b := iuB n, c := iuC n }
  | .wrsys a n => some { op := 0x19, a := srcU a, b := iuB n, c := iuC n }
  | .rdtime d => some { op := 0x1A, d := .sdst false d }
  | .rdid d n => some { op := 0x1B, d := .dst true (n != 0) false false d, b := iuB n, c := iuC n }
  | .sadd d a b => view1 0 false (.sdst false d) (srcS a) (srcS b) .none
  | .ssub d a b => view1 1 false (.sdst false d) (srcS a) (srcS b) .none
  | .smul d a b => view1 2 false (.sdst false d) (srcS a) (srcS b) .none
  | .smulh sg d a b => view1 3 sg (.sdst false d) (srcS a) (srcS b) .none
  | .sdiv sg d a b => view1 4 sg (.sdst false d) (srcS a) (srcS b) .none
  | .srem sg d a b => view1 5 sg (.sdst false d) (srcS a) (srcS b) .none
  | .sand d a b => view1 6 false (.sdst false d) (srcS a) (srcS b) .none
  | .sor d a b => view1 7 false (.sdst false d) (srcS a) (srcS b) .none
  | .sxor d a b => view1 8 false (.sdst false d) (srcS a) (srcS b) .none
  | .sshl d a b => view1 9 false (.sdst false d) (srcS a) (srcS b) .none
  | .sshr d a b => view1 0xA false (.sdst false d) (srcS a) (srcS b) .none
  | .ssar d a b => view1 0xB false (.sdst false d) (srcS a) (srcS b) .none
  | .smin sg d a b => view1 0xC sg (.sdst false d) (srcS a) (srcS b) .none
  | .smax sg d a b => view1 0xD sg (.sdst false d) (srcS a) (srcS b) .none
  | .scmp sg cc p a b => view1 0xE sg (.pred p) (srcS a) (srcS b) (.kval cc.code true)
  | .smov d a => view1 0xF false (.dst false true true false d) (srcS a) .none .none
  | .sli d i => view1 0x10 false (.sdst false d) .none (isB i) (isC i)
  | .sclz d a => view1 0x11 false (.sdst false d) (srcS a) .none .none
  | .spopc d a => view1 0x12 false (.sdst false d) (srcS a) .none .none
  | .sbfx sg d a p l => view1 0x13 sg (.sdst false d) (srcS a) (srcS p) (srcS l)
  | .sbfi d a p l => view1 0x14 false (.sdst false d) (srcS a) (srcS p) (srcS l)
  | .sadr d a b c => view1 0x15 false (.sdst false d) (srcS a) (srcS b) (srcS c)
  | .sext sg d a l => view1 0x16 sg (.sdst false d) (srcS a) (srcS l) .none
  | .pand g d a b => view2 0 false g (.pred d) (.pred a) (.pred b)
  | .por g d a b => view2 1 false g (.pred d) (.pred a) (.pred b)
  | .pxor g d a b => view2 2 false g (.pred d) (.pred a) (.pred b)
  | .pnot g d a => view2 3 false g (.pred d) (.pred a) .none
  | .pmov g d (.p a) => view2 4 false g (.pred d) (.pred a) .none
  | .pmov g d (.val a) => view2 4 true g (.pred d) (srcV false a) .none
  | .pany g d a => view2 5 false g (.pred d) (.pred a) .none
  | .pall g d a => view2 6 false g (.pred d) (.pred a) .none
  | .pcnt g d a => view2 7 false g (.sdst false d) (.pred a) .none
  | .pfirst g d a => view2 8 false g (.sdst false d) (.pred a) .none
  | .pballot g d a => view2 9 false g (.dst true true true false d) (.pred a) .none
  | .add t g d a b => view3ab 0 t false g true d a b
  | .sub t g d a b => view3ab 1 t false g true d a b
  | .mul t g d a b => view3ab 2 t false g true d a b
  | .mulh t sg g d a b => view3ab 3 t sg g true d a b
  | .mad t g d a b c => view3 4 t false g true (dstV t.wide d) (srcV t.wide a) (srcV t.wide b) (srcV t.wide c)
  | .div t sg g d a b => view3ab 5 t sg g (!t.narrow) d a b
  | .rem t sg g d a b => view3ab 6 t sg g (!t.narrow) d a b
  | .min t sg g d a b => view3ab 7 t sg g true d a b
  | .max t sg g d a b => view3ab 8 t sg g true d a b
  | .abs t sg g d a => view3a 9 t sg g true d a
  | .and t g d a b => view3ab 10 t false g (!t.narrow) d a b
  | .or t g d a b => view3ab 11 t false g (!t.narrow) d a b
  | .xor t g d a b => view3ab 12 t false g (!t.narrow) d a b
  | .not t g d a => view3a 13 t false g (!t.narrow) d a
  | .shl t g d a b => view3 14 t false g true (dstV t.wide d) (srcV t.wide a) (srcV false b) .none
  | .shr t g d a b => view3 15 t false g true (dstV t.wide d) (srcV t.wide a) (srcV false b) .none
  | .sar t g d a b => view3 16 t false g true (dstV t.wide d) (srcV t.wide a) (srcV false b) .none
  | .clz t g d a => view3a 17 t false g true d a
  | .popc t g d a => view3a 18 t false g true d a
  | .bfx t sg g d a p l => view3 19 t sg g true (dstV t.wide d) (srcV t.wide a) (srcV false p) (srcV false l)
  | .bfi t g d a p l => view3 20 t false g true (dstV t.wide d) (srcV t.wide a) (srcV false p) (srcV false l)
  | .sel t g d a b p => view3 21 t false g (!t.narrow) (dstV t.wide d) (srcV t.wide a) (srcV t.wide b) (.pred p)
  | .cmp t sg cc g p a b => view3 22 t sg g true (.pred p) (srcV t.wide a) (srcV t.wide b) (.kval cc.code true)
  | .mov t g d a => view3 23 t false g (!t.narrow) (.dst true false (!t.wide) t.wide d) (srcV t.wide a) .none .none
  | .shfl t m g d a b => view3 24 t false g (!t.narrow) (dstV t.wide d) (srcV t.wide a) (srcV false b) (.kval m.code true)
  | .bcast t g d a n => view3 25 t false g (!t.narrow) (dstV t.wide d) (srcV t.wide a) (srcU n) .none
  | .lred t sg o g d a => view3 26 t sg g true (.dst true true false t.wide d) (srcV t.wide a) .none (.kval o.code true)
  | .lscan t sg o e g d a => view3 27 t sg g true (dstV t.wide d) (srcV t.wide a) .none (.kval (o.code + cond e 8 0) true)
  | .addSat t sg g d a b => view3ab 28 t sg g true d a b
  | .subSat t sg g d a b => view3ab 29 t sg g true d a b
  | .mulSat t sg g d a b => view3ab 30 t sg g true d a b
  | .fadd t g d a b => view4ab 0 t g d a b
  | .fsub t g d a b => view4ab 1 t g d a b
  | .fmul t g d a b => view4ab 2 t g d a b
  | .fma t g d a b c => view4 3 t g true (dstV t.wide d) (srcV t.wide a) (srcV t.wide b) (srcV t.wide c)
  | .fmin t g d a b => view4ab 4 t g d a b
  | .fmax t g d a b => view4ab 5 t g d a b
  | .fdiv t g d a b => view4ab 6 t g d a b
  | .fsqrt t g d a => view4a 7 t g true d a
  | .frcp t g d a => view4a 8 t g true d a
  | .frsq t g d a => view4a 9 t g true d a
  | .fexp2 t g d a => view4a 10 t g (!t.wide) d a
  | .flog2 t g d a => view4a 11 t g (!t.wide) d a
  | .fsin t g d a => view4a 12 t g (!t.wide) d a
  | .fcos t g d a => view4a 13 t g (!t.wide) d a
  | .ftanh t g d a => view4a 14 t g (!t.wide) d a
  | .fcmp t cc g p a b => view4 15 t g true (.pred p) (srcV t.wide a) (srcV t.wide b) (.kval cc.code true)
  | .fcls t g p a m => view4 16 t g true (.pred p) (srcV t.wide a) .none (.kval m (m < 1023))
  | .fround t m g d a => view4 17 t g true (dstV t.wide d) (srcV t.wide a) .none (.kval m.code true)
  | .fdot2 t g d a b c => view4 18 t g (t == .f16 || t == .bf16) (dstV false d) (srcV false a) (srcV false b) (srcV false c)
  | .cvt ds sr g d a => some { op := 0x280, guard := some g, d := dstV (fmtWide ds.code) d, a := srcV (fmtWide sr.code) a, c := fmtK ds sr cvtOk }
  | .pack ds sr g d a b => some { op := 0x281, guard := some g, d := dstV false d, a := srcV false a, b := srcV false b, c := fmtK ds sr packOk }
  | .packTile ds d f n => some { op := 0x282, d := dstV false d, a := srcU f, b := srcU n, c := fmtK ds .fp32 packTileOk }
  | .unpk ds sr g d a k => some { op := 0x283, guard := some g, d := dstV false d, a := srcV false a, b := srcV false k, c := fmtK ds sr unpkOk }
  | .qnt ds g d a s => some { op := 0x284, guard := some g, d := dstV false d, a := srcV false a, b := srcV false s, c := fmtK ds .fp32 qntOk }
  | .dqnt sr g d a s => some { op := 0x285, guard := some g, d := dstV false d, a := srcV false a, b := srcV false s, c := fmtK .fp32 sr dqntOk }
  | .csum k g d a => some { op := 0x288, guard := some g, d := dstV false d, a := srcV false a, c := .kval k.code true }
  | .chk k g a b => some { op := 0x289, guard := some g, a := srcV false a, b := srcV false b, c := .kval k.code true }
  | .ld z sp g d a c => view6 0 z sp (some g) true (dstV z.wide d) (srcV (!sp) a) .none (srcV false c)
  | .ldSigned z sp g d a c => view6 1 z sp (some g) z.half (dstV false d) (srcV (!sp) a) .none (srcV false c)
  | .st z sp g a b c => view6 2 z sp (some g) true .none (srcV (!sp) a) (srcV z.wide b) (srcV false c)
  | .sld z sp d a c => view6 3 z sp none true (.sdst false d) (srcU a) .none (srcU c)
  | .sst z sp a b c => view6 4 z sp none true .none (srcU a) (srcU b) (srcU c)
  | .prf sp g a c => view6 5 .b1 sp (some g) true .none (srcV (!sp) a) .none (srcV false c)
  | .atom o z sp sc g d a b => view6 6 z sp (some g) (!z.half) (.dst true true false z.wide d) (srcV (!sp) a) (srcV z.wide b) (.kval (sc.code + 8 * o.code) true)
  | .cas z sp sc g d a b => view6 7 z sp (some g) (!z.half) (.dst true true false z.wide d) (srcV (!sp) a) (srcV z.wide b) (.kval sc.code true)
  | .ldacq z sp sc g d a => view6 8 z sp (some g) true (.dst true true false z.wide d) (srcV (!sp) a) .none (.kval sc.code true)
  | .strel z sp sc g a b => view6 9 z sp (some g) true .none (srcV (!sp) a) (srcV z.wide b) (.kval sc.code true)
  | .fence sc => view6 10 .b1 false none true .none .none .none (.kval sc.code true)
  | .rel sc => view6 11 .b1 false none true .none .none .none (.kval sc.code true)
  | .acq sc => view6 12 .b1 false none true .none .none .none (.kval sc.code true)
  | .bar l => view6 13 .b1 false none true .none .none .none (.kval l.code true)
  | .poll sp p q => view6 14 .b1 false none true (.pred p) (srcU q) .none (.kval (cond sp 1 0) true)
  | .wait nl ns nc nt => view6 15 .b1 false none (nl < 64 && ns < 64 && nc < 16 && nt < 16) .none .none
      (iuB (nl + 64 * ns + 4096 * nc + 65536 * nt)) (iuC (nl + 64 * ns + 4096 * nc + 65536 * nt))
  | .qput q b => view6 16 .b1 false none true .none (srcU q) (.vreg b) .none
  | .qget d q => view6 17 .b1 false none true (.vreg d) (srcU q) .none .none
  | .qprobe d q => view6 18 .b1 false none true (.sdst false d) (srcU q) .none .none
  | .cncl l => view6 19 .b1 false none true .none .none .none (.kval l.code true)
  | .cpy h x => some { op := 0x380, a := srcU h, b := srcU x }
  | .stadv n => some { op := 0x381, ok := 1 ≤ n && n < 65536, b := iuB n, c := iuC n }
  | .hwait full p h => some { op := 0x382, d := .pred p, a := srcU h, c := .kval (cond full 2 0) true }
  | .hrel h => some { op := 0x383, a := srcU h }
  | .mtask t a b fb => some { op := 0x384, ok := !t.isLit, d := .src .uni false (noHold t), a := .tile a, b := .tile b, c := srcU fb }
  | .aalloc n => some { op := 0x385, a := srcU n }
  | .afree => some { op := 0x386 }
  | .ald g d a c => some { op := 0x387, guard := some g, d := dstV false d, a := srcV false a, c := srcV false c }
  | .ast g a b c => some { op := 0x388, guard := some g, a := srcV false a, b := srcV false b, c := srcV false c }
  | .azero t => some { op := 0x389, a := srcU t }
  | .aep t ds ed => some { op := 0x38A, a := srcU t, b := srcU ds, c := srcU ed }
  | .cpyc h x g => some { op := 0x38B, a := srcU h, b := srcU x, c := srcU g }
  | .evget d => some { op := 0x38C, d := .sdst true d }
  | .gpol l => some { op := 0x390, a := srcU l }
  | .gqry d x => some { op := 0x391, d := .sdst false d, a := srcU x }
  | .gcul x => some { op := 0x392, a := srcU x }
  | _ => none

/-! ## Pairs and compact forms -/

/-- The compact instruction of a half: one constructor for each restricted opcode below 49 (R227, R229). -/
def Instr.ofCompact (h : Half) : Option Instr :=
  match h.op, h.b with
  | .addU32, some b => some (.addU32Compact h.d h.a b)
  | .subU32, some b => some (.subU32Compact h.d h.a b)
  | .mulU32, some b => some (.mulU32Compact h.d h.a b)
  | .madU32, some b => some (.madU32Compact h.d h.a b)
  | .andU32, some b => some (.andU32Compact h.d h.a b)
  | .orU32, some b => some (.orU32Compact h.d h.a b)
  | .xorU32, some b => some (.xorU32Compact h.d h.a b)
  | .shlU32, some b => some (.shlU32Compact h.d h.a b)
  | .shrU32, some b => some (.shrU32Compact h.d h.a b)
  | .sarI32, some b => some (.sarI32Compact h.d h.a b)
  | .minI32, some b => some (.minI32Compact h.d h.a b)
  | .maxI32, some b => some (.maxI32Compact h.d h.a b)
  | .minU32, some b => some (.minU32Compact h.d h.a b)
  | .maxU32, some b => some (.maxU32Compact h.d h.a b)
  | .addSatI32, some b => some (.addSatI32Compact h.d h.a b)
  | .subSatI32, some b => some (.subSatI32Compact h.d h.a b)
  | .movU32, none => some (.movU32Compact h.d h.a)
  | .notU32, none => some (.notU32Compact h.d h.a)
  | .absI32, none => some (.absI32Compact h.d h.a)
  | .clzU32, none => some (.clzU32Compact h.d h.a)
  | .popcU32, none => some (.popcU32Compact h.d h.a)
  | .mulhI32, some b => some (.mulhI32Compact h.d h.a b)
  | .mulhU32, some b => some (.mulhU32Compact h.d h.a b)
  | .addSatU32, some b => some (.addSatU32Compact h.d h.a b)
  | .faddF32, some b => some (.faddF32Compact h.d h.a b)
  | .fsubF32, some b => some (.fsubF32Compact h.d h.a b)
  | .fmulF32, some b => some (.fmulF32Compact h.d h.a b)
  | .fmaF32, some b => some (.fmaF32Compact h.d h.a b)
  | .fminF32, some b => some (.fminF32Compact h.d h.a b)
  | .fmaxF32, some b => some (.fmaxF32Compact h.d h.a b)
  | .faddF16, some b => some (.faddF16Compact h.d h.a b)
  | .fmulF16, some b => some (.fmulF16Compact h.d h.a b)
  | .fmaF16, some b => some (.fmaF16Compact h.d h.a b)
  | .faddBf16, some b => some (.faddBf16Compact h.d h.a b)
  | .fmulBf16, some b => some (.fmulBf16Compact h.d h.a b)
  | .fmaBf16, some b => some (.fmaBf16Compact h.d h.a b)
  | .frcpF32, none => some (.frcpF32Compact h.d h.a)
  | .frsqF32, none => some (.frsqF32Compact h.d h.a)
  | .fexp2F32, none => some (.fexp2F32Compact h.d h.a)
  | .flog2F32, none => some (.flog2F32Compact h.d h.a)
  | .fsubF16, some b => some (.fsubF16Compact h.d h.a b)
  | .fsubBf16, some b => some (.fsubBf16Compact h.d h.a b)
  | .addU16, some b => some (.addU16Compact h.d h.a b)
  | .subU16, some b => some (.subU16Compact h.d h.a b)
  | .fminF16, some b => some (.fminF16Compact h.d h.a b)
  | .fmaxF16, some b => some (.fmaxF16Compact h.d h.a b)
  | .fminBf16, some b => some (.fminBf16Compact h.d h.a b)
  | .fmaxBf16, some b => some (.fmaxBf16Compact h.d h.a b)
  | .subSatU32, some b => some (.subSatU32Compact h.d h.a b)
  | _, _ => none

/-- The half that a compact instruction is made of (R227, R229); other instructions have none. -/
def Instr.compactHalf : Instr → Option Half
  | .addU32Compact d a b => some ⟨.addU32, d, a, some b⟩
  | .subU32Compact d a b => some ⟨.subU32, d, a, some b⟩
  | .mulU32Compact d a b => some ⟨.mulU32, d, a, some b⟩
  | .madU32Compact d a b => some ⟨.madU32, d, a, some b⟩
  | .andU32Compact d a b => some ⟨.andU32, d, a, some b⟩
  | .orU32Compact d a b => some ⟨.orU32, d, a, some b⟩
  | .xorU32Compact d a b => some ⟨.xorU32, d, a, some b⟩
  | .shlU32Compact d a b => some ⟨.shlU32, d, a, some b⟩
  | .shrU32Compact d a b => some ⟨.shrU32, d, a, some b⟩
  | .sarI32Compact d a b => some ⟨.sarI32, d, a, some b⟩
  | .minI32Compact d a b => some ⟨.minI32, d, a, some b⟩
  | .maxI32Compact d a b => some ⟨.maxI32, d, a, some b⟩
  | .minU32Compact d a b => some ⟨.minU32, d, a, some b⟩
  | .maxU32Compact d a b => some ⟨.maxU32, d, a, some b⟩
  | .addSatI32Compact d a b => some ⟨.addSatI32, d, a, some b⟩
  | .subSatI32Compact d a b => some ⟨.subSatI32, d, a, some b⟩
  | .movU32Compact d a => some ⟨.movU32, d, a, none⟩
  | .notU32Compact d a => some ⟨.notU32, d, a, none⟩
  | .absI32Compact d a => some ⟨.absI32, d, a, none⟩
  | .clzU32Compact d a => some ⟨.clzU32, d, a, none⟩
  | .popcU32Compact d a => some ⟨.popcU32, d, a, none⟩
  | .mulhI32Compact d a b => some ⟨.mulhI32, d, a, some b⟩
  | .mulhU32Compact d a b => some ⟨.mulhU32, d, a, some b⟩
  | .addSatU32Compact d a b => some ⟨.addSatU32, d, a, some b⟩
  | .faddF32Compact d a b => some ⟨.faddF32, d, a, some b⟩
  | .fsubF32Compact d a b => some ⟨.fsubF32, d, a, some b⟩
  | .fmulF32Compact d a b => some ⟨.fmulF32, d, a, some b⟩
  | .fmaF32Compact d a b => some ⟨.fmaF32, d, a, some b⟩
  | .fminF32Compact d a b => some ⟨.fminF32, d, a, some b⟩
  | .fmaxF32Compact d a b => some ⟨.fmaxF32, d, a, some b⟩
  | .faddF16Compact d a b => some ⟨.faddF16, d, a, some b⟩
  | .fmulF16Compact d a b => some ⟨.fmulF16, d, a, some b⟩
  | .fmaF16Compact d a b => some ⟨.fmaF16, d, a, some b⟩
  | .faddBf16Compact d a b => some ⟨.faddBf16, d, a, some b⟩
  | .fmulBf16Compact d a b => some ⟨.fmulBf16, d, a, some b⟩
  | .fmaBf16Compact d a b => some ⟨.fmaBf16, d, a, some b⟩
  | .frcpF32Compact d a => some ⟨.frcpF32, d, a, none⟩
  | .frsqF32Compact d a => some ⟨.frsqF32, d, a, none⟩
  | .fexp2F32Compact d a => some ⟨.fexp2F32, d, a, none⟩
  | .flog2F32Compact d a => some ⟨.flog2F32, d, a, none⟩
  | .fsubF16Compact d a b => some ⟨.fsubF16, d, a, some b⟩
  | .fsubBf16Compact d a b => some ⟨.fsubBf16, d, a, some b⟩
  | .addU16Compact d a b => some ⟨.addU16, d, a, some b⟩
  | .subU16Compact d a b => some ⟨.subU16, d, a, some b⟩
  | .fminF16Compact d a b => some ⟨.fminF16, d, a, some b⟩
  | .fmaxF16Compact d a b => some ⟨.fmaxF16, d, a, some b⟩
  | .fminBf16Compact d a b => some ⟨.fminBf16, d, a, some b⟩
  | .fmaxBf16Compact d a b => some ⟨.fmaxBf16, d, a, some b⟩
  | .subSatU32Compact d a b => some ⟨.subSatU32, d, a, some b⟩
  | _ => none

/-- Where a restricted form stands: the first or the second half of a pair, or a compact form (R228). -/
inductive RPos where
  | first | second | compact
  deriving DecidableEq, Repr

/-- The vector register that code k below 120 names (R228). -/
def RPos.vreg (pos : RPos) (k : Nat) : Nat :=
  match pos with
  | .first => 6 * (k / 3) + k % 3
  | .second => 6 * (k / 3) + k % 3 + 3
  | .compact => k

/-- The code of a vector register, where the position can name it (R228). -/
def RPos.vcode (pos : RPos) (n : Nat) : Option Nat :=
  match pos with
  | .first => if n % 6 < 3 && n < 240 then some (3 * (n / 6) + n % 6) else none
  | .second => if 3 ≤ n % 6 && n < 240 then some (3 * (n / 6) + n % 6 - 3) else none
  | .compact => if n < 120 then some n else none

/-- The source that an 8-bit code names (R228). -/
def RPos.src (pos : RPos) (k : Nat) : Src :=
  if k < 120 then .v (pos.vreg k) else if k < 184 then .s (k - 120) else if k < 192 then .o (k - 184)
  else if k < 194 then .y (k - 192) else .imm ((k : Int) - 225)

/-- The 8-bit code of a source, where R228 has one. -/
def RPos.srcCode (pos : RPos) : Src → Option Nat
  | .v n => pos.vcode n
  | .s n => if n < 64 then some (120 + n) else none
  | .o n => if n < 8 then some (184 + n) else none
  | .y n => if n < 2 then some (192 + n) else none
  | .imm i => if -31 ≤ i && i ≤ 30 then some (i + 225).toNat else none
  | .exec => none
  | .lit _ => none

/-- The 8-bit code of a destination, where R228 has one. -/
def RPos.dstCode (pos : RPos) : Dst → Option Nat
  | .v n => pos.vcode n
  | .o n => if n < 8 then some (184 + n) else none
  | .s _ => none
  | .exec => none

/-- Whether a source of a restricted form lies below the budget B (R56). -/
def Src.below (bud : Nat) : Src → Bool
  | .v n => n < bud
  | _ => true

/-- Whether a destination lies below the budget B (R56). -/
def Dst.below (bud : Nat) : Dst → Bool
  | .v n => n < bud
  | _ => true

/-- A check that failed: its REASON and FIELD (R243, R244). -/
structure Bad where
  reason : Nat
  field : Nat
  deriving DecidableEq, Repr

/-- What a decoder answers: an instruction, an ILLOP, or that the parcels end too soon (R217). -/
inductive Decoded where
  | ok (i : Instr)
  | bad (b : Bad)
  | short
  deriving DecidableEq, Repr

/-- The checks and the reading of one restricted form: steps 1, 6, 8 and 9 of R243 with the d codes of R228. -/
def decodeHalf (pos : RPos) (bud op d a b : Nat) : Except Bad Half :=
  match ROp.of (pos != .compact) op with
  | none => .error ⟨0x01, 0⟩
  | some o =>
    if (120 ≤ d && d < 184) || 194 ≤ d then .error ⟨0x06, 1⟩
    else if o.unary && b != 0 then .error ⟨0x06, 3⟩
    else if 192 ≤ d then .error ⟨0x08, 1⟩
    else
      let dst : Dst := if d < 120 then .v (pos.vreg d) else .o (d - 184)
      let h : Half := ⟨o, dst, pos.src a, if o.unary then none else some (pos.src b)⟩
      if !dst.below bud then .error ⟨0x09, 1⟩
      else if !h.a.below bud then .error ⟨0x09, 2⟩
      else if !o.unary && !(pos.src b).below bud then .error ⟨0x09, 3⟩
      else .ok h

/-- The compact form of one parcel (R227, R230). -/
def decodeCompact (bud w : Nat) : Decoded :=
  if bits w 2 6 = 49 then
    if bits w 8 8 ≠ 0 then .bad ⟨0x06, 1⟩ else if bits w 16 8 ≠ 0 then .bad ⟨0x06, 2⟩
    else if bits w 24 8 ≠ 0 then .bad ⟨0x06, 3⟩ else .ok .cnop
  else
    match decodeHalf .compact bud (bits w 2 6) (bits w 8 8) (bits w 16 8) (bits w 24 8) with
    | .error e => .bad e
    | .ok h => match Instr.ofCompact h with
      | some i => .ok i
      | none => .bad ⟨0x01, 0⟩

/-- A pair of 64 bits (R226, and step 11 of R243). -/
def decodePair (bud w : Nat) : Decoded :=
  match decodeHalf .first bud (bits w 2 7) (bits w 9 8) (bits w 17 8) (bits w 25 8) with
  | .error _ => .bad ⟨0x0B, 7⟩
  | .ok x =>
    match decodeHalf .second bud (bits w 33 7) (bits w 40 8) (bits w 48 8) (bits w 56 8) with
    | .error _ => .bad ⟨0x0B, 8⟩
    | .ok y => .ok (.pair x y)

/-! ## The fields of a full or literal form -/

/-- The fields of R218. -/
structure Fields where
  lit? : Bool
  op : Nat
  aux : Bool
  gp : Nat
  gs : Bool
  d : Nat
  a : Nat
  b : Nat
  c : Nat
  ha : Bool
  hb : Bool
  hc : Bool
  lit : W32
  deriving DecidableEq, Repr

/-- The fields of a word (R218): bits [63:0], and the literal above them in the literal form. -/
def Fields.of (lit? : Bool) (w : Nat) : Fields :=
  { lit? := lit?, op := bits w 2 10, aux := bits w 12 1 == 1, gp := bits w 13 7, gs := bits w 20 1 == 1,
    d := bits w 21 10, a := bits w 31 10, b := bits w 41 10, c := bits w 51 10,
    ha := bits w 61 1 == 1, hb := bits w 62 1 == 1, hc := bits w 63 1 == 1,
    lit := if lit? then BitVec.ofNat 32 (bits w 64 32) else 0 }

/-- The unsigned 20-bit immediate (R224). -/
def Fields.iu (f : Fields) : Nat := f.b + 1024 * f.c
/-- The signed 20-bit immediate (R224). -/
def Fields.is (f : Fields) : Int := if f.c < 512 then (f.iu : Int) else (f.iu : Int) - 2 ^ 20
/-- The guard (R222). -/
def Fields.g (f : Fields) : Guard := ⟨f.gp, f.gs⟩

/-- The kinds of R220 as a decoder checks them. -/
inductive Kind where
  | none
  | src (k : SrcKind) (wide : Bool)
  | dst (vo s exec wide : Bool)
  | sdst (even : Bool)
  | pred
  | tile
  | vreg
  | vdst
  | kval (ok : Bool)
  deriving DecidableEq, Repr

/-- What the opcode map says of one opcode: whether AUX may be 1, whether it takes a guard, and the kinds of its fields. -/
structure Shape where
  aux : Bool := false
  guard : Bool := false
  d : Kind := .none
  a : Kind := .none
  b : Kind := .none
  c : Kind := .none
  deriving DecidableEq, Repr

/-- What the opcode map answers: unassigned, a reserved type, or a shape (steps 1 and 2 of R243). -/
inductive Lookup where
  | unassigned
  | badType
  | row (s : Shape)
  deriving DecidableEq, Repr

def kV (wide : Bool) : Kind := .src .v wide
def kS : Kind := .src .scal false
def kU : Kind := .src .uni false
def kUP : Kind := .src .uniPlus true
def kD (wide : Bool) : Kind := .dst true false false wide
def kI : Kind := .kval true
def kSD : Kind := .sdst false

/-- Group 0 (R235). -/
def shape0 (m : Nat) (f : Fields) : Lookup :=
  match m with
  | 0x00 | 0x04 | 0x05 | 0x0C | 0x0E | 0x11 => .row {}
  | 0x01 => .row { b := kI, c := .kval (f.iu < 65536) }
  | 0x02 => .row { aux := true, a := .pred, b := kI, c := kI }
  | 0x03 | 0x06 | 0x0D | 0x0F | 0x12 => .row { b := kI, c := kI }
  | 0x07 | 0x08 => .row { aux := true, a := .pred }
  | 0x09 => .row { d := kSD, b := kI, c := kI }
  | 0x0A => .row { d := kSD, a := kUP }
  | 0x0B => .row { a := kUP }
  | 0x10 => .row { a := kUP, b := kUP }
  | 0x18 => .row { d := kSD, b := kI, c := kI }
  | 0x19 => .row { a := kU, b := kI, c := kI }
  | 0x1A => .row { d := kSD }
  | 0x1B => .row { d := .dst true (f.iu != 0) false false, b := kI, c := kI }
  | _ => .unassigned

/-- Group 1 (R236). -/
def shape1 (m : Nat) (f : Fields) : Lookup :=
  match m with
  | 0x00 | 0x01 | 0x02 | 0x06 | 0x07 | 0x08 | 0x09 | 0x0A | 0x0B => .row { d := kSD, a := kS, b := kS }
  | 0x03 | 0x04 | 0x05 | 0x0C | 0x0D | 0x16 => .row { aux := true, d := kSD, a := kS, b := kS }
  | 0x0E => .row { aux := true, d := .pred, a := kS, b := kS, c := .kval (f.c ≤ 5) }
  | 0x0F => .row { d := .dst false true true false, a := kS }
  | 0x10 => .row { d := kSD, b := kI, c := kI }
  | 0x11 | 0x12 => .row { d := kSD, a := kS }
  | 0x13 => .row { aux := true, d := kSD, a := kS, b := kS, c := kS }
  | 0x14 | 0x15 => .row { d := kSD, a := kS, b := kS, c := kS }
  | _ => .unassigned

/-- Group 2 (R237). -/
def shape2 (m : Nat) (f : Fields) : Lookup :=
  match m with
  | 0x00 | 0x01 | 0x02 => .row { guard := true, d := .pred, a := .pred, b := .pred }
  | 0x03 | 0x05 | 0x06 => .row { guard := true, d := .pred, a := .pred }
  | 0x04 => .row { aux := true, guard := true, d := .pred, a := if f.aux then kV false else .pred }
  | 0x07 | 0x08 => .row { guard := true, d := kSD, a := .pred }
  | 0x09 => .row { guard := true, d := .dst true true true false, a := .pred }
  | _ => .unassigned

/-- Group 3 (R238). -/
def shape3 (op t : Nat) (f : Fields) : Lookup :=
  let w := t == 1
  let row (all : Bool) (d a b c : Kind) : Lookup :=
    if !all && 2 ≤ t then .badType else .row { aux := true, guard := true, d := d, a := a, b := b, c := c }
  match op with
  | 0 | 1 | 2 | 3 | 7 | 8 | 28 | 29 | 30 => row true (kD w) (kV w) (kV w) .none
  | 4 => row true (kD w) (kV w) (kV w) (kV w)
  | 5 | 6 | 10 | 11 | 12 => row false (kD w) (kV w) (kV w) .none
  | 9 | 17 | 18 => row true (kD w) (kV w) .none .none
  | 13 => row false (kD w) (kV w) .none .none
  | 14 | 15 | 16 => row true (kD w) (kV w) (kV false) .none
  | 19 | 20 => row true (kD w) (kV w) (kV false) (kV false)
  | 21 => row false (kD w) (kV w) (kV w) .pred
  | 22 => row true .pred (kV w) (kV w) (.kval (f.c ≤ 5))
  | 23 => row false (.dst true false (!w) w) (kV w) .none .none
  | 24 => row false (kD w) (kV w) (kV false) (.kval (f.c ≤ 3))
  | 25 => row false (kD w) (kV w) kU .none
  | 26 => row true (.dst true true false w) (kV w) .none (.kval (f.c ≤ 5))
  | 27 => row true (kD w) (kV w) .none (.kval (f.c < 16 && f.c % 8 ≤ 5))
  | _ => .unassigned

/-- Group 4 (R239). -/
def shape4 (op t : Nat) (f : Fields) : Lookup :=
  let w := t == 1
  let row (ok : Bool) (d a b c : Kind) : Lookup :=
    if !ok then .badType else .row { guard := true, d := d, a := a, b := b, c := c }
  match op with
  | 0 | 1 | 2 | 4 | 5 | 6 => row true (kD w) (kV w) (kV w) .none
  | 3 => row true (kD w) (kV w) (kV w) (kV w)
  | 7 | 8 | 9 => row true (kD w) (kV w) .none .none
  | 10 | 11 | 12 | 13 | 14 => row (!w) (kD w) (kV w) .none .none
  | 15 => row true .pred (kV w) (kV w) (.kval (f.c ≤ 7))
  | 16 => row true .pred (kV w) .none (.kval true)
  | 17 => row true (kD w) (kV w) .none (.kval (f.c ≤ 5))
  | 18 => row (2 ≤ t) (kD false) (kV false) (kV false) (kV false)
  | _ => .unassigned

/-- Group 5 (R240). -/
def shape5 (m : Nat) (f : Fields) : Lookup :=
  let k (ok : Nat → Nat → Bool) : Kind := .kval (ok (f.c % 32) (f.c / 32))
  match m with
  | 0x00 => .row { guard := true, d := kD (fmtWide (f.c % 32)), a := kV (fmtWide (f.c / 32)), c := k cvtOk }
  | 0x01 => .row { guard := true, d := kD false, a := kV false, b := kV false, c := k packOk }
  | 0x02 => .row { d := kD false, a := kU, b := kU, c := k packTileOk }
  | 0x03 => .row { guard := true, d := kD false, a := kV false, b := kV false, c := k unpkOk }
  | 0x04 => .row { guard := true, d := kD false, a := kV false, b := kV false, c := k qntOk }
  | 0x05 => .row { guard := true, d := kD false, a := kV false, b := kV false, c := k dqntOk }
  | 0x08 => .row { guard := true, d := kD false, a := kV false, c := .kval (f.c ≤ 2) }
  | 0x09 => .row { guard := true, a := kV false, b := kV false, c := .kval (f.c ≤ 2) }
  | _ => .unassigned

/-- Group 6 (R241). -/
def shape6 (op t : Nat) (f : Fields) : Lookup :=
  let w := t == 3
  let va := kV (!f.aux)
  let row (ok aux guard : Bool) (d a b c : Kind) : Lookup :=
    if !ok then .badType else .row { aux := aux, guard := guard, d := d, a := a, b := b, c := c }
  let sc : Kind := .kval (scopeOk f.c)
  match op with
  | 0 => row true true true (kD w) va .none (kV false)
  | 1 => row (t < 2) true true (kD false) va .none (kV false)
  | 2 => row true true true .none va (kV w) (kV false)
  | 3 => row true true false kSD kU .none kU
  | 4 => row true true false .none kU kU kU
  | 5 => row (t == 0) true true .none va .none (kV false)
  | 6 => row (2 ≤ t) true true (.dst true true false w) va (kV w) (.kval (atomOk f.c))
  | 7 => row (2 ≤ t) true true (.dst true true false w) va (kV w) sc
  | 8 => row true true true (.dst true true false w) va .none sc
  | 9 => row true true true .none va (kV w) sc
  | 10 | 11 | 12 => row (t == 0) false false .none .none .none sc
  | 13 => row (t == 0) false false .none .none .none (.kval (1 ≤ f.c && f.c ≤ 3))
  | 14 => row (t == 0) false false .pred kU .none (.kval (f.c ≤ 1))
  | 15 => row (t == 0) false false .none .none kI kI
  | 16 => row (t == 0) false false .none kU .vreg .none
  | 17 => row (t == 0) false false .vdst kU .none .none
  | 18 => row (t == 0) false false kSD kU .none .none
  | 19 => row (t == 0) false false .none .none .none (.kval (f.c ≤ 3))
  | _ => .unassigned

/-- Group 7 (R242, R342, R350, R365). -/
def shape7 (m : Nat) (f : Fields) : Lookup :=
  match m with
  | 0x00 => .row { a := kU, b := kU }
  | 0x01 => .row { b := kI, c := .kval (1 ≤ f.iu && f.iu < 65536) }
  | 0x02 => .row { d := .pred, a := kU, c := .kval (f.c == 0 || f.c == 2) }
  | 0x03 | 0x05 | 0x09 | 0x10 | 0x12 => .row { a := kU }
  | 0x04 => .row { d := kU, a := .tile, b := .tile, c := kU }
  | 0x06 => .row {}
  | 0x07 => .row { guard := true, d := kD false, a := kV false, c := kV false }
  | 0x08 => .row { guard := true, a := kV false, b := kV false, c := kV false }
  | 0x0A | 0x0B => .row { a := kU, b := kU, c := kU }
  | 0x0C => .row { d := .sdst true }
  | 0x11 => .row { d := kSD, a := kU }
  | _ => .unassigned

/-- The opcode map (R231). -/
def shape (f : Fields) : Lookup :=
  let m := f.op % 128
  match f.op / 128 with
  | 0 => shape0 m f
  | 1 => shape1 m f
  | 2 => shape2 m f
  | 3 => shape3 (m / 4) (m % 4) f
  | 4 => shape4 (m / 4) (m % 4) f
  | 5 => shape5 m f
  | 6 => shape6 (m / 4) (m % 4) f
  | 7 => shape7 m f
  | _ => .unassigned

def isV (c : Nat) : Bool := c < 240
def isS (c : Nat) : Bool := 256 ≤ c && c < 320
def isO (c : Nat) : Bool := 320 ≤ c && c < 328
def isY (c : Nat) : Bool := c == 328 || c == 329
def isImm (c : Nat) : Bool := 512 ≤ c && c < 768

/-- Step 6 of R243 for one field: the code is of the field's kind (R219, R220). -/
def Kind.accepts (k : Kind) (c : Nat) : Bool :=
  match k with
  | .none => c == 0
  | .src .v _ => isV c || isS c || isO c || isY c || c == 330 || isImm c || c == 1023
  | .src .scal _ => isS c || c == 330 || isImm c || c == 1023
  | .src .uni _ => isS c || isImm c || c == 1023
  | .src .uniPlus _ => isV c || isS c || isImm c || c == 1023
  | .dst vo s e _ => (vo && (isV c || isO c)) || (s && isS c) || (e && c == 330) || isY c
  | .sdst even => (isS c && (!even || c % 2 == 0)) || isY c
  | .pred => c < 128
  | .tile => isV c || (isS c && c % 2 == 0)
  | .vreg => isV c
  | .vdst => isV c || isY c
  | .kval ok => ok

/-- Whether a field of this kind holds an operand code that may be the literal (R225). -/
def Kind.isSrc : Kind → Bool
  | .src _ _ => true
  | _ => false

/-- Whether a hold bit may stand at a field of this kind (R221). -/
def Kind.mayHold : Kind → Bool
  | .src _ _ | .tile | .vreg => true
  | _ => false

/-- Whether a field of this kind holds a register code (steps 8 to 10). -/
def Kind.isReg : Kind → Bool
  | .src _ _ | .dst _ _ _ _ | .tile | .vreg | .vdst => true
  | _ => false

/-- Whether a field of this kind is a 64-bit operand (R53). -/
def Kind.wide : Kind → Bool
  | .src _ w => w
  | .dst _ _ _ w => w
  | _ => false

/-- Whether a field is a destination (step 8). -/
def Kind.isDst : Kind → Bool
  | .dst _ _ _ _ | .sdst _ | .vdst => true
  | _ => false

/-- The first failing field of the four, in the order D, A, B, C, numbered as FIELD (R244). -/
def firstBad (reason : Nat) (d a b c : Bool) : Option Bad :=
  if d then some ⟨reason, 1⟩ else if a then some ⟨reason, 2⟩ else if b then some ⟨reason, 3⟩
  else if c then some ⟨reason, 4⟩ else none

/-- How many of the fields A, B and C are coded as the literal (R225). -/
def literals (sh : Shape) (f : Fields) : Nat :=
  cond (sh.a.isSrc && f.a == 1023) 1 0 + cond (sh.b.isSrc && f.b == 1023) 1 0 + cond (sh.c.isSrc && f.c == 1023) 1 0

/-- The budget by which the instructions of a control core are decoded: it has no budget of registers (R174), and s registers are the destinations of its atomics (R335). -/
def ctlBudget : Nat := 256

/-- Whether an atomic, cas or ldacq names an s destination, which the control core alone has (R241, R335). -/
def scalarAtom (bud : Nat) (f : Fields) : Bool := bud != ctlBudget && isS f.d && 0x318 ≤ f.op && f.op < 0x324

/-- Steps 3 to 10 of R243, in order. Code 1023 in the mask of fcls, a field of kind K, fails with the literals (R225; log 10). -/
def check (bud : Nat) (sh : Shape) (f : Fields) : Option Bad :=
  if f.aux && !sh.aux then some ⟨0x03, 0⟩
  else if (if sh.guard then f.gp == 0 && f.gs else f.gp != 0 || f.gs) then some ⟨0x04, 5⟩
  else if (f.ha && !sh.a.mayHold) || (f.hb && !sh.b.mayHold) || (f.hc && !sh.c.mayHold) then some ⟨0x05, 6⟩
  else
    match firstBad 0x06 (!sh.d.accepts f.d || scalarAtom bud f) (!sh.a.accepts f.a) (!sh.b.accepts f.b) (!sh.c.accepts f.c) with
    | some e => some e
    | none =>
      if literals sh f != cond f.lit? 1 0 || (sh.d.isSrc && f.d == 1023) || (f.op / 4 == 0x90 && f.c == 1023) then some ⟨0x07, 0⟩
      else if sh.d.isDst && isY f.d then some ⟨0x08, 1⟩
      else
        let beyond (k : Kind) (c : Nat) : Bool := k.isReg && isV c && bud ≤ c
        match firstBad 0x09 (beyond sh.d f.d) (beyond sh.a f.a) (beyond sh.b f.b) (beyond sh.c f.c) with
        | some e => some e
        | none =>
          if f.op == 1 && bud < f.iu % 256 then some ⟨0x09, 3⟩
          else
            let odd (k : Kind) (c : Nat) : Bool := k.wide && (isV c || isO c) && c % 2 == 1
            firstBad 0x0A (odd sh.d f.d) (odd sh.a f.a) (odd sh.b f.b) (odd sh.c f.c)

/-! ## From fields to an instruction -/

/-- The source of an operand code (R219). -/
def Fields.src (f : Fields) (c : Nat) : Src :=
  if isV c then .v c else if isS c then .s (c - 256) else if isO c then .o (c - 320) else if isY c then .y (c - 328)
  else if c == 330 then .exec else if isImm c then .imm ((c : Int) - 640) else .lit f.lit

/-- The source with its hold bit, which is dropped where R62 ignores it. -/
def Fields.hsrc (f : Fields) (c : Nat) (h : Bool) : HSrc := ⟨f.src c, h && (isV c || isO c)⟩
def Fields.A (f : Fields) : HSrc := f.hsrc f.a f.ha
def Fields.B (f : Fields) : HSrc := f.hsrc f.b f.hb
def Fields.C (f : Fields) : HSrc := f.hsrc f.c f.hc
def Fields.sa (f : Fields) : Src := f.src f.a
def Fields.sb (f : Fields) : Src := f.src f.b
def Fields.sc (f : Fields) : Src := f.src f.c
/-- The scalar register of the D field. -/
def Fields.sd (f : Fields) : Nat := f.d - 256
/-- The destination of the D field (R220). -/
def Fields.D (f : Fields) : Dst :=
  if isV f.d then .v f.d else if isS f.d then .s (f.d - 256) else if isO f.d then .o (f.d - 320) else .exec
/-- A tile operand (R220). -/
def tileOf (c : Nat) : TOp := if isV c then .v c else .s (c - 256)

def build0 (m : Nat) (f : Fields) : Option Instr :=
  match m with
  | 0x00 => some .nop
  | 0x01 => some (.region (f.iu % 256) (f.iu / 256))
  | 0x02 => some (.ifP f.aux f.a f.iu)
  | 0x03 => some (.elseP f.iu)
  | 0x04 => some .endif
  | 0x05 => some .loop
  | 0x06 => some (.endloop f.iu)
  | 0x07 => some (.breakP f.aux f.a)
  | 0x08 => some (.contP f.aux f.a)
  | 0x09 => some (.callRelative f.sd f.is)
  | 0x0A => some (.callIndirect f.sd f.A)
  | 0x0B => some (.ret f.A)
  | 0x0C => some .exit
  | 0x0D => some (.trap f.iu)
  | 0x0E => some .tret
  | 0x0F => some (.bkpt f.iu)
  | 0x10 => some (.spawn f.A f.B)
  | 0x11 => some .yield
  | 0x12 => some (.svc f.iu)
  | 0x18 => some (.rdsys f.sd f.iu)
  | 0x19 => some (.wrsys f.sa f.iu)
  | 0x1A => some (.rdtime f.sd)
  | 0x1B => some (.rdid f.D f.iu)
  | _ => none

def build1 (m : Nat) (f : Fields) : Option Instr :=
  match m with
  | 0x00 => some (.sadd f.sd f.sa f.sb)
  | 0x01 => some (.ssub f.sd f.sa f.sb)
  | 0x02 => some (.smul f.sd f.sa f.sb)
  | 0x03 => some (.smulh f.aux f.sd f.sa f.sb)
  | 0x04 => some (.sdiv f.aux f.sd f.sa f.sb)
  | 0x05 => some (.srem f.aux f.sd f.sa f.sb)
  | 0x06 => some (.sand f.sd f.sa f.sb)
  | 0x07 => some (.sor f.sd f.sa f.sb)
  | 0x08 => some (.sxor f.sd f.sa f.sb)
  | 0x09 => some (.sshl f.sd f.sa f.sb)
  | 0x0A => some (.sshr f.sd f.sa f.sb)
  | 0x0B => some (.ssar f.sd f.sa f.sb)
  | 0x0C => some (.smin f.aux f.sd f.sa f.sb)
  | 0x0D => some (.smax f.aux f.sd f.sa f.sb)
  | 0x0E => some (.scmp f.aux (ICond.of f.c) f.d f.sa f.sb)
  | 0x0F => some (.smov f.D f.sa)
  | 0x10 => some (.sli f.sd f.is)
  | 0x11 => some (.sclz f.sd f.sa)
  | 0x12 => some (.spopc f.sd f.sa)
  | 0x13 => some (.sbfx f.aux f.sd f.sa f.sb f.sc)
  | 0x14 => some (.sbfi f.sd f.sa f.sb f.sc)
  | 0x15 => some (.sadr f.sd f.sa f.sb f.sc)
  | 0x16 => some (.sext f.aux f.sd f.sa f.sb)
  | _ => none

def build2 (m : Nat) (f : Fields) : Option Instr :=
  match m with
  | 0x00 => some (.pand f.g f.d f.a f.b)
  | 0x01 => some (.por f.g f.d f.a f.b)
  | 0x02 => some (.pxor f.g f.d f.a f.b)
  | 0x03 => some (.pnot f.g f.d f.a)
  | 0x04 => some (.pmov f.g f.d (if f.aux then .val f.A else .p f.a))
  | 0x05 => some (.pany f.g f.d f.a)
  | 0x06 => some (.pall f.g f.d f.a)
  | 0x07 => some (.pcnt f.g f.sd f.a)
  | 0x08 => some (.pfirst f.g f.sd f.a)
  | 0x09 => some (.pballot f.g f.D f.a)
  | _ => none

def build3 (op : Nat) (t : ITy) (f : Fields) : Option Instr :=
  match op with
  | 0 => some (.add t f.g f.D f.A f.B)
  | 1 => some (.sub t f.g f.D f.A f.B)
  | 2 => some (.mul t f.g f.D f.A f.B)
  | 3 => some (.mulh t f.aux f.g f.D f.A f.B)
  | 4 => some (.mad t f.g f.D f.A f.B f.C)
  | 5 => some (.div t f.aux f.g f.D f.A f.B)
  | 6 => some (.rem t f.aux f.g f.D f.A f.B)
  | 7 => some (.min t f.aux f.g f.D f.A f.B)
  | 8 => some (.max t f.aux f.g f.D f.A f.B)
  | 9 => some (.abs t f.aux f.g f.D f.A)
  | 10 => some (.and t f.g f.D f.A f.B)
  | 11 => some (.or t f.g f.D f.A f.B)
  | 12 => some (.xor t f.g f.D f.A f.B)
  | 13 => some (.not t f.g f.D f.A)
  | 14 => some (.shl t f.g f.D f.A f.B)
  | 15 => some (.shr t f.g f.D f.A f.B)
  | 16 => some (.sar t f.g f.D f.A f.B)
  | 17 => some (.clz t f.g f.D f.A)
  | 18 => some (.popc t f.g f.D f.A)
  | 19 => some (.bfx t f.aux f.g f.D f.A f.B f.C)
  | 20 => some (.bfi t f.g f.D f.A f.B f.C)
  | 21 => some (.sel t f.g f.D f.A f.B f.c)
  | 22 => some (.cmp t f.aux (ICond.of f.c) f.g f.d f.A f.B)
  | 23 => some (.mov t f.g f.D f.A)
  | 24 => some (.shfl t (ShflMode.of f.c) f.g f.D f.A f.B)
  | 25 => some (.bcast t f.g f.D f.A f.sb)
  | 26 => some (.lred t f.aux (RedOp.of f.c) f.g f.D f.A)
  | 27 => some (.lscan t f.aux (RedOp.of (f.c % 8)) (8 ≤ f.c) f.g f.D f.A)
  | 28 => some (.addSat t f.aux f.g f.D f.A f.B)
  | 29 => some (.subSat t f.aux f.g f.D f.A f.B)
  | 30 => some (.mulSat t f.aux f.g f.D f.A f.B)
  | _ => none

def build4 (op : Nat) (t : FTy) (f : Fields) : Option Instr :=
  match op with
  | 0 => some (.fadd t f.g f.D f.A f.B)
  | 1 => some (.fsub t f.g f.D f.A f.B)
  | 2 => some (.fmul t f.g f.D f.A f.B)
  | 3 => some (.fma t f.g f.D f.A f.B f.C)
  | 4 => some (.fmin t f.g f.D f.A f.B)
  | 5 => some (.fmax t f.g f.D f.A f.B)
  | 6 => some (.fdiv t f.g f.D f.A f.B)
  | 7 => some (.fsqrt t f.g f.D f.A)
  | 8 => some (.frcp t f.g f.D f.A)
  | 9 => some (.frsq t f.g f.D f.A)
  | 10 => some (.fexp2 t f.g f.D f.A)
  | 11 => some (.flog2 t f.g f.D f.A)
  | 12 => some (.fsin t f.g f.D f.A)
  | 13 => some (.fcos t f.g f.D f.A)
  | 14 => some (.ftanh t f.g f.D f.A)
  | 15 => some (.fcmp t (FCond.of f.c) f.g f.d f.A f.B)
  | 16 => some (.fcls t f.g f.d f.A f.c)
  | 17 => some (.fround t (RndMode.of f.c) f.g f.D f.A)
  | 18 => some (.fdot2 t f.g f.D f.A f.B f.C)
  | _ => none

def build5 (m : Nat) (f : Fields) : Option Instr :=
  let ds := Fmt.of (f.c % 32)
  let sr := Fmt.of (f.c / 32)
  match m with
  | 0x00 => some (.cvt ds sr f.g f.D f.A)
  | 0x01 => some (.pack ds sr f.g f.D f.A f.B)
  | 0x02 => some (.packTile ds f.D f.sa f.sb)
  | 0x03 => some (.unpk ds sr f.g f.D f.A f.B)
  | 0x04 => some (.qnt ds f.g f.D f.A f.B)
  | 0x05 => some (.dqnt sr f.g f.D f.A f.B)
  | 0x08 => some (.csum (FoldKind.of f.c) f.g f.D f.A)
  | 0x09 => some (.chk (ChkKind.of f.c) f.g f.A f.B)
  | _ => none

def build6 (op : Nat) (z : MSz) (f : Fields) : Option Instr :=
  match op with
  | 0 => some (.ld z f.aux f.g f.D f.A f.C)
  | 1 => some (.ldSigned z f.aux f.g f.D f.A f.C)
  | 2 => some (.st z f.aux f.g f.A f.B f.C)
  | 3 => some (.sld z f.aux f.sd f.sa f.sc)
  | 4 => some (.sst z f.aux f.sa f.sb f.sc)
  | 5 => some (.prf f.aux f.g f.A f.C)
  | 6 => some (.atom (AtomOp.of (f.c / 8)) z f.aux (Scope.of (f.c % 8)) f.g f.D f.A f.B)
  | 7 => some (.cas z f.aux (Scope.of f.c) f.g f.D f.A f.B)
  | 8 => some (.ldacq z f.aux (Scope.of f.c) f.g f.D f.A)
  | 9 => some (.strel z f.aux (Scope.of f.c) f.g f.A f.B)
  | 10 => some (.fence (Scope.of f.c))
  | 11 => some (.rel (Scope.of f.c))
  | 12 => some (.acq (Scope.of f.c))
  | 13 => some (.bar (BarLvl.of f.c))
  | 14 => some (.poll (f.c == 1) f.d f.sa)
  | 15 => some (.wait (f.iu % 64) (f.iu / 64 % 64) (f.iu / 4096 % 16) (f.iu / 65536))
  | 16 => some (.qput f.sa f.b)
  | 17 => some (.qget f.d f.sa)
  | 18 => some (.qprobe f.sd f.sa)
  | 19 => some (.cncl (CLvl.of f.c))
  | _ => none

def build7 (m : Nat) (f : Fields) : Option Instr :=
  match m with
  | 0x00 => some (.cpy f.sa f.sb)
  | 0x01 => some (.stadv f.iu)
  | 0x02 => some (.hwait (f.c == 2) f.d f.sa)
  | 0x03 => some (.hrel f.sa)
  | 0x04 => some (.mtask (f.src f.d) (tileOf f.a) (tileOf f.b) f.sc)
  | 0x05 => some (.aalloc f.sa)
  | 0x06 => some .afree
  | 0x07 => some (.ald f.g f.D f.A f.C)
  | 0x08 => some (.ast f.g f.A f.B f.C)
  | 0x09 => some (.azero f.sa)
  | 0x0A => some (.aep f.sa f.sb f.sc)
  | 0x0B => some (.cpyc f.sa f.sb f.sc)
  | 0x0C => some (.evget f.sd)
  | 0x10 => some (.gpol f.sa)
  | 0x11 => some (.gqry f.sd f.sa)
  | 0x12 => some (.gcul f.sa)
  | _ => none

/-- The instruction of checked fields (R231). -/
def build (f : Fields) : Option Instr :=
  let m := f.op % 128
  match f.op / 128 with
  | 0 => build0 m f
  | 1 => build1 m f
  | 2 => build2 m f
  | 3 => build3 (m / 4) (ITy.of (m % 4)) f
  | 4 => build4 (m / 4) (FTy.of (m % 4)) f
  | 5 => build5 m f
  | 6 => build6 (m / 4) (MSz.of (m % 4)) f
  | _ => build7 m f

/-! ## Decoding -/

/-- A full or literal form: the checks in the order of R243, then the instruction. -/
def decodeFull (bud : Nat) (f : Fields) : Decoded :=
  match shape f with
  | .unassigned => .bad ⟨0x01, 0⟩
  | .badType => .bad ⟨0x02, 0⟩
  | .row sh =>
    match check bud sh f with
    | some e => .bad e
    | none => match build f with
      | some i => .ok i
      | none => .bad ⟨0x01, 0⟩

/-- The length in bytes of an instruction, from the class of its first parcel (R216). -/
def classLength (p0 : Nat) : Nat :=
  match p0 % 4 with
  | 0 => 8
  | 1 => 8
  | 2 => 12
  | _ => 4

/-- Decoding of an instruction that stands in the low bits of w, for a wave of budget bud. -/
def decodeWord (bud w : Nat) : Decoded :=
  match w % 4 with
  | 0 => decodeFull bud (Fields.of false w)
  | 1 => decodePair bud w
  | 2 => decodeFull bud (Fields.of true w)
  | _ => decodeCompact bud w

/-- The little-endian number of a list of bytes (R8). -/
def leNat : List Byte → Nat
  | [] => 0
  | b :: bs => b.toNat + 256 * leNat bs

/-- The n bytes of a number in little-endian order (R8). -/
def leBytes : Nat → Nat → List Byte
  | 0, _ => []
  | n + 1, w => BitVec.ofNat 8 (w % 256) :: leBytes n (w / 256)

/-- Decoding of bytes at a pc (R216, R217): total on any bytes, with the length of what was decoded. -/
def decodeBytes (bud : Nat) (bs : List Byte) : Decoded × Nat :=
  match bs with
  | [] => (.short, 0)
  | b :: _ =>
    let n := classLength b.toNat
    if bs.length < n then (.short, 0) else (decodeWord bud (leNat (bs.take n)), n)

/-- The decoder's answer for the word of an opcode-table row: the largest budget, bits above the row's are 0. -/
def decodeTableWord (_nbits w : Nat) : Option Instr :=
  match decodeBytes 240 (leBytes 12 w) with
  | (.ok i, _) => some i
  | _ => none

/-! ## Encoding -/

/-- The code that an operand field holds (R218 to R224). -/
def Opd.code : Opd → Nat
  | .none => 0
  | .src _ _ x => x.src.code
  | .dst _ _ _ _ x => x.code
  | .sdst _ n => 256 + n
  | .pred n => n
  | .tile t => t.code
  | .vreg n => n
  | .kval n _ => n

/-- The hold bit of an operand field (R221). -/
def Opd.hold : Opd → Bool
  | .src _ _ x => x.hold
  | _ => false

/-- The literal that an operand field names (R223). -/
def Opd.lit? : Opd → Option W32
  | .src _ _ ⟨.lit l, _⟩ => some l
  | _ => Option.none

/-- The literal of a view: the first of A, B and C that names one (R225). -/
def View.lit? (v : View) : Option W32 :=
  match v.a.lit? with
  | some l => some l
  | none => match v.b.lit? with
    | some l => some l
    | none => v.c.lit?

/-- The fields of a view (R218). -/
def View.fields (v : View) : Fields :=
  { lit? := v.lit?.isSome, op := v.op, aux := v.aux, gp := (v.guard.map (·.p)).getD 0, gs := (v.guard.map (·.neg)).getD false,
    d := v.d.code, a := v.a.code, b := v.b.code, c := v.c.code, ha := v.a.hold, hb := v.b.hold, hc := v.c.hold,
    lit := v.lit?.getD 0 }

/-- The bits of R218. -/
def Fields.word (f : Fields) : Nat :=
  cond f.lit? 2 0 + 2 ^ 2 * f.op + cond f.aux (2 ^ 12) 0 + 2 ^ 13 * f.gp + cond f.gs (2 ^ 20) 0 + 2 ^ 21 * f.d + 2 ^ 31 * f.a
    + 2 ^ 41 * f.b + 2 ^ 51 * f.c + cond f.ha (2 ^ 61) 0 + cond f.hb (2 ^ 62) 0 + cond f.hc (2 ^ 63) 0
    + cond f.lit? (2 ^ 64 * f.lit.toNat) 0

/-- The opcode and the three codes of a restricted form, from its lowest bit; opbits is the width of its opcode (R226, R227). -/
def Half.word (pos : RPos) (opbits : Nat) (h : Half) : Option Nat :=
  match pos.dstCode h.d, pos.srcCode h.a, (match h.b with
    | none => some 0
    | some b => pos.srcCode b) with
  | some d, some a, some b => some (h.op.code + 2 ^ opbits * (d + 2 ^ 8 * (a + 2 ^ 8 * b)))
  | _, _, _ => none

/-- The length of an instruction in bytes (R216); events have none. -/
def Instr.length : Instr → Nat
  | .pair _ _ => 8
  | .cnop => 4
  | i => match i.view with
    | some v => if v.lit?.isSome then 12 else 8
    | none => match i.compactHalf with
      | some _ => 4
      | none => 0

/-- The word of an instruction, from the encoding tables; none for an event and for a form that no encoding has. -/
def Instr.word (i : Instr) : Option Nat :=
  match i with
  | .pair x y =>
    match x.word .first 7, y.word .second 7 with
    | some a, some b => some (1 + 2 ^ 2 * a + 2 ^ 33 * b)
    | _, _ => none
  | .cnop => some 0xC7
  | i => match i.view with
    | some v => some v.fields.word
    | none => match i.compactHalf with
      | some h => (h.word .compact 6).map (fun x => 3 + 2 ^ 2 * x)
      | none => none

/-- The bytes of an instruction as they stand in memory. -/
def encode (i : Instr) : List Byte :=
  match i.word with
  | some w => leBytes i.length w
  | none => []

end Sys2Proof
end

