-- ==== Sys2Proof/Machine/Num.lean ====
section
/-! DEFINITION. The number formats of R204 to R206, exact values, and the one rounding that arithmetic (R207, R208) and narrowing (R209 to R213) share. -/

namespace Sys2Proof

/-- The layout of a binary format: exponent bits, fraction bits, bias (R204). -/
structure Layout where
  eb : Nat
  mb : Nat
  bias : Nat
  deriving DecidableEq, Repr, Inhabited

/-- The layouts of R204; T8, E8M0 and the integers have none of their own. -/
def Fmt.layout : Fmt → Layout
  | .fp64 => ⟨11, 52, 1023⟩
  | .fp16 => ⟨5, 10, 15⟩
  | .bf16 => ⟨8, 7, 127⟩
  | .e5m2 => ⟨5, 2, 15⟩
  | .e4m3 => ⟨4, 3, 7⟩
  | .e2m1 => ⟨2, 1, 1⟩
  | _ => ⟨8, 23, 127⟩

/-- The width of a format in bits (R204, R233). -/
def Fmt.width : Fmt → Nat
  | .int8 | .uint8 | .e4m3 | .e5m2 | .t8 | .e8m0 => 8
  | .int16 | .uint16 | .fp16 | .bf16 => 16
  | .int32 | .uint32 | .fp32 => 32
  | .int64 | .uint64 | .fp64 => 64
  | .e2m1 => 4

/-- Whether a format is an integer format. -/
def Fmt.isInt : Fmt → Bool
  | .int8 | .uint8 | .int16 | .uint16 | .int32 | .uint32 | .int64 | .uint64 => true
  | _ => false

/-- Whether an integer format is signed. -/
def Fmt.isSigned : Fmt → Bool
  | .int8 | .int16 | .int32 | .int64 => true
  | _ => false

end Sys2Proof

namespace Sys2Proof.Machine

/-- An exact value: a NaN with its fraction aligned to 52 bits, quiet bit included; an infinity; or (−1)^sign · m · 2^e. -/
inductive FV where
  | nan (sign : Bool) (frac : Nat)
  | inf (sign : Bool)
  | fin (sign : Bool) (m : Nat) (e : Int)
  deriving DecidableEq, Repr, Inhabited

/-- A rounding rule: the four of R207, ties away of R209 and R298, and dither with its D (R212). -/
inductive Rm where
  | rne | rtz | rup | rdn | rna
  | dither (d : Nat)
  deriving DecidableEq, Repr, Inhabited

/-- The quiet bit of a fraction aligned to 52 bits. -/
def quietBit : Nat := 2 ^ 51

/-- The two's complement reading of a w-bit number. -/
def toSigned (w x : Nat) : Int := if x % 2 ^ w < 2 ^ (w - 1) then (x % 2 ^ w : Nat) else (x % 2 ^ w : Nat) - (2 ^ w : Int)

/-- The w-bit number of an integer, modulo 2^w. -/
def wrap (w : Nat) (i : Int) : Nat := (i % (2 ^ w : Int)).toNat

/-- The exponent and fraction width of a T8 code c with c ≠ 0, z ≤ 4 (R206), and its value as m · 2^e. -/
def t8Decode (c : Nat) : Nat × Int :=
  if c = 1 then (1, 11) else if c = 2 then (1, 10) else if c = 3 then (1, -11)
  else
    let z := 6 - Nat.log2 c
    let d := c / 2 ^ (5 - z) % 2
    let g := c / 2 ^ (4 - z) % 2
    let f := c % 2 ^ (4 - z)
    let e : Int := if d = 1 then -((2 * z + 1 + g : Nat) : Int) else ((2 * z + g : Nat) : Int)
    (2 ^ (4 - z) + f, e - ((4 - z : Nat) : Int))

/-- The number of fraction bits of T8 in the binade of exponent E (R206). -/
def t8Frac (e : Int) : Nat :=
  if 0 ≤ e then (if e ≤ 9 then 4 - e.toNat / 2 else 0) else (if -10 ≤ e then 4 - (-e - 1).toNat / 2 else 0)

/-- The positive T8 code of (1 + f/2^fb) · 2^E (R206). -/
def t8Code (e : Int) (f : Nat) : Nat :=
  if e = 11 then 1 else if e = 10 then 2 else if e = -11 then 3
  else
    let k := if 0 ≤ e then e.toNat else (-e - 1).toNat
    let z := k / 2
    2 ^ (6 - z) + (if 0 ≤ e then 0 else 2 ^ (5 - z)) + (k % 2) * 2 ^ (4 - z) + f

/-- The exact value that an encoding has (R204 to R206); ftz reads a subnormal as zero of its sign (R207). NaR of T8 has no sign (R211; DEDUCED, log 138). -/
def toExact (f : Fmt) (ftz : Bool) (x : Nat) : FV :=
  if f.isInt then
    let i : Int := if f.isSigned then toSigned f.width x else (x % 2 ^ f.width : Nat)
    .fin (i < 0) i.natAbs 0
  else match f with
  | .e8m0 => if x % 256 = 255 then .nan false quietBit else .fin false 1 (((x % 256 : Nat) : Int) - 127)
  | .t8 =>
    let c := x % 128
    let s := x / 128 % 2 == 1
    if c = 0 then (if s then .nan false quietBit else .fin false 0 0)
    else .fin s (t8Decode c).1 (t8Decode c).2
  | f =>
    let l := f.layout
    let s := x / 2 ^ (l.eb + l.mb) % 2 == 1
    let e := x / 2 ^ l.mb % 2 ^ l.eb
    let m := x % 2 ^ l.mb
    if f != .e2m1 && f != .e4m3 && e = 2 ^ l.eb - 1 then
      if m = 0 then .inf s else .nan s (if f == .e5m2 then quietBit else m * 2 ^ (52 - l.mb))
    else if f == .e4m3 && e = 15 && m = 7 then .nan s quietBit
    else if e = 0 then (if ftz then .fin s 0 0 else .fin s m (1 - (l.bias : Int) - l.mb))
    else .fin s (m + 2 ^ l.mb) ((e : Int) - l.bias - l.mb)

/-- The canonical NaN of a format (R208, R211); formats without a NaN give 0. -/
def canonNan (f : Fmt) (sign : Bool) : Nat :=
  match f with
  | .t8 => 0x80
  | .e4m3 => cond sign 0xFF 0x7F
  | .e5m2 => cond sign 0xFE 0x7E
  | .fp16 | .bf16 | .fp32 | .fp64 =>
    let l := f.layout
    cond sign (2 ^ (l.eb + l.mb)) 0 + (2 ^ l.eb - 1) * 2 ^ l.mb + 2 ^ (l.mb - 1)
  | _ => 0

/-- A NaN made quiet with its sign and upper payload bits kept, where the format has a payload (R208, R211); a signalling NaN that cvt or unpk widens is made quiet too, with its sign and payload (DESIGN CHOICE, log 137). -/
def quietNan (f : Fmt) (sign : Bool) (frac : Nat) : Nat :=
  match f with
  | .fp16 | .bf16 | .fp32 | .fp64 =>
    let l := f.layout
    let m := frac / 2 ^ (52 - l.mb)
    cond sign (2 ^ (l.eb + l.mb)) 0 + (2 ^ l.eb - 1) * 2 ^ l.mb + (if m / 2 ^ (l.mb - 1) % 2 = 1 then m else m + 2 ^ (l.mb - 1))
  | f => canonNan f sign

/-- The largest finite value as n · 2^q; the further value of R210 is (n + 1) · 2^q. -/
def topOf (f : Fmt) : Nat × Int :=
  match f with
  | .e4m3 => (14, 5)
  | .e2m1 => (3, 1)
  | .t8 => (1, 11)
  | f => let l := f.layout; (2 ^ (l.mb + 1) - 1, ((2 ^ l.eb : Nat) : Int) - 2 - l.bias - l.mb)

/-- The encoding of ±n · 2^q for n ≤ 2^(mb+1) at the spacing q of its binade. -/
def encodeBin (l : Layout) (sign : Bool) (n : Nat) (q : Int) : Nat :=
  let s := cond sign (2 ^ (l.eb + l.mb)) 0
  if n < 2 ^ l.mb then s + n
  else if n < 2 ^ (l.mb + 1) then s + (q + l.mb + l.bias).toNat * 2 ^ l.mb + (n - 2 ^ l.mb)
  else s + (q + 1 + l.mb + l.bias).toNat * 2 ^ l.mb

/-- The largest finite encoding of a sign. -/
def maxBits (f : Fmt) (sign : Bool) : Nat :=
  match f with
  | .t8 => cond sign 0x81 0x01
  | f => encodeBin f.layout sign (topOf f).1 (topOf f).2

/-- The encoding of an infinity. -/
def infBits (f : Fmt) (sign : Bool) : Nat :=
  let l := f.layout
  cond sign (2 ^ (l.eb + l.mb)) 0 + (2 ^ l.eb - 1) * 2 ^ l.mb

/-- What an overflow gives when it is not held at the largest value (R208, R211). -/
def overflowBits (f : Fmt) (sign sat : Bool) : Nat :=
  match f with
  | .t8 => if sat then maxBits .t8 sign else 0x80
  | .e2m1 => maxBits .e2m1 sign
  | .e4m3 => if sat then maxBits .e4m3 sign else canonNan .e4m3 sign
  | f => if sat then maxBits f sign else infBits f sign

/-- Whether the larger magnitude is chosen between n and n + 1, where the value is n + rem/2^sh, a little more where sticky (R208, R210, R212); tieDown holds where a tie under nearest even takes n. -/
def pickUp (rm : Rm) (sign tieDown sticky : Bool) (rem sh : Nat) : Bool :=
  if rem = 0 && !sticky then false
  else match rm with
  | .rtz => false
  | .rup => !sign
  | .rdn => sign
  | .rna => 2 ^ sh ≤ 2 * rem
  | .rne => 2 ^ sh < 2 * rem || (2 * rem == 2 ^ sh && (sticky || !tieDown))
  | .dither d => if sign then !(d < 32 * (2 ^ sh - rem) / 2 ^ sh) else d < 32 * rem / 2 ^ sh

/-- Whether the rounding moves an overflow back to the largest finite value (R208, R210). -/
def towardSmall (rm : Rm) (sign : Bool) : Bool :=
  match rm with
  | .rtz => true
  | .rup => sign
  | .rdn => !sign
  | _ => false

/-- The exponent of the leading bit of m · 2^e, for m ≠ 0. -/
def leadExp (m : Nat) (e : Int) : Int := e + (Nat.log2 m : Nat)

/-- The parts of m · 2^e at spacing 2^q: the whole multiple, the remainder and its shift. -/
def splitAt (m : Nat) (e q : Int) : Nat × Nat × Nat :=
  if q ≤ e then (m * 2 ^ (e - q).toNat, 0, 0)
  else let sh := (q - e).toNat; (m / 2 ^ sh, m % 2 ^ sh, sh)

/-- Rounding of ±m · 2^e (a little more where sticky) to a binary format (R208, R210). -/
def roundBin (f : Fmt) (rm : Rm) (sat ftz sign : Bool) (m : Nat) (e : Int) (sticky : Bool) : Nat :=
  let l := f.layout
  if m = 0 && !sticky then encodeBin l sign 0 0
  else
    let emin : Int := 1 - (l.bias : Int)
    let q := max (if m = 0 then emin else leadExp m e) emin - l.mb
    let top := topOf f
    if top.2 < q then (if towardSmall rm sign then maxBits f sign else overflowBits f sign sat)
    else
      let p := splitAt m e q
      let n := if pickUp rm sign (p.1 % 2 == 0) sticky p.2.1 p.2.2 then p.1 + 1 else p.1
      if q = top.2 && top.1 < n then (if towardSmall rm sign then maxBits f sign else overflowBits f sign sat)
      else if ftz && n < 2 ^ l.mb && q = emin - l.mb then encodeBin l sign 0 0
      else encodeBin l sign n q

/-- Rounding to T8 (R206, R210). -/
def roundT8 (rm : Rm) (sat sign : Bool) (m : Nat) (e : Int) : Nat :=
  if m = 0 then 0
  else
    let le := leadExp m e
    if 12 ≤ le then (if towardSmall rm sign then maxBits .t8 sign else overflowBits .t8 sign sat)
    else
      let be := max le (-11)
      let fb := t8Frac be
      let q := be - fb
      let p := splitAt m e q
      let code (n : Nat) : Nat :=
        if n = 0 then 0 else if n < 2 ^ (fb + 1) then t8Code be (n - 2 ^ fb) else if be = 11 then 0 else t8Code (be + 1) 0
      let lo := code p.1
      let hi := code (p.1 + 1)
      let up := pickUp rm sign (lo % 2 == 0 || hi % 2 == 1) false p.2.1 p.2.2
      if up && be = 11 && 2 ≤ p.1 + 1 then overflowBits .t8 sign sat
      else
        let c := if up then hi else lo
        if c = 0 then 0 else c + cond sign 128 0

/-- Rounding to an integer format: the value rounded to an integer, then clamped where sat and reduced to its low bits (R210, R211, R302). -/
def roundInt (f : Fmt) (rm : Rm) (sat sign : Bool) (m : Nat) (e : Int) : Nat :=
  let p := splitAt m e 0
  let n := if pickUp rm sign (p.1 % 2 == 0) false p.2.1 p.2.2 then p.1 + 1 else p.1
  let v : Int := if sign then -(n : Int) else n
  let w := f.width
  let lo : Int := if f.isSigned then -(2 ^ (w - 1)) else 0
  let hi : Int := if f.isSigned then 2 ^ (w - 1) - 1 else 2 ^ w - 1
  wrap w (if sat then max lo (min hi v) else v)

/-- Narrowing, and rounding of arithmetic, to any format but E8M0: narrow applies R211 to an infinite source. -/
def roundTo (f : Fmt) (rm : Rm) (sat ftz narrow : Bool) (x : FV) : Nat :=
  match x with
  | .nan s fr => quietNan f s fr
  | .inf s =>
    if f.isInt then
      if !sat then 0
      else if f.isSigned then (if s then 2 ^ (f.width - 1) else 2 ^ (f.width - 1) - 1) else (if s then 0 else 2 ^ f.width - 1)
    else if narrow || f == .t8 || f == .e4m3 || f == .e2m1 then overflowBits f s sat
    else infBits f s
  | .fin s m e =>
    if f.isInt then roundInt f rm sat s m e
    else if f == .t8 then roundT8 rm sat s m e
    else roundBin f rm sat ftz s m e false

/-! ## The rounding registers -/

/-- A rounding field of FMODE (R207). -/
def rmOf (n : Nat) : Rm :=
  match n % 4 with
  | 0 => .rne
  | 1 => .rtz
  | 2 => .rup
  | _ => .rdn

/-- The rounding of FMODE for a format (R207). -/
def fmRm (fmode : W32) (f : Fmt) : Rm :=
  if f == .fp64 then rmOf (bits fmode.toNat 6 2) else rmOf (bits fmode.toNat 4 2)

/-- Whether FMODE flushes subnormals of a format (R207). -/
def fmFtz (fmode : W32) (f : Fmt) : Bool :=
  match f with
  | .fp64 => false
  | .fp32 => fmode.getLsbD 3
  | _ => fmode.getLsbD 2

/-- DNAN (R207). -/
def fmDnan (fmode : W32) : Bool := fmode.getLsbD 1

/-- The reversal of five bits (R212). -/
def bitRev5 (v : Nat) : Nat := 16 * (v % 2) + 8 * (v / 2 % 2) + 4 * (v / 4 % 2) + 2 * (v / 8 % 2) + v / 16 % 2

/-- PH of NMODE (R209). -/
def nmPh (nmode : W32) : Nat := bits nmode.toNat 27 5

/-- The place of a destination's field in NMODE (R209, R302). -/
def nmField (f : Fmt) : Nat :=
  match f with
  | .e4m3 => 0 | .e5m2 => 3 | .e2m1 => 6 | .t8 => 9 | .bf16 => 12 | .fp16 => 15 | _ => 18

/-- The rounding of NMODE for a destination, for the element of index i (R209, R212). -/
def nmRm (nmode : W32) (f : Fmt) (i : Nat) : Rm :=
  match bits nmode.toNat (nmField f) 2 with
  | 0 => .rne
  | 1 => .rtz
  | 2 => .dither (bitRev5 ((i + nmPh nmode) % 32))
  | _ => .rna

/-- The saturation bit of NMODE for a destination (R209). -/
def nmSat (nmode : W32) (f : Fmt) : Bool := nmode.getLsbD (nmField f + 2)

/-- One narrowing conversion under NMODE (R209 to R212). -/
def narrowTo (nmode : W32) (f : Fmt) (i : Nat) (x : FV) : Nat := roundTo f (nmRm nmode f i) (nmSat nmode f) false true x

/-! ## Exact arithmetic -/

/-- The signed mantissa of a finite value at exponent c, for c ≤ e. -/
def atExp (s : Bool) (m : Nat) (e c : Int) : Int :=
  let n : Int := (m * 2 ^ (e - c).toNat : Nat)
  if s then -n else n

/-- The exact sum of finite values, with the sign of an exact zero as IEEE gives it (R208): the common sign, else + but − under rounding toward −∞. -/
def sumFin (rdn : Bool) (xs : List (Bool × Nat × Int)) : Bool × Nat × Int :=
  match xs with
  | [] => (rdn, 0, 0)
  | (s, m, e) :: r =>
    let c := r.foldl (fun c x => min c x.2.2) e
    let t := r.foldl (fun t x => t + atExp x.1 x.2.1 x.2.2 c) (atExp s m e c)
    if t = 0 then (if r.all (fun x => x.1 == s) then s else rdn, 0, 0)
    else (t < 0, t.natAbs, c)

/-- The exact product; an infinity times zero has none (R208). -/
def prodFV (x y : FV) : Option FV :=
  match x, y with
  | .fin s m e, .fin s' m' e' => some (.fin (s != s') (m * m') (e + e'))
  | .inf s, .inf s' => some (.inf (s != s'))
  | .inf s, .fin s' m' _ => if m' = 0 then none else some (.inf (s != s'))
  | .fin s m _, .inf s' => if m = 0 then none else some (.inf (s != s'))
  | .nan s f, _ => some (.nan s f)
  | _, .nan s f => some (.nan s f)

/-- The exact sum; infinities of both signs have none (R208). -/
def sumFV (rdn : Bool) (xs : List FV) : Option FV :=
  let infs := xs.filterMap (fun x => match x with
    | .inf s => some s
    | _ => none)
  match infs with
  | s :: r => if r.all (fun t => t == s) then some (.inf s) else none
  | [] =>
    let y := sumFin rdn (xs.filterMap (fun x => match x with
      | .fin s m e => some (s, m, e)
      | _ => none))
    some (.fin y.1 y.2.1 y.2.2)

/-- The integer square root: r with r² ≤ n < (r + 1)², bit by bit from bit k. -/
def isqrt : Nat → Nat → Nat → Nat
  | 0, n, r => if (r + 1) * (r + 1) ≤ n then r + 1 else r
  | k + 1, n, r => let t := r + 2 ^ (k + 1); isqrt k n (if t * t ≤ n then t else r)

/-- The order of two values, with −0 below +0 (R295); NaNs are not compared. -/
def keyLe (x y : FV) : Bool :=
  match x, y with
  | .inf s, y => s || (match y with
    | .inf t => !t
    | _ => false)
  | _, .inf t => !t
  | .fin s m e, .fin s' m' e' =>
    let c := min e e'
    let a := atExp s m e c
    let b := atExp s' m' e' c
    a < b || (a == b && (a != 0 || s || !s'))
  | _, _ => false

/-- The numeric comparison of two values (R296): +0 equals −0; none when a NaN makes them unordered. -/
def cmpFV (x y : FV) : Option Ordering :=
  match x, y with
  | .nan _ _, _ => none
  | _, .nan _ _ => none
  | .inf s, .inf t => some (if s == t then .eq else if s then .lt else .gt)
  | .inf s, _ => some (if s then .lt else .gt)
  | _, .inf t => some (if t then .gt else .lt)
  | .fin s m e, .fin s' m' e' =>
    let c := min e e'
    some (compare (atExp s m e c) (atExp s' m' e' c))

end Sys2Proof.Machine
end

