-- ==== Sys2Proof/Machine/Flags.lean ====
section
/-! DEFINITION. The device keeps no flags (R208, R261, R284): what stands here is every condition it computes, the integer and float comparisons of R234, the classes of R297 and the checks of R309. -/

namespace Sys2Proof

/-- An integer condition on an ordering (R234, R264, R287). -/
def ICond.eval (c : ICond) (o : Ordering) : Bool :=
  match c with
  | .eq => o == .eq
  | .ne => o != .eq
  | .lt => o == .lt
  | .le => o != .gt
  | .gt => o == .gt
  | .ge => o != .lt

/-- A float condition on an ordering, none where the operands are unordered (R296). -/
def FCond.eval (c : FCond) (o : Option Ordering) : Bool :=
  match c, o with
  | .eq, some o => o == .eq
  | .ne, some o => o != .eq
  | .lt, some o => o == .lt
  | .le, some o => o != .gt
  | .gt, some o => o == .gt
  | .ge, some o => o != .lt
  | .un, some _ => false
  | .ord, some _ => true
  | .ne, none => true
  | .un, none => true
  | .eq, none | .lt, none | .le, none | .gt, none | .ge, none | .ord, none => false

end Sys2Proof

namespace Sys2Proof.Machine

/-- The order of two w-bit numbers, read signed or unsigned. -/
def intOrder (sg : Bool) (w a b : Nat) : Ordering :=
  if sg then compare (toSigned w a) (toSigned w b) else compare a b

/-- The class of an encoding, as a bit number of the mask of fcls (R297). -/
def fclass (f : Fmt) (x : Nat) : Nat :=
  let l := f.layout
  let s := x / 2 ^ (l.eb + l.mb) % 2 == 1
  let e := x / 2 ^ l.mb % 2 ^ l.eb
  let m := x % 2 ^ l.mb
  if e = 2 ^ l.eb - 1 then
    if m = 0 then cond s 2 9 else if m / 2 ^ (l.mb - 1) % 2 = 1 then 1 else 0
  else if e ≠ 0 then cond s 3 8
  else if m ≠ 0 then cond s 4 7 else cond s 5 6

/-- Ord of R309: the ordinal of an FP32 encoding, with +0 and −0 both 0. -/
def fpOrd (u : Nat) : Int := if u % 2 ^ 32 < 2 ^ 31 then ((u % 2 ^ 32 : Nat) : Int) else -((u % 2 ^ 31 : Nat) : Int)

/-- Whether an FP32 encoding is a NaN (R309). -/
def isNan32 (u : Nat) : Bool := u % 2 ^ 31 > 0x7F800000

/-- Whether a lane fails chk (R309): bit for bit, or by more than four ordinals. -/
def chkFails (k : ChkKind) (a b : Nat) : Bool :=
  match k with
  | .eq | .fold => a != b
  | .near => isNan32 a || isNan32 b || (fpOrd a - fpOrd b).natAbs > 4

end Sys2Proof.Machine
end

