-- ==== Sys2Proof/Config.lean ====
section
/-! DEFINITION. What an implementation fixes and the spec leaves open: free values (R299, R81, R353, R371 and the others named below). An opaque constant has no body, so that no proof can rest on a value of it. -/

namespace Sys2Proof.Config

/-- A free 64-bit value, one for each number that names it (log 5). -/
opaque freeWord : Nat → BitVec 64
/-- A free number, one for each number that names it (log 5). -/
opaque freeNat : Nat → Nat
/-- The device's choice of result for a function of R299 inside its bound: kind of function and input encoding (log 6). -/
opaque special : Nat → Nat → Nat
/-- SHAKE256 digests (R422, R423): what kind of thing is digested, and its contents (log 30). -/
opaque digest : Nat → List Nat → BitVec 512
/-- The bytes of the certificate chain (R423; log 30). -/
opaque certificate : Nat → BitVec 8
/-- The bytes of an ML-DSA-65 signature (R423): which signature, which byte (log 30). -/
opaque signature : Nat → Nat → BitVec 8
/-- The n-th key that firmware draws from the device's random source (R81). -/
opaque freeKey : Nat → BitVec 256

end Sys2Proof.Config
end

