-- ==== Sys2Proof/Machine/Special.lean ====
section
/-! DEFINITION. Division and roots by an exact remainder (R294, R299), and the functions of R299 that are not correctly rounded: the result is a free value of the device wherever that value lies inside the bound of R299, and else the correctly rounded value, which does (log 6). The bound is checked against fixed-point enclosures of 256 bits. -/

namespace Sys2Proof.Machine

/-- The quotient (m · 2^e) / (n · 2^g), rounded once. -/
def roundQuot (f : Fmt) (rm : Rm) (ftz sign : Bool) (m : Nat) (e : Int) (n : Nat) (g : Int) : Nat :=
  let k := Nat.log2 n + 81 - Nat.log2 m
  roundBin f rm false ftz sign (m * 2 ^ k / n) (e - g - k) (m * 2 ^ k % n != 0)

/-- The square root of m · 2^e as a mantissa of more than 60 bits, its exponent, and whether it is inexact. -/
def rootParts (m : Nat) (e : Int) : Nat × Int × Bool :=
  let sh0 := 128 - Nat.log2 m
  let sh := if (e - sh0) % 2 = 0 then sh0 else sh0 + 1
  let n := m * 2 ^ sh
  let r := isqrt (Nat.log2 n / 2 + 1) n 0
  (r, (e - sh) / 2, r * r != n)

/-- 1/√(m · 2^e) as the floor of a mantissa, its exponent, and whether it is inexact. -/
def rsqParts (m : Nat) (e : Int) : Nat × Int × Bool :=
  let m' := if e % 2 = 0 then m else 2 * m
  let e' := if e % 2 = 0 then e else e - 1
  let p := 128 + Nat.log2 m'
  let n := 2 ^ (2 * p) / m'
  let r := isqrt (Nat.log2 n / 2 + 1) n 0
  (r, -(p : Int) - e' / 2, 2 ^ (2 * p) % m' != 0 || r * r != n)

/-- The square root of m · 2^e, rounded once. -/
def roundRoot (f : Fmt) (rm : Rm) (ftz : Bool) (m : Nat) (e : Int) : Nat :=
  let p := rootParts m e
  roundBin f rm false ftz false p.1 p.2.1 p.2.2

/-- The functions of R299 other than fdiv and fsqrt. -/
inductive SpKind where
  | rcp | rsq | exp2 | log2 | sin | cos | tanh
  deriving DecidableEq, Repr

def SpKind.code : SpKind → Nat
  | .rcp => 0 | .rsq => 1 | .exp2 => 2 | .log2 => 3 | .sin => 4 | .cos => 5 | .tanh => 6

/-- What the table of R300, and the exact cases of R299, give an input: the canonical NaN, an exact value, or a value by the bound. -/
inductive SpCase where
  | nan
  | val (x : FV)
  | bounded
  deriving DecidableEq, Repr

/-- The exponent k where m · 2^e = 2^k. -/
def powerOfTwo (m : Nat) (e : Int) : Option Int := if m = 2 ^ Nat.log2 m then some (leadExp m e) else none

/-- Whether m · 2^e is an integer. -/
def isIntegral (m : Nat) (e : Int) : Bool := (splitAt m e 0).2.1 == 0

/-- Whether m · 2^e is at least n. -/
def atLeast (m : Nat) (e : Int) (n : Nat) : Bool := n ≤ (if 0 ≤ e then (if 64 < e then n else m * 2 ^ e.toNat) else m / 2 ^ (-e).toNat)

/-- The special inputs of R300 and the exact cases of R299. -/
def SpKind.table (k : SpKind) (x : FV) : SpCase :=
  match k, x with
  | .rcp, .inf s => .val (.fin s 0 0)
  | .rsq, .inf s => if s then .nan else .val (.fin false 0 0)
  | .exp2, .inf s => if s then .val (.fin false 0 0) else .val (.inf false)
  | .log2, .inf s => if s then .nan else .val (.inf false)
  | .sin, .inf _ => .nan
  | .cos, .inf _ => .nan
  | .tanh, .inf s => .val (.fin s 1 0)
  | k, .fin s m e =>
    if m = 0 then
      match k with
      | .rcp | .rsq => .val (.inf s)
      | .exp2 | .cos => .val (.fin false 1 0)
      | .log2 => .val (.inf true)
      | .sin | .tanh => .val (.fin s 0 0)
    else
      match k with
      | .rsq => if s then .nan else .bounded
      | .log2 =>
        if s then .nan
        else match powerOfTwo m e with
          | some n => .val (.fin (n < 0) n.natAbs 0)
          | none => .bounded
      | .exp2 =>
        if isIntegral m e && !atLeast m e (if s then 150 else 128) then
          .val (.fin false 1 (if s then -((splitAt m e 0).1 : Int) else (splitAt m e 0).1))
        else .bounded
      | .tanh => if atLeast m e 9 then .val (.fin s 1 0) else .bounded
      | .rcp | .sin | .cos => .bounded
  | _, .nan _ _ => .nan

/-! ## Enclosures -/

/-- The unit of the fixed point. -/
def fpOne : Nat := 2 ^ 256
/-- ln 2, 2/π (to 512 bits) and π/2 in fixed point. -/
def fpLn2 : Nat := 0xb17217f7d1cf79abc9e3b39803f2f6af40f343267298b62d8a0d175b8baafa2b
def fpTwoOverPi : Nat := 0xa2f9836e4e441529fc2757d1f534ddc0db6295993c439041fe5163abdebbc561b7246e3a424dd2e006492eea09d1921cfe1deb1cb129a73ee88235f52ebb4484
def fpHalfPi : Nat := 0x1921fb54442d18469898cc51701b839a252049c1114cf98e804177d4c76273644

/-- The tail of the exponential series from term t of index k. -/
def expSeries : Nat → Nat → Nat → Nat → Nat
  | 0, _, _, _ => 0
  | fuel + 1, k, t, y => t + expSeries fuel (k + 1) (t * y / fpOne / (k + 1)) y

/-- e^y − 1 for a fixed-point y. -/
def fpExpm1 (y : Nat) : Nat := expSeries 160 1 y y

/-- The alternating series of sine and cosine, stepping two indices a term. -/
def trigSeries : Nat → Nat → Int → Int → Int
  | 0, _, _, _ => 0
  | fuel + 1, k, t, y => t + trigSeries fuel (k + 2) (-(t * y / fpOne * y / fpOne / (((k + 1) * (k + 2) : Nat) : Int))) y

/-- Bits of log2 of a fixed-point number in [1, 2), by repeated squaring. -/
def logBits : Nat → Nat → Nat → Nat
  | 0, _, acc => acc
  | fuel + 1, x, acc =>
    let q := x * x / fpOne
    if 2 * fpOne ≤ q then logBits fuel (q / 2) (2 * acc + 1) else logBits fuel q (2 * acc)

/-- m · 2^e as a fixed-point number, rounded down. -/
def toFixed (m : Nat) (e : Int) : Nat := (splitAt m e (-256)).1

/-- Quadrant and remainder, in units of π/2, of m · 2^e (R299: the reduction is exact to the precision that the bound needs). -/
def reduceArg (m : Nat) (e : Int) : Nat × Nat :=
  let t := (splitAt (m * fpTwoOverPi) (e - 512) (-256)).1
  (t / fpOne, t % fpOne * fpHalfPi / fpOne)

/-- The sine of an angle in quadrant q with remainder r. -/
def sineOf (q r : Nat) : Int :=
  let s := trigSeries 60 1 (r : Int) (r : Int)
  let c := trigSeries 60 0 (fpOne : Int) (r : Int)
  match q % 4 with
  | 0 => s
  | 1 => c
  | 2 => -s
  | _ => -c

/-- An enclosed result: a signed mantissa and its exponent. -/
structure Mid where
  m : Int
  e : Int
  deriving DecidableEq, Repr

/-- The exact result of a bounded function to more bits than its bound needs; where it lies closer than the fixed point shows below 1 (cos) or below its argument (tanh), a value on the same side of it. -/
def SpKind.mid (k : SpKind) (s : Bool) (m : Nat) (e : Int) : Mid :=
  match k with
  | .exp2 =>
    if atLeast m e 200 then (if s then ⟨0, -256⟩ else ⟨1, 200⟩)
    else
      let t := toFixed m e
      let whole : Int := if s then -((t + fpOne - 1) / fpOne : Nat) else (t / fpOne : Nat)
      let frac : Nat := if s then (fpOne - t % fpOne) % fpOne else t % fpOne
      ⟨(fpOne + fpExpm1 (frac * fpLn2 / fpOne) : Nat), whole - 256⟩
  | .log2 =>
    let le := leadExp m e
    let x := toFixed m (e - le)
    ⟨le * 2 ^ 120 + (logBits 120 x 0 : Nat), -120⟩
  | .sin => let p := reduceArg m e; ⟨(if s then -1 else 1) * sineOf p.1 p.2, -256⟩
  | .cos =>
    if leadExp m e < -60 then ⟨2 ^ 256 - 2 ^ 100, -256⟩
    else let p := reduceArg m e; ⟨sineOf (p.1 + 1) p.2, -256⟩
  | .tanh =>
    if leadExp m e < -40 then ⟨(if s then -1 else 1) * ((m * 2 ^ 100 - 1 : Nat) : Int), e - 100⟩
    else
    let y := fpExpm1 (2 * toFixed m e)
    ⟨(if s then -1 else 1) * (y * fpOne / (y + 2 * fpOne) : Nat), -256⟩
  | .rcp => ⟨0, 0⟩
  | .rsq => ⟨0, 0⟩

/-- The exponent of an ulp of FP32 at an exact result (R299). -/
def ulpExp (x : Mid) : Int := (if x.m = 0 then -126 else max (leadExp x.m.natAbs x.e) (-126)) - 23

/-- Whether an encoding lies within 2^(tolE) · tolM of a result; an infinity counts as the first value past the range. -/
def nearMid (y : FV) (x : Mid) (tolM : Nat) (tolE : Int) : Bool :=
  let d (s : Bool) (m : Nat) (e : Int) : Bool :=
    let c := min (min e x.e) tolE
    (atExp s m e c - x.m * 2 ^ (x.e - c).toNat).natAbs ≤ tolM * 2 ^ (tolE - c).toNat
  match y with
  | .nan _ _ => false
  | .inf s => d s 1 128
  | .fin s m e => d s m e

/-- Whether an FP32 encoding satisfies the bound of R299, narrowed by what the enclosure may be off: 2^−180 of it, and 2^−60 for flog2, more than any FP32 value lies from the edge of its bound. -/
def SpKind.inBound (k : SpKind) (s : Bool) (m : Nat) (e : Int) (y : FV) : Bool :=
  let x := k.mid s m e
  match k with
  | .sin | .cos => nearMid y x (2 ^ 180 - 1) (-202)
  | .exp2 => if !s && atLeast m e 128 then y == .inf false else nearMid y x (2 ^ 181 - 1) (ulpExp x - 180)
  | .log2 =>
    nearMid y x (2 ^ 61 - 1) (ulpExp x - 60)
      && (!(atLeast m (e + 1) 1 && !atLeast m e 2) || nearMid y x (2 ^ 60 - 1) (-82))
  | _ => nearMid y x (2 ^ 181 - 1) (ulpExp x - 180)

/-- Flushing of a subnormal FP32 encoding (R207). -/
def flush32 (ftz : Bool) (y : Nat) : Nat := if ftz && y / 2 ^ 23 % 256 = 0 then y / 2 ^ 31 * 2 ^ 31 else y

/-- The correctly rounded value of an enclosed result. -/
def roundMid (x : Mid) : Nat := roundBin .fp32 .rne false false (x.m < 0) x.m.natAbs x.e false

/-- Whether an exact result lies below the normal numbers of FP32: then the result underflows and is the rounded one of R208 (R300). -/
def Mid.tiny (x : Mid) : Bool := x.m == 0 || leadExp x.m.natAbs x.e < -126

/-- The result of a bounded function on a finite non-zero input (R299): frcp and frsq are one of the two values that bracket the exact result; the others any FP32 value inside the bound. Which one is the device's choice, the same for the same input (R279). A result that overflows or underflows follows R208, to the nearest even since the functions ignore RM (R300). -/
def specialBits (k : SpKind) (f : Fmt) (ftz : Bool) (x : FV) : Nat :=
  let inp := roundTo f .rne false false false x
  match k, x with
  | .rcp, .fin s m e =>
    let down := roundQuot f .rtz ftz s 1 0 m e
    let up := roundQuot f (if s then .rdn else .rup) ftz s 1 0 m e
    if leadExp m e < -(f.layout.bias : Int) - 1 || powerOfTwo m e == some (-(f.layout.bias : Int) - 1) then infBits f s
    else if (f.layout.bias : Int) - 1 ≤ leadExp m e then roundQuot f .rne ftz s 1 0 m e
    else if Config.special (2 * f.code) inp % 2 = 0 then down else up
  | .rsq, .fin _ m e =>
    let p := rsqParts m e
    if Config.special (2 * f.code + 1) inp % 2 = 0 then roundBin f .rtz false ftz false p.1 p.2.1 p.2.2
    else roundBin f .rup false ftz false p.1 p.2.1 p.2.2
  | k, .fin s m e =>
    let y := Config.special (100 + k.code) inp % 2 ^ 32
    if (k.mid s m e).tiny then flush32 ftz (roundMid (k.mid s m e))
    else if k.inBound s m e (toExact .fp32 false y) then flush32 ftz y
    else if k == .exp2 && !s && atLeast m e 128 then infBits .fp32 false
    else flush32 ftz (roundMid (k.mid s m e))
  | _, _ => canonNan f false

end Sys2Proof.Machine
end

