-- ==== Sys2Proof/Machine/Alu.lean ====
section
/-! DEFINITION. What one lane computes: integer elements (R262 to R265, R284 to R292), floating point (R293 to R300), conversions (R301 to R307) and folds (R308). Values are numbers below the element's power of two. -/

namespace Sys2Proof

/-- The width of an element of group 3 (R232). -/
def ITy.width : ITy → Nat
  | .w32 => 32 | .w64 => 64 | .w16 => 16 | .w8 => 8

/-- The elements in one lane of group 3 (R275). -/
def ITy.count : ITy → Nat
  | .w32 => 1 | .w64 => 1 | .w16 => 2 | .w8 => 4

/-- The format of group 4 (R232). -/
def FTy.fmt : FTy → Fmt
  | .f32 => .fp32 | .f64 => .fp64 | .f16 => .fp16 | .bf16 => .bf16

/-- The elements in one lane of group 4 (R275). -/
def FTy.count : FTy → Nat
  | .f32 => 1 | .f64 => 1 | .f16 => 2 | .bf16 => 2

/-- The bytes of an access (R232). -/
def MSz.bytes : MSz → Nat
  | .b1 => 1 | .b2 => 2 | .b4 => 4 | .b8 => 8

end Sys2Proof

namespace Sys2Proof.Machine

/-! ## Elements -/

/-- Element k of width w. -/
def elem (w k x : Nat) : Nat := x / 2 ^ (w * k) % 2 ^ w

/-- The packed value of elements 0 to n − 1 given by f. -/
def packEls (w : Nat) : Nat → (Nat → Nat) → Nat
  | 0, _ => 0
  | n + 1, f => packEls w n f + f n % 2 ^ w * 2 ^ (w * n)

/-- A function of one element on each element. -/
def map1 (w n : Nat) (f : Nat → Nat) (a : Nat) : Nat := packEls w n (fun k => f (elem w k a))
/-- A function of two elements on each element. -/
def map2 (w n : Nat) (f : Nat → Nat → Nat) (a b : Nat) : Nat := packEls w n (fun k => f (elem w k a) (elem w k b))
/-- A function of three elements on each element. -/
def map3 (w n : Nat) (f : Nat → Nat → Nat → Nat) (a b c : Nat) : Nat :=
  packEls w n (fun k => f (elem w k a) (elem w k b) (elem w k c))
/-- A function of four elements on each element. -/
def map4 (w n : Nat) (f : Nat → Nat → Nat → Nat → Nat) (a b c d : Nat) : Nat :=
  packEls w n (fun k => f (elem w k a) (elem w k b) (elem w k c) (elem w k d))
/-- Whether a relation holds in every element (R287, R296). -/
def allEls (w n : Nat) (f : Nat → Nat → Bool) (a b : Nat) : Bool :=
  (List.range n).all (fun k => f (elem w k a) (elem w k b))

/-! ## Integer elements (R262 to R265, R284 to R286) -/

def iAdd (w a b : Nat) : Nat := (a + b) % 2 ^ w
def iSub (w a b : Nat) : Nat := (a + (2 ^ w - b % 2 ^ w)) % 2 ^ w
def iMul (w a b : Nat) : Nat := a * b % 2 ^ w
def iMad (w a b c : Nat) : Nat := (a * b + c) % 2 ^ w

/-- The signed or unsigned reading of a w-bit number. -/
def readInt (sg : Bool) (w a : Nat) : Int := if sg then toSigned w a else ((a % 2 ^ w : Nat) : Int)

/-- The high half of the exact product. -/
def iMulh (sg : Bool) (w a b : Nat) : Nat := wrap w (readInt sg w a * readInt sg w b / 2 ^ w)

/-- The quotient of R263 and R285: truncation toward zero, and the stated results for a zero divisor. -/
def iDiv (sg : Bool) (w a b : Nat) : Nat :=
  let x := readInt sg w a
  let y := readInt sg w b
  if y = 0 then (if sg && 0 ≤ x then 0 else 2 ^ w - 1) else wrap w (x.tdiv y)

/-- The remainder of R263 and R285. -/
def iRem (sg : Bool) (w a b : Nat) : Nat :=
  let x := readInt sg w a
  let y := readInt sg w b
  if y = 0 then (if sg && 0 ≤ x then 0 else 2 ^ w - 1) else wrap w (x.tmod y)

def iMin (sg : Bool) (w a b : Nat) : Nat := if intOrder sg w a b == .gt then b else a
def iMax (sg : Bool) (w a b : Nat) : Nat := if intOrder sg w a b == .lt then b else a
def iAbs (sg : Bool) (w a : Nat) : Nat := if sg then wrap w (toSigned w a).natAbs else a % 2 ^ w
def iNot (w a : Nat) : Nat := 2 ^ w - 1 - a % 2 ^ w
def iShl (w a n : Nat) : Nat := a * 2 ^ (n % w) % 2 ^ w
def iShr (w a n : Nat) : Nat := a % 2 ^ w / 2 ^ (n % w)
def iSar (w a n : Nat) : Nat := wrap w (toSigned w a / 2 ^ (n % w))
/-- Leading zero bits, 0 to w. -/
def iClz (w a : Nat) : Nat := if a % 2 ^ w = 0 then w else w - 1 - Nat.log2 (a % 2 ^ w)
/-- Set bits among the low w. -/
def iPopc (w a : Nat) : Nat := (List.range w).foldl (fun n k => n + a / 2 ^ k % 2) 0

/-- Extension of the low n bits of x to w bits. -/
def extendBits (sg : Bool) (n w x : Nat) : Nat := if sg then wrap w (toSigned n x) else x % 2 ^ n

/-- Field extraction (R265, R286), with pos and len already reduced. -/
def iBfx (sg : Bool) (w a pos len : Nat) : Nat :=
  let x := if sg then wrap w (toSigned w a / 2 ^ pos) else a % 2 ^ w / 2 ^ pos
  if len = 0 then 0 else if w ≤ len then x else extendBits sg len w (x % 2 ^ len)

/-- Field insertion (R265, R286). -/
def iBfi (w d a pos len : Nat) : Nat :=
  let m := (if w ≤ len then 2 ^ w - 1 else 2 ^ len - 1) * 2 ^ pos % 2 ^ w
  (d &&& (2 ^ w - 1 - m)) ||| (a * 2 ^ pos % 2 ^ w &&& m)

/-- Extension of R265. -/
def iExt (sg : Bool) (w a len : Nat) : Nat :=
  if len = 0 then 0 else if w ≤ len then a else extendBits sg len w (a % 2 ^ len)

/-- Clamping of an exact integer (R284). -/
def iSat (sg : Bool) (w : Nat) (x : Int) : Nat :=
  if sg then wrap w (max (-(2 ^ (w - 1))) (min (2 ^ (w - 1) - 1) x)) else wrap w (max 0 (min (2 ^ w - 1) x))

def iAddSat (sg : Bool) (w a b : Nat) : Nat := iSat sg w (readInt sg w a + readInt sg w b)
def iSubSat (sg : Bool) (w a b : Nat) : Nat := iSat sg w (readInt sg w a - readInt sg w b)
def iMulSat (sg : Bool) (w a b : Nat) : Nat := iSat sg w (readInt sg w a * readInt sg w b)

/-- The combination of lred and lscan on one element (R291). -/
def redOp (op : RedOp) (sg : Bool) (w a b : Nat) : Nat :=
  match op with
  | .add => iAdd w a b
  | .min => iMin sg w a b
  | .max => iMax sg w a b
  | .and => a &&& b
  | .or => a ||| b
  | .xor => a ^^^ b

/-- The identity of a combination (R291). -/
def redId (op : RedOp) (sg : Bool) (w : Nat) : Nat :=
  match op with
  | .add | .or | .xor => 0
  | .and => 2 ^ w - 1
  | .min => if sg then 2 ^ (w - 1) - 1 else 2 ^ w - 1
  | .max => if sg then 2 ^ (w - 1) else 0

/-- The source lane of shfl for lane l (R289). -/
def shflSrc (m : ShflMode) (l b : Nat) : Nat :=
  match m with
  | .idx => b % 32
  | .up => if b ≤ l then l - b else l
  | .down => if l + b ≤ 31 then l + b else l
  | .xor => Nat.xor l (b % 32)

/-! ## Folds (R308) -/

/-- One step of the reflected CRC-32C (R308). -/
def crcBit (c : Nat) : Nat := if c % 2 = 1 then Nat.xor (c / 2) 0x82F63B78 else c / 2

def crcBits : Nat → Nat → Nat
  | 0, c => c
  | n + 1, c => crcBits n (crcBit c)

/-- The fold of csum (R308). -/
def fold (k : FoldKind) (d a : Nat) : Nat :=
  match k with
  | .add => iAdd 32 d a
  | .rot => Nat.xor ((d * 32 + d / 2 ^ 27) % 2 ^ 32) a
  | .crc => crcBits 32 (Nat.xor d a)

/-! ## Floating point (R293 to R300) -/

/-- The NaN of an operation: the first NaN operand made quiet, or the canonical NaN where there is none or DNAN is set (R208). -/
def nanOf (f : Fmt) (dnan : Bool) (xs : List FV) : Nat :=
  match xs.filterMap (fun x => match x with
    | .nan s fr => some (s, fr)
    | _ => none) with
  | [] => canonNan f false
  | (s, fr) :: _ => if dnan then canonNan f false else quietNan f s fr

/-- Whether an operand is a NaN. -/
def FV.isNan : FV → Bool
  | .nan _ _ => true
  | _ => false

/-- Rounding of an arithmetic result under FMODE (R207, R208). -/
def fRound (fmode : W32) (f : Fmt) (x : FV) : Nat := roundTo f (fmRm fmode f) false (fmFtz fmode f) false x

/-- An operand of group 4 (R293). -/
def fIn (fmode : W32) (f : Fmt) (x : Nat) : FV := toExact f (fmFtz fmode f) x

/-- Whether the rounding of a format is toward −∞, which decides the sign of an exact zero sum. -/
def fRdn (fmode : W32) (f : Fmt) : Bool := fmRm fmode f == .rdn

/-- A result that exists, rounded, or the canonical NaN of an invalid operation (R208). -/
def fResult (fmode : W32) (f : Fmt) (x : Option FV) : Nat :=
  match x with
  | none => canonNan f false
  | some x => fRound fmode f x

/-- The opposite value. -/
def FV.neg : FV → FV
  | .nan s f => .nan s f
  | .inf s => .inf (!s)
  | .fin s m e => .fin (!s) m e

def fAdd (fmode : W32) (f : Fmt) (a b : Nat) : Nat :=
  let x := fIn fmode f a
  let y := fIn fmode f b
  if x.isNan || y.isNan then nanOf f (fmDnan fmode) [x, y] else fResult fmode f (sumFV (fRdn fmode f) [x, y])

def fSub (fmode : W32) (f : Fmt) (a b : Nat) : Nat :=
  let x := fIn fmode f a
  let y := fIn fmode f b
  if x.isNan || y.isNan then nanOf f (fmDnan fmode) [x, y] else fResult fmode f (sumFV (fRdn fmode f) [x, y.neg])

def fMul (fmode : W32) (f : Fmt) (a b : Nat) : Nat :=
  let x := fIn fmode f a
  let y := fIn fmode f b
  if x.isNan || y.isNan then nanOf f (fmDnan fmode) [x, y] else fResult fmode f (prodFV x y)

/-- fma: one rounding of the exact product-sum (R208, R294). -/
def fFma (fmode : W32) (f : Fmt) (a b c : Nat) : Nat :=
  let x := fIn fmode f a
  let y := fIn fmode f b
  let z := fIn fmode f c
  if x.isNan || y.isNan || z.isNan then nanOf f (fmDnan fmode) [x, y, z]
  else match prodFV x y with
    | none => canonNan f false
    | some p => fResult fmode f (sumFV (fRdn fmode f) [p, z])

/-- fmin and fmax (R295). -/
def fMinMax (isMax : Bool) (fmode : W32) (f : Fmt) (a b : Nat) : Nat :=
  let x := fIn fmode f a
  let y := fIn fmode f b
  if x.isNan && y.isNan then nanOf f (fmDnan fmode) [x, y]
  else if x.isNan then fRound fmode f y
  else if y.isNan then fRound fmode f x
  else fRound fmode f (if keyLe x y != isMax then x else y)

/-- fdiv: correctly rounded (R294, R299). -/
def fDiv (fmode : W32) (f : Fmt) (a b : Nat) : Nat :=
  let x := fIn fmode f a
  let y := fIn fmode f b
  if x.isNan || y.isNan then nanOf f (fmDnan fmode) [x, y]
  else match x, y with
    | .inf _, .inf _ => canonNan f false
    | .inf s, .fin t _ _ => fRound fmode f (.inf (s != t))
    | .fin s _ _, .inf t => fRound fmode f (.fin (s != t) 0 0)
    | .fin s m e, .fin t n g =>
      if n = 0 then (if m = 0 then canonNan f false else fRound fmode f (.inf (s != t)))
      else if m = 0 then fRound fmode f (.fin (s != t) 0 0)
      else roundQuot f (fmRm fmode f) (fmFtz fmode f) (s != t) m e n g
    | _, _ => canonNan f false

/-- fsqrt: correctly rounded; −0 gives −0, a negative non-zero value the canonical NaN (R294). -/
def fSqrt (fmode : W32) (f : Fmt) (a : Nat) : Nat :=
  match fIn fmode f a with
  | .nan s fr => nanOf f (fmDnan fmode) [.nan s fr]
  | .inf s => if s then canonNan f false else fRound fmode f (.inf false)
  | .fin s m e =>
    if m = 0 then fRound fmode f (.fin s 0 0)
    else if s then canonNan f false
    else roundRoot f (fmRm fmode f) (fmFtz fmode f) m e

/-- The rounding mode of fround (R298). -/
def frMode (fmode : W32) (f : Fmt) (m : RndMode) : Rm :=
  match m with
  | .rne => .rne
  | .rtz => .rtz
  | .rup => .rup
  | .rdn => .rdn
  | .rna => .rna
  | .dyn => fmRm fmode f

/-- fround: to an integral value in the same format, a zero keeping the sign (R298). -/
def fFround (fmode : W32) (f : Fmt) (m : RndMode) (a : Nat) : Nat :=
  match fIn fmode f a with
  | .nan s fr => nanOf f (fmDnan fmode) [.nan s fr]
  | .inf s => fRound fmode f (.inf s)
  | .fin s k e =>
    let p := splitAt k e 0
    let n := if pickUp (frMode fmode f m) s (p.1 % 2 == 0) false p.2.1 p.2.2 then p.1 + 1 else p.1
    if 0 ≤ e then fRound fmode f (.fin s k e) else fRound fmode f (.fin s n 0)

/-- A bounded function in its format: FP32 under R299, FP64 for frcp and frsq, and FP16 and BF16 by one rounding of the FP32 value under RM32. -/
def fSpecial (k : SpKind) (fmode : W32) (f : Fmt) (a : Nat) : Nat :=
  match fIn fmode f a with
  | .nan s fr => nanOf f (fmDnan fmode) [.nan s fr]
  | x =>
    match k.table x with
    | .nan => canonNan f false
    | .val y => fRound fmode f y
    | .bounded =>
      if f == .fp64 then specialBits k .fp64 false x
      else if f == .fp32 then specialBits k .fp32 (fmFtz fmode .fp32) x
      else fRound fmode f (toExact .fp32 false (specialBits k .fp32 false x))

/-- fcmp on one element (R296). -/
def fCompare (fmode : W32) (f : Fmt) (c : FCond) (a b : Nat) : Bool := c.eval (cmpFV (fIn fmode f a) (fIn fmode f b))

/-- fdot2: c + a0·b0 + a1·b1, exact and rounded once to FP32 (R294). -/
def fDot2 (fmode : W32) (f : Fmt) (a b c : Nat) : Nat :=
  let a0 := fIn fmode f (elem 16 0 a)
  let a1 := fIn fmode f (elem 16 1 a)
  let b0 := fIn fmode f (elem 16 0 b)
  let b1 := fIn fmode f (elem 16 1 b)
  let z := fIn fmode .fp32 c
  if a0.isNan || b0.isNan || a1.isNan || b1.isNan || z.isNan then nanOf .fp32 (fmDnan fmode) [a0, b0, a1, b1, z]
  else match prodFV a0 b0, prodFV a1 b1 with
    | some p, some q => fResult fmode .fp32 (sumFV (fRdn fmode .fp32) [p, q, z])
    | _, _ => canonNan .fp32 false

/-! ## Conversions (R301 to R307) -/

/-- One conversion of cvt (R302), also the element conversion of pack (R303): a narrow source lies in the low bits. -/
def convert (fmode nmode : W32) (ds sr : Fmt) (i a : Nat) : Nat :=
  let x := toExact sr false (a % 2 ^ sr.width)
  match ds with
  | .fp64 => roundTo .fp64 (fmRm fmode .fp64) false false false x
  | .fp32 =>
    let rounds := [Fmt.int32, .uint32, .int64, .uint64, .fp64].contains sr
    roundTo .fp32 (fmRm fmode .fp32) false (rounds && fmFtz fmode .fp32) false x
  | .fp16 | .bf16 | .e4m3 | .e5m2 | .e2m1 | .t8 | .int8 => narrowTo nmode ds i x
  | .uint8 => roundTo .uint8 (nmRm nmode .int8 i) (nmSat nmode .int8) false true x
  | ds =>
    if sr.isInt then (match x with
      | .fin s m _ => wrap ds.width (if s then -(m : Int) else m)
      | _ => 0)
    else roundTo ds .rtz true false true x

/-- pack (R303): two sources make a whole register. -/
def packPair (fmode nmode : W32) (ds sr : Fmt) (i a b : Nat) : Nat :=
  if ds == .fp16 || ds == .bf16 then
    convert fmode nmode ds sr i a + 2 ^ 16 * convert fmode nmode ds sr i b
  else
    convert fmode nmode ds sr i (elem 16 0 a) + 2 ^ 8 * convert fmode nmode ds sr i (elem 16 1 a)
      + 2 ^ 16 * convert fmode nmode ds sr i (elem 16 0 b) + 2 ^ 24 * convert fmode nmode ds sr i (elem 16 1 b)

/-- unpk (R305). -/
def unpack (nmode : W32) (ds sr : Fmt) (i a k : Nat) : Nat :=
  let w := sr.width
  let e := elem w (k % (32 / w)) a
  let x := toExact sr false e
  if ds == .int32 then (match x with
    | .fin s m _ => wrap 32 (if s then -(m : Int) else m)
    | _ => 0)
  else if (sr == .fp16 || sr == .bf16) && ds != .fp32 then narrowTo nmode ds i x
  else roundTo ds .rne false false false x

/-- Scaling of an exact value by 2^k. -/
def FV.scale (k : Int) : FV → FV
  | .fin s m e => .fin s m (e + k)
  | x => x

/-- qnt (R306). Where e = 0xFF a NaN of A keeps its sign as R211's row for a NaN source keeps it; for another A the NaN is the scale's, which has no sign (DEDUCED, log 118). -/
def quantise (nmode : W32) (ds : Fmt) (i a sc : Nat) : Nat :=
  let e := sc % 256
  if e = 255 then narrowTo nmode ds i (.nan (match toExact .fp32 false a with | .nan s _ => s | _ => false) quietBit)
  else narrowTo nmode ds i ((toExact .fp32 false a).scale (127 - (e : Int)))

/-- dqnt (R307). -/
def dequantise (fmode : W32) (sr : Fmt) (a sc : Nat) : Nat :=
  let e := sc % 256
  match toExact sr false (a % 2 ^ sr.width) with
  | .nan s _ => canonNan .fp32 s
  | x =>
    if e = 255 then canonNan .fp32 (match x with
      | .inf s => s
      | .fin s _ _ => s
      | .nan s _ => s)
    else roundTo .fp32 (fmRm fmode .fp32) false (fmFtz fmode .fp32) false (x.scale ((e : Int) - 127))

end Sys2Proof.Machine
end

