-- ==== Sys2Proof/Machine/Map.lean ====
section
/-! DEFINITION. Sparse data in one canonical form: pairs of a key and a value, keys strictly rising, no entry equal to what an unlisted key reads as. Memory is such a list of (address, byte) pairs (Host.Cell). -/

namespace Sys2Proof.Machine

/-- A sparse map from numbers, as plain data. -/
abbrev SMap (α : Type) := List (Nat × α)

/-- The value at key k; d is what an unlisted key reads as. -/
def mget {α : Type} (d : α) : SMap α → Nat → α
  | [], _ => d
  | (k', v) :: m, k => if k' = k then v else mget d m k

/-- Insertion at its place in the rising order. -/
def mput {α : Type} : SMap α → Nat → α → SMap α
  | [], k, v => [(k, v)]
  | (k', v') :: m, k, v =>
    if k < k' then (k, v) :: (k', v') :: m else if k' = k then (k, v) :: m else (k', v') :: mput m k v

/-- Removal of a key. -/
def mdel {α : Type} : SMap α → Nat → SMap α
  | [], _ => []
  | (k', v') :: m, k => if k' = k then mdel m k else (k', v') :: mdel m k

/-- Writing a value: writing d removes the entry, so that equal maps are equal data. -/
def mset {α : Type} [DecidableEq α] (d : α) (m : SMap α) (k : Nat) (v : α) : SMap α :=
  if v = d then mdel m k else mput m k v

/-- Every key is at least k, keys rise strictly, and no entry equals d. -/
def mwfFrom {α : Type} [DecidableEq α] (d : α) : Nat → SMap α → Bool
  | _, [] => true
  | lo, (k, v) :: m => decide (lo ≤ k) && decide (v ≠ d) && mwfFrom d (k + 1) m

/-- The canonical form. -/
def mwf {α : Type} [DecidableEq α] (d : α) (m : SMap α) : Bool := mwfFrom d 0 m

/-- A set of numbers as a strictly rising list. -/
def nsAdd : List Nat → Nat → List Nat
  | [], k => [k]
  | k' :: m, k => if k < k' then k :: k' :: m else if k' = k then k' :: m else k' :: nsAdd m k

/-- The lanes of a wave (R6). -/
def allLanes : List Nat := List.range 32

/-- The lanes of a mask, rising. -/
def maskLanes (m : W32) : List Nat := allLanes.filter (fun l => m.getLsbD l)

/-- The mask of the lanes of which p holds. -/
def laneMask (p : Nat → Bool) : W32 :=
  BitVec.ofNat 32 (allLanes.foldl (fun a l => if p l then a + 2 ^ l else a) 0)

end Sys2Proof.Machine
end

