-- ==== Sys2Proof/Machine/State.lean ====
section
/-! DEFINITION. Everything the spec gives the machine, as plain data. INVENTORY.md lists each field with its rule and its reset value. -/

namespace Sys2Proof.Machine

/-! ## A wave -/

/-- The states of a wave slot (R150); HALTED is the HALT bit beside the state, since a halted wave keeps its place in every wait (R172). -/
inductive WState where
  | empty | ready | stalled | waiting | parked | sleeping
  deriving DecidableEq, Repr, Inhabited

/-- What a WAITING wave waits for (R150, R170). -/
inductive WaitKind where
  | none | bar (l : BarLvl) | aalloc | svc
  deriving DecidableEq, Repr, Inhabited

/-- Normal running, and the save and restore modes of R430. -/
inductive Mode where
  | normal | save | restore
  deriving DecidableEq, Repr, Inhabited

/-- The kind of a mask-stack entry (R152). -/
inductive MKind where
  | unused | ifK | ifElse | loopK
  deriving DecidableEq, Repr, Inhabited

/-- A mask-stack entry (R152): aux is C for an if and K for a loop. -/
structure MEntry where
  kind : MKind := .unused
  saved : W32 := 0
  aux : W32 := 0
  deriving DecidableEq, Repr, Inhabited

/-- The register files of a wave (R52): v, o, y and p are keyed 32·n + lane. p0 reads true and is never stored (R54). -/
structure Regs where
  v : SMap W32 := []
  o : SMap W32 := []
  y : SMap W64 := []
  s : SMap W64 := []
  p : SMap Bool := []
  exec : W32 := 0
  deriving DecidableEq, Repr, Inhabited

/-- One mark (poison of R87, or taint of R281) for each register lane, scalar register and predicate lane. -/
structure Marks where
  v : SMap Bool := []
  o : SMap Bool := []
  y : SMap Bool := []
  s : SMap Bool := []
  p : SMap Bool := []
  deriving DecidableEq, Repr, Inhabited

/-- An operand latch (R61): the tag and 32 lanes of 64 bits. -/
structure Latch where
  tag : Nat
  data : List W64
  deriving DecidableEq, Repr, Inhabited

/-- A page as the core TLB and the last-page registers hold it (R23, R25); base is its virtual start and frame its physical start. -/
structure Page where
  vf : Nat
  base : Nat
  size : Nat
  frame : Nat
  w : Bool
  u : Bool
  x : Bool
  attr : Nat
  deriving DecidableEq, Repr, Inhabited

/-- Where an access goes: memory by physical address, the scratchpad of a core by offset (R16, R67). -/
inductive Space where
  | mem
  | spad (core : Nat)
  deriving DecidableEq, Repr, Inhabited

/-- A store-stage entry (R97): the 64-byte line of memory or the 32-byte granule of scratchpad that starts at base, the bytes of its mask (Option so that an unlisted byte is outside the mask), who stored them, whether it is published at .u (R104), and the virtual address of the line (R435). -/
structure SBEntry where
  sp : Space
  base : Nat
  data : SMap (Option Byte)
  ident : Nat
  pub : Bool
  va : Nat := 0
  deriving DecidableEq, Repr, Inhabited

/-- A register that an outstanding load will write: its operand code (R219) and lane, or a scalar register. -/
structure LoadLane where
  lane : Nat
  value : W64
  poison : Bool
  taint : Bool
  deriving DecidableEq, Repr, Inhabited

/-- One lane of a load whose value has not been taken: where it reads, the granule whose claim decides when, the bytes that the wave's own earlier stores give it (R98), and its virtual address. -/
structure LoadReq where
  lane : Nat
  sp : Space
  addr : Nat
  own : SMap (Option Byte)
  taint : Bool
  va : Nat
  deriving DecidableEq, Repr, Inhabited

/-- An outstanding load (R103, R314): destination code, size, extension, the lanes whose bytes are still to be read at a claim's evaluation or a fabric answer, the lanes whose value has been taken, and the PC of the load (R121, R392); home tells a load of save or restore mode, which bypasses the store stages (R431), acc one of accumulator memory (R71). -/
structure PendLoad where
  id : Nat
  dst : Nat
  size : Nat
  signed : Bool
  scalar : Bool
  reqs : List LoadReq
  got : List LoadLane
  rg : Nat := 0
  acq : Bool := false
  pc : W64 := 0
  home : Bool := false
  acc : Bool := false
  deriving DecidableEq, Repr, Inhabited

/-- The checkpoint of R165, with the poison marks of the s registers and the predicates (mp, ms; DESIGN CHOICE, log 124). -/
structure Ckpt where
  exec : W32 := 0
  depth : Nat := 0
  stack : SMap MEntry := []
  p : SMap Bool := []
  s : SMap W64 := []
  nmode : W32 := 0
  tp : SMap Bool := []
  ts : SMap Bool := []
  mp : SMap Bool := []
  ms : SMap Bool := []
  deriving DecidableEq, Repr, Inhabited

/-- The restart region (R164 to R168, R99, R95): restart point, live-ins, the completed leading instruction's destination, checkpoint; first is set until an instruction follows the marker, lead while the leading instruction is in progress, led once it has completed, replay until the opening marker has been executed again after a race. -/
structure Region where
  rpc : W64 := 0
  vlive : Nat := 0
  olive : Nat := 0
  ldest : Option Nat := none
  lwide : Nat := 1
  ckpt : Ckpt := {}
  first : Bool := false
  lead : Bool := false
  led : Bool := false
  spilled : Bool := false
  serial : Bool := false
  replay : Bool := false
  opened : Nat := 0
  deriving DecidableEq, Repr, Inhabited

/-- The steps of a release that has begun and is not complete (R104, R115): the entries drain, then the acknowledgements come in, then the slot status changes are applied. -/
inductive RelPhase where
  | none | drain | ack | status | done
  deriving DecidableEq, Repr, Inhabited

/-- What a walk was asked for (R19, R38 to R40). -/
inductive AccKind where
  | read | write | fetch
  deriving DecidableEq, Repr, Inhabited

/-- A translation miss that the wave waits on (R38, R39): what the access needs, the lanes that missed (0 for a scalar access or a fetch), the address of every lane. -/
structure WalkReq where
  kind : AccKind
  lanes : W32
  addrs : List (Nat × W64)
  deriving DecidableEq, Repr, Inhabited

/-- A pre-emption record's extra fields (R170). -/
structure PreRec where
  lv : Bool := false
  ldest : Nat := 0
  olive : Nat := 0
  vlive : Nat := 0
  wait : WaitKind := .none
  halt : Bool := false
  rpc : W64 := 0
  deriving DecidableEq, Repr, Inhabited

/-- A fault on its way: cause, lanes, detail word and address (R390, R392). -/
structure Trap where
  cause : Nat
  lanes : W32 := 0
  detail : W64 := 0
  addr : W64 := 0
  deriving DecidableEq, Repr, Inhabited

/-- The shadow copy that save and restore mode keep (R430, R433). -/
structure Shadow where
  ck : Ckpt := {}
  fmode : W32 := 0
  tvec : W64 := 0
  tepc : W64 := 0
  tcause : W64 := 0
  tstat : W64 := 0
  level : Nat := 0
  clock : Nat := 0
  seq : W64 := 0
  pre : PreRec := {}
  deriving DecidableEq, Repr, Inhabited

/-- How the wave executes its current region (R376): the original, the original under comparison, the original under a spot check, or a variant at byte offset off of its code. -/
inductive GChoice where
  | original
  | compare (id : Nat)
  | spot (id : Nat)
  | variant (id off : Nat)
  deriving DecidableEq, Repr, Inhabited

/-- One lane's live values in the target's order (R368, R371): vector words, the s register, predicates as bits. -/
structure GLive where
  v : List W32 := []
  s : W64 := 0
  p : Nat := 0
  deriving DecidableEq, Repr, Inhabited

/-- What the wave keeps for Graze: the choice of R376 with the state at the opening marker, and the lane that is sampled (R371) with its target's identity, the Graze source buffer and fresh mask of R380 (fresh live-out words as register codes in order), the live-outs of the variant under way and the lanes of them that it has written, and whether a spot check was rolled back and is made again (R379). A load whose number is below since was issued before the opening marker, one below bufAt before that of the buffer's execution, whose live-in registers are bufIn: such a load still gives its value to the live-ins (R100). -/
structure GWave where
  choice : GChoice := .original
  entry : Option (Nat × Regs) := none
  mask : W32 := 0
  sample : Option ((Nat × W32 × W32) × Nat) := none
  bufId : Nat := 0
  buf : SMap GLive := []
  fresh : List (Nat × Nat) := []
  outs : List Nat := []
  wrote : List (Nat × Nat) := []
  again : Bool := false
  since : Nat := 0
  bufAt : Nat := 0
  bufIn : List Nat × Option Nat := ([], none)
  deriving DecidableEq, Repr, Inhabited

/-- A wave slot, or the hardware context of a control core (R174). eng holds the descriptors that an engine instruction in steps 1 to 5 of R336 has read, engi the schedule entries that a stadv has issued, or the length of an aalloc that waits, accN the banks that this aalloc asks for (R354), sched the schedule entries that a stadv has chosen with its new counter (R350), yieldBy the waves that have issued since the wave's yield (R258), code the lines that the fetch of its next instruction has read from a fabric window whose pages are not cached (R78). -/
structure Wave where
  st : WState := .empty
  halt : Bool := false
  bkarm : Bool := false
  ctl : Bool := false
  unit : Nat := 0
  launch : Nat := 0
  widx : Nat := 0
  placed : Nat := 0
  mode : Mode := .normal
  level : Nat := 0
  pc : W64 := 0
  depth : Nat := 0
  stack : SMap MEntry := []
  regs : Regs := {}
  poison : Marks := {}
  taint : Marks := {}
  fmode : W32 := 0
  fpend : Option W32 := none
  nmode : W32 := 0
  tvec : W64 := 0
  tepc : W64 := 0
  tcause : W64 := 0
  tstat : W64 := 0
  latA : Option Latch := none
  latB : Option Latch := none
  latC : Option Latch := none
  lpr : SMap (Option Page) := []
  stage1 : List SBEntry := []
  ldc : Nat := 0
  stc : Nat := 0
  cpc : Nat := 0
  ttc : Nat := 0
  loads : List PendLoad := []
  busy : List (List Nat) := []
  rgn : Region := {}
  rel : RelPhase := .none
  step : Nat := 0
  walk : Option WalkReq := none
  wait : WaitKind := .none
  svcreq : Option Nat := none
  svarea : W64 := 0
  ctxsel : W64 := 0
  shadow : Shadow := {}
  int0 : Nat := 0
  seq : W64 := 0
  base : Nat := 0
  prio : Nat := 0
  fails : Nat := 0
  parkEnd : Nat := 0
  yielded : Option Nat := none
  yieldBy : List Nat := []
  lastIssue : Nat := 0
  clock : Nat := 0
  vf : Nat := 0
  budget : Nat := 12
  dies : List Nat := []
  stopped : Bool := false
  inTret : Bool := false
  parcel : W32 := 0
  code : SMap (Option (List Byte)) := []
  eng : List (List Byte) := []
  engi : Nat := 0
  accN : Nat := 0
  sched : Option (List Nat × Nat) := none
  gz : GWave := {}
  deriving DecidableEq, Repr, Inhabited

/-! ## Ordering (03, 04) -/

/-- A slot status entry (R91), one copy on each die. -/
structure SlotStatus where
  cur : Nat := 0
  pubu : Nat := 0
  pubd : Nat := 0
  pubk : Nat := 0
  pubf : Nat := 0
  flo : Nat := 0
  fhi : Nat := 0
  fwd : Nat := 0
  fv : Bool := false
  v : Bool := false
  deriving DecidableEq, Repr, Inhabited

/-- A race record (R79): pub caches the widest scope at which the home last found the record published; the slot status entry prevails over it (R92; log 13). -/
structure Rec where
  slot : Nat
  interval : Nat
  pub : Nat := 0
  deriving DecidableEq, Repr, Inhabited

/-- The writer and the reader record of a granule (R79). -/
structure RecPair where
  wr : Option Rec := none
  rd : Option Rec := none
  deriving DecidableEq, Repr, Inhabited

/-- The kinds of claims (R93, R94). -/
inductive ClaimKind where
  | read | write | atomic
  deriving DecidableEq, Repr, Inhabited

/-- A claim on its way to the granule's home (R93): op names the instruction or command that made it (0 a pass that was rolled back, 1 an instruction in serial mode that waits for record space), addr its lowest address, since the cycle it was sent. -/
structure Claim where
  ident : Nat
  gran : Nat
  kind : ClaimKind
  interval : Nat
  lanes : W32
  op : Nat
  addr : W64
  since : Nat
  deriving DecidableEq, Repr, Inhabited

/-- A race as its detail word gives it (R96): the record met and the KIND. -/
structure Race where
  oslot : Nat
  oint : Nat
  opub : Nat
  kind : Nat
  deriving DecidableEq, Repr, Inhabited

/-- A verdict on its way back (R95). -/
structure Verdict where
  claim : Claim
  race : Option Race
  deriving DecidableEq, Repr, Inhabited

/-- A line of a unit store buffer, or of a control store buffer, that a release drains (R115). -/
structure Drain where
  ident : Nat
  unit : Nat
  base : Nat
  deriving DecidableEq, Repr, Inhabited

/-- A slot status change on its way to the home of a die (R91). -/
structure StatusChange where
  ident : Nat
  die : Nat
  entry : SlotStatus
  deriving DecidableEq, Repr, Inhabited

/-- Records of an identity to be purged (R109): those from interval lo up, with the granules whose writer records stay; of a killed unit whose non-restartable flag is set also the launch whose completion waits for all its purges, and the number that these share; and the function. -/
structure Purge where
  ident : Nat
  lo : Nat
  keep : List Nat
  launch : Option (Nat × Nat) := none
  vf : Nat := 0
  deriving DecidableEq, Repr, Inhabited

/-! ## Engines (13) -/

/-- A range-lock table entry (R129): first and last 32-byte unit. -/
structure Lock where
  first : Nat
  last : Nat
  owner : Nat
  unit : Nat
  space : Nat
  wl : Bool
  deriving DecidableEq, Repr, Inhabited

/-- The state of a handle (R339). -/
inductive HState where
  | free | filling | full | draining
  deriving DecidableEq, Repr, Inhabited

/-- A handle (R339); fill counts its armings, so that a gated task can be bound to one of them (R360). -/
structure Handle where
  base : Nat := 0
  blen : Nat := 0
  pend : Nat := 0
  ncmd : Nat := 0
  ngate : Nat := 0
  bovr : Bool := false
  ovr : Bool := false
  err : Bool := false
  st : HState := .free
  fill : Nat := 0
  deriving DecidableEq, Repr, Inhabited

/-- The commands of the engines (R336, R353, R357, R363). -/
inductive CmdKind where
  | copy | coll | tile | aep
  deriving DecidableEq, Repr, Inhabited

/-- A physically contiguous part of a memory range as the command took it for its locks (R129): virtual start, length, physical start; phys none where the translation ended in a cause (FRAMEX, 7, with the pool-state word of R44 above bit 8), or is still to come (cause 0). -/
structure Part where
  va : Nat
  len : Nat
  phys : Option Nat
  cause : Nat
  write : Bool
  rng : Nat := 0
  deriving DecidableEq, Repr, Inhabited

/-- A command from step 4 of R336 on: who issued it, the descriptor or format block as read, the operands, the snapshotted registers (R359), the fill that gates it (R360), its ranges in scratchpad and accumulator memory (space, first and last 32-byte unit, write), the parts of its memory ranges; phase 0 while it enters its locks, 1 issued, 2 started, 3 while its fabric writes are under way; what the fabric has answered, and the scales of a tile task. order is its place in the order of issue, waited set once it has waited for a conflict (R130); since is the cycle of its start; of a collective, first and join are the cycles at which the first and the last member joined and odd says that their descriptors differ (R353, log 117). -/
structure Cmd where
  kind : CmdKind
  ident : Nat
  widx : Nat
  unit : Nat
  vf : Nat
  level : Nat
  interval : Nat
  pc : W64
  seq : W64
  handle : Nat
  desc : List Byte
  args : List Nat
  regs : SMap W32 := []
  taint : Bool := false
  nmode : W32 := 0
  gate : Option (Nat × Nat) := none
  fixed : List (Nat × Nat × Nat × Bool) := []
  parts : List Part := []
  phase : Nat := 0
  wait : Option Nat := none
  lines : SMap (Option (List Byte)) := []
  scales : List Byte := []
  err : Nat := 0
  order : Nat
  since : Nat := 0
  first : Nat := 0
  join : Nat := 0
  odd : Bool := false
  waited : Bool := false
  deriving DecidableEq, Repr, Inhabited

/-- An event record (R176). -/
structure EvRec where
  kind : Nat
  status : Nat
  source : Nat
  seq : Nat
  data : W64
  deriving DecidableEq, Repr, Inhabited

/-! ## Units and launches (06, 07) -/

/-- Barrier state of a unit (R163, R434). -/
structure BarSt where
  count : Nat := 0
  mask : Nat := 0
  gen : Bool := false
  level : Nat := 0
  sent : Bool := false
  deriving DecidableEq, Repr, Inhabited

/-- Where a unit came from (R364): the stage entry and unit index, or the spawn target, argument and depth. -/
structure Task where
  launch : Nat
  stage : Nat
  uidx : Nat
  child : Option (W64 × W64)
  depth : Nat
  budget : Nat
  prio : Nat
  relaunches : Nat
  taken : Nat
  avoid : Option Nat
  deriving DecidableEq, Repr, Inhabited

/-- A resident unit (R156, R157): its task record, footprint, slots by wave index, store buffer (R102), lines left at home unpublished (R109), each with the index of the wave that stored it, the waves that have exited with their counts at that moment (R392), barrier (barRel: released while saved), handles, stage counter (R349), accumulator allocation (R71) as physical banks, and the progress of a pre-emption, migration or restore: preReq a request that has not been taken, preDef whether only a deferral held it back when it was last tried (R168, R429), area the save area taken, with its address (R428), kept holds what of each wave the routines must not lose (taint and fresh bits as they stood at the pre-emption, R383), donor marks a unit that the Drover has asked to save because it cannot move (R196). -/
structure UnitR where
  vf : Nat := 0
  task : Task
  w : Nat := 1
  sgran : Nat := 0
  sbase : Nat := 0
  m : Nat := 0
  slots : List Nat := []
  gone : List Nat := []
  clocks : SMap Nat := []
  nrst : Bool := false
  sb : List SBEntry := []
  athome : List (Nat × Nat) := []
  bar : BarSt := {}
  barRel : Bool := false
  handles : SMap Handle := []
  stagec : Nat := 0
  stadv : Bool := false
  accstat : W64 := 0
  acc : Option (List Nat) := none
  accReq : Option (Nat × Nat) := none
  preReq : Bool := false
  preDef : Bool := false
  area : Option Nat := none
  areaVa : W64 := 0
  gate : List Nat := []
  sbImg : SMap W64 := []
  sbCnt : Nat := 0
  moving : Bool := false
  donor : Bool := false
  kept : List Wave := []
  deriving DecidableEq, Repr, Inhabited

/-- A writer record that stays after a kill until its launch completes or is cancelled (R109): the identity it names and the last interval of the killed wave. -/
structure Hold where
  launch : Nat
  ident : Nat
  upto : Nat
  gran : Nat
  deriving DecidableEq, Repr, Inhabited

/-- A unit saved out (R436): its record, its waves by slot, those that had exited among them, and their parked identities, the core it left and the place that it had there (R392), and the unit in which it is being restored. -/
structure SavedUnit where
  unit : UnitR
  waves : List Wave
  parked : List Nat
  accTaint : List Nat
  core : Nat
  last : Nat := 0
  back : Option Nat := none
  deriving DecidableEq, Repr, Inhabited

/-- A stage entry of a launch record (R185). -/
structure Stage where
  entry : W64 := 0
  budget : Nat := 12
  spad : Nat := 0
  accmax : Nat := 0
  w : Nat := 1
  heat : Nat := 0
  units : Nat := 1
  mincores : Nat := 0
  deriving DecidableEq, Repr, Inhabited

/-- An entry of a bounded queue: its words with their taint, and the identity that has taken its space and not committed it yet (R327), 16,384 once that wave has been killed. -/
structure QEnt where
  owner : Option Nat := none
  words : List (W32 × Bool) := []
  deriving DecidableEq, Repr, Inhabited

/-- A bounded queue with its ring (R185, R187, R326 to R331), oldest entry first, the place of that entry in the ring and the poisoned 64-byte lines of the stacked SRAM that holds the ring (R87; log 129), and the Drover's samples (R195). -/
structure BQueue where
  log2cap : Nat := 1
  size4 : Nat := 1
  producer : Nat := 0
  consumer : Nat := 0
  home : Nat := 0
  ring : List QEnt := []
  head : Nat := 0
  badl : List Nat := []
  samples : List Nat := []
  deriving DecidableEq, Repr, Inhabited

/-- A schedule entry (R186). -/
structure SchedE where
  step : Nat := 0
  handle : Nat := 0
  desc : W64 := 0
  deriving DecidableEq, Repr, Inhabited

/-- A completion counter (R178). -/
structure Counter where
  done : Bool := false
  cancelled : Bool := false
  count : Nat := 0
  deriving DecidableEq, Repr, Inhabited

/-- A launch that has been taken (R185), with its counter, the next unit index of each stage (R159), the cores of each stage of a pipeline (R194), the state of its control program (R175) and the Drover's move in progress (R196). -/
structure Launch where
  vf : Nat := 0
  kind : Nat := 0
  graze : Nat := 0
  restart : Bool := false
  whole : Bool := false
  persist : Bool := false
  scope : Nat := 2
  ctlcore : Nat := 0
  arg : W64 := 0
  launchid : W32 := 0
  graph : Nat := 0
  phase : Nat := 0
  job : Nat := 0
  drover : Nat := 100
  ctlpc : W64 := 0
  prio : Nat := 0
  taken : Nat := 0
  stages : List Stage := []
  queues : List BQueue := []
  sched : List SchedE := []
  cnt : Counter := {}
  next : List Nat := []
  cores : List (Nat × Nat) := []
  placed : Bool := false
  ctl : Nat := 0
  move : Option (Nat × Nat × Nat) := none
  lastDrover : Nat := 0
  dieArr : List Nat := []
  deriving DecidableEq, Repr, Inhabited

/-! ## Cores and dies -/

/-- A bellwether (R402): the wave, the PC, SEQ, whether its instruction was a variant's, the LEVELs that the instruction admits, LAUNCHID and whether a hold took effect; what its write-back waits for: the number of its load or of its store's claims, and the registers of a result that comes later. -/
structure Bell where
  ident : Nat
  pc : W64
  seq : Nat
  var : Bool
  levels : List Nat
  lid : Nat
  hold : Bool
  ops : List Nat := []
  dst : List Nat := []
  deriving DecidableEq, Repr, Inhabited

/-- A quarter (R199, R200, R377, R402): power-allowance counter, which is full where nothing has been spent (log 32), its fraction of a unit in 14,400 parts, the cycle up to which it has been refilled, near-threshold mode and the cycle until which no other change of it starts, the cycles at which the quarter became busy or idle in the last 1 µs, newest first, the bellwether. -/
structure Quarter where
  power : Int := 4096
  part : Nat := 0
  refill : Nat := 0
  nt : Bool := false
  ntUntil : Nat := 0
  hist : List (Nat × Bool) := []
  bell : Option Bell := none
  deriving DecidableEq, Repr, Inhabited

/-- A physical core. Banks map to the resident unit that owns them; commands 0 to 127 are the copy slots and 128 to 159 the tile-task table (R129). -/
structure Core where
  vf : Option Nat := none
  spad : SMap Byte := []
  spPoison : SMap Bool := []
  acc : SMap W32 := []
  accPoison : SMap Bool := []
  accTaint : SMap Bool := []
  banks : SMap (Option Nat) := []
  accQ : List (Nat × Nat × Nat) := []
  tlb : List Page := []
  wcache : List (Nat × Nat × Nat × Nat) := []
  scache : SMap (Option (List Byte)) := []
  locks : SMap (Option Lock) := []
  cmds : SMap (Option Cmd) := []
  gens : SMap Nat := []
  evq : List EvRec := []
  evWait : List EvRec := []
  trcfg : SMap W64 := []
  trcnt : SMap W64 := []
  lent : Bool := false
  temp : Nat := 0
  throttled : Bool := false
  migReq : Bool := false
  migTo : Option Nat := none
  hotWait : Bool := false
  idleSince : Nat := 0
  lendTo : Option Nat := none
  quarters : SMap Quarter := []
  deriving DecidableEq, Repr, Inhabited

/-- A vault (R83): the multiplier held (0 ×1, 1 ×2, 2 ×4) and the cycles of the last samples above 83 °C and above 93 °C. -/
structure Vault where
  mult : Nat := 0
  hot2 : Nat := 0
  hot4 : Nat := 0
  deriving DecidableEq, Repr, Inhabited

/-! ## Virtual functions (01, 15) -/

/-- A reservation (R28, R29). -/
structure Resv where
  base : Nat
  len : Nat
  kind : Nat
  psize : Nat
  perm : Nat
  attr : Nat
  window : Nat
  woffset : Nat
  deriving DecidableEq, Repr, Inhabited

/-- A page-request table entry (R42): the request, the joined waves (identities) and commands (core and command), the frame taken for a HOSTDATA request, the cycle it was posted, whether the function has been reset since, the link that the request left by, and its message while it waits after a bank switch (R412). -/
structure PageReq where
  live : Bool := false
  gen : Nat := 0
  hostdata : Bool := false
  vpage : Nat := 0
  psize : Nat := 0
  frame : Nat := 0
  joined : List Nat := []
  cmds : List (Nat × Nat) := []
  posted : Nat := 0
  reset : Bool := false
  link : Nat := 0
  msg : Option (List Byte) := none
  deriving DecidableEq, Repr, Inhabited

/-- A frame held in quarantine for a page-request entry (R47): tag, frame, size, time of the kill, and whether the function has been reset since. -/
structure Quar where
  tag : Nat
  frame : Nat
  psize : Nat
  since : Nat
  reset : Bool := false
  deriving DecidableEq, Repr, Inhabited

/-- A request of svc that firmware has not answered (R28, R33): the number by which its wave names it, the code, s0 and the physical address of the block; begun once firmware has recorded the reservation of a POPULATE, with its VBASE as it was read (R29); sent while STATUS and DETAIL are on their way to a block behind the fabric (R259). -/
structure SvcReq where
  ident : Nat
  code : Nat
  va : Nat
  pa : Nat
  begun : Bool := false
  vbase : Nat := 0
  sent : Bool := false
  deriving DecidableEq, Repr, Inhabited

/-- An invalidation sweep in progress (R34 to R36, R18): the virtual range with the frames mapped there when it began (start, SIZE code), the cores that have not carried it out, those that have not acknowledged, whether the frames return to the pool, the request it completes, the fabric window whose change it makes effective. -/
structure Sweep where
  base : Nat
  len : Nat
  todo : List Nat
  unacked : List Nat
  frames : List (Nat × Nat)
  free : Bool
  req : Option SvcReq
  window : Option Nat
  deriving DecidableEq, Repr, Inhabited

/-- A Graze target, or a region whose entries are being counted (R367, R369, R371). -/
structure GTarget where
  pc : Nat
  fmode : W32
  nmode : W32
  times : List Nat := []
  bud : Nat := 240
  ev : Option Nat := none
  samples : List (GLive × GLive) := []
  deriving DecidableEq, Repr, Inhabited

/-- The identity of a target's region within its function (R367). -/
def GTarget.key (t : GTarget) : Nat × W32 × W32 := (t.pc, t.fmode, t.nmode)

/-- A candidate in the Paddock (R372): the sequence number of its variant id, the identity of its target (R367), its die, its code. -/
structure GCand where
  seq : Nat
  target : Nat × W32 × W32
  die : Nat
  code : List W32
  deriving DecidableEq, Repr, Inhabited

/-- The states of a variant (R378); a withdrawn entry is CULLED and its record posted. -/
inductive GState where
  | guarded | promoted | culled
  deriving DecidableEq, Repr, Inhabited

/-- A Fold entry (R375), with the cores that have still to invalidate it (R384) and the cull's cause and mismatch. -/
structure Fold where
  seq : Nat
  pc : Nat
  fmode : W32
  nmode : W32
  code : List W32
  bud : Nat := 240
  size : Nat := 8
  ev : Nat
  st : GState := .guarded
  agree : Nat := 0
  units : List (Nat × Nat × Nat) := []
  first : Nat := 0
  execs : Nat := 0
  perCore : SMap Nat := []
  cause : Nat := 0
  mis : Option (Nat × GLive × GLive × GLive × Nat) := none
  posted : Bool := false
  deriving DecidableEq, Repr, Inhabited

/-- A comparison that holds a hurdle slot (R377): the core and quarter, the wave, the entry, the launch, the lanes' live-ins and the original's live-outs, the cycle of the closing marker, and the launch's level when it began (R387). -/
structure Hurdle where
  core : Nat
  quarter : Nat
  ident : Nat
  fold : Nat
  launch : Nat
  stage : Nat
  uidx : Nat
  entry : Regs
  mask : W32
  result : Regs
  closed : Option Nat
  spot : Bool
  level : Nat := 0
  since : Nat := 0
  deriving DecidableEq, Repr, Inhabited

/-- Graze state of a function (14); the first variant has the sequence number 1 (DEDUCED, log 97). -/
structure GrazeF where
  targets : List GTarget := []
  bars : List (Nat × W32 × W32) := []
  paddock : List GCand := []
  folds : List Fold := []
  next : Nat := 1
  held : List (List Byte) := []
  lost : Bool := false
  deriving DecidableEq, Repr, Inhabited

/-- A virtual function (R399). Its hypervisor-written registers are bytes of the hypervisor window. -/
structure VFn where
  root : Nat := 0
  resvs : List Resv := []
  pool : List (Nat × Nat) := []
  resident : List (Nat × Nat × Nat) := []
  preqs : SMap PageReq := []
  asleep : List Nat := []
  quar : List Quar := []
  svcq : List SvcReq := []
  sweeps : List Sweep := []
  dtvec : W64 := 0
  ctxsv : W64 := 0
  ctxrs : W64 := 0
  ctxpool : W64 := 0
  areas : List Nat := []
  ctab : SMap Counter := []
  graze : GrazeF := {}
  banks : SMap Nat := []
  bankAt : Nat := 0
  tokens : Nat := 65536
  tokAt : Nat := 0
  tokPart : Nat := 0
  resetting : Bool := false
  keyGen : Nat := 0
  key : BitVec 256 := 0
  deriving DecidableEq, Repr, Inhabited

/-! ## Fabric, host and firmware (16) -/

/-- A message that the package has sent (R42, R407, R409, R413, R423): channel, key, destination, contents; for a request in transit also the request. -/
structure Msg where
  chan : Nat
  key : Nat
  dst : Endpoint
  bytes : List Byte
  fwd : Option FabReq := none
  deriving DecidableEq, Repr, Inhabited

/-- What an outstanding fabric request is for (R121): a load of a wave, a drained store, a store of save or restore mode (R431), an atomic of the lanes that name one address, by the first of them, a prefetch, an instruction fetch, STATUS and DETAIL of an svc (R259), a command, or a line of a ring that lies in a fabric window (R391). -/
inductive FabUse where
  | load (id : Nat)
  | drain
  | home
  | atomic (id lane : Nat)
  | prefetch
  | fetch
  | svc (ident : Nat)
  | cmd (core slot : Nat)
  | ring
  deriving DecidableEq, Repr, Inhabited

/-- An outstanding fabric request (R409, R414): line is the local physical address, va the virtual one, remote the address at the endpoint, fail the reason for which it cannot be sent, or for which it has been refused while others of its instruction are still out (R121, R415); held while it waits after a bank switch (R412); op the access of an atomic (R320). -/
structure FabOut where
  id : Nat
  link : Nat
  chan : Nat
  dst : Endpoint
  ident : Nat
  use : FabUse
  line : Nat
  va : Nat
  remote : Nat
  cached : Bool
  write : List (Nat × Byte)
  posted : Nat
  fail : Nat := 0
  held : Bool := false
  op : Option FabOp := none
  deriving DecidableEq, Repr, Inhabited

/-- A requester's SPDM state (R423): GET_VERSION and GET_CAPABILITIES answered, and the algorithms selected (asymmetric, hash). -/
structure Spdm where
  who : Endpoint
  version : Bool := false
  caps : Bool := false
  algs : Option (Bool × Bool) := none
  deriving DecidableEq, Repr, Inhabited

/-- An entry of a die's corrected-error table (R397). -/
structure ErrEntry where
  vault : Nat
  bank : Nat
  row : Nat
  col : Nat
  last : Nat
  count : Nat
  deriving DecidableEq, Repr, Inhabited

/-- A die (R76, R397): the corrected-error table, the spare rows and columns used in each bank (by 2·bank address, +1 for columns), the banks removed from the pools, repairs requested (vault, bank, class, row, column), the fabric-window lines in its last-level cache (R116) and which of them are poisoned (R87). -/
structure Die where
  errs : List ErrEntry := []
  spares : SMap Nat := []
  removed : List (Nat × Nat) := []
  repairs : List (Nat × Nat × Nat × Nat × Nat) := []
  fcache : SMap (Option (List Byte)) := []
  fbad : List Nat := []
  deriving DecidableEq, Repr, Inhabited

/-- What happens next where the spec fixes no order: an event of the opcode table, or an issue of the wave or control core with the given identity (log 4). -/
inductive Turn where
  | event (i : Instr)
  | issue (ident : Nat)
  deriving DecidableEq, Repr, Inhabited

/-- The whole machine. ends keeps, for the identities of ended units, the function, the mark that the end-of-unit release set and its scope (R119). -/
structure State where
  -- the model's own
  agenda : List Turn := []
  cur : Nat := 0
  fresh : Nat := 2
  cycle : Nat := 0
  power : Bool := true
  -- agents
  waves : SMap Wave := []
  units : SMap (Option UnitR) := []
  launches : SMap (Option Launch) := []
  pend : List Task := []
  saved : List SavedUnit := []
  cores : SMap Core := []
  lmap : SMap Nat := []
  vaults : SMap Vault := []
  dies : SMap Die := []
  vfs : SMap VFn := []
  -- memory and ordering
  mem : List Host.Cell := []
  poison : List Nat := []
  present : SMap (List Nat) := []
  recs : SMap RecPair := []
  ids : SMap SlotStatus := []
  homes : SMap Nat := []
  claims : List Claim := []
  verdicts : List Verdict := []
  drains : List Drain := []
  acks : List Drain := []
  changes : List StatusChange := []
  purges : List Purge := []
  rewrites : List Nat := []
  ends : SMap (Option (Nat × Nat × Nat)) := []
  -- package
  hw : SMap Byte := []
  winOld : SMap (Option (Nat × Bool)) := []
  image : SMap Byte := []
  tier2Cxl : Bool := false
  reserve : List (Nat × Nat) := []
  mlog : List (Nat × BitVec 512) := []
  spdm : List Spdm := []
  outbox : List Msg := []
  reqs : List FabOut := []
  retries : SMap Nat := []
  switching : Bool := false
  hurdles : List Hurdle := []
  hold : List Hold := []
  devKey : BitVec 256 := 0
  deriving DecidableEq, Repr, Inhabited

/-- Why the machine stops. -/
inductive Fault where
  /-- Raised by LAUNCH_RECORD_TAKE and by the RAS ring when a ring base that the hypervisor wrote names a physical address outside every range of R15, which the spec says does not exist; safe: the machine stops where no effect is given (log 14). -/
  | physicalHole
  deriving DecidableEq, Repr

/-- Why an instruction has no meaning. -/
inductive Refusal where
  /-- Raised by an arm of exec whose instruction has no meaning yet; safe. -/
  | notModelled (mnemonic : String)
  deriving DecidableEq, Repr

/-- The hypervisor window right after the start (R417 to R419): WEIGHT 1 for each function, PWRLIM 3,600, FLOOR 60, the rest zero. -/
def resetHw : SMap Byte :=
  (List.range 64).map (fun v => (0x1003 + 8 * v, (1 : Byte))) ++
  [(0x1500, 0x10), (0x1501, 0x0E), (0x1510, 60)]

/-- The frames of the package reserve after the start (R44 to R48; log 12): of each die all but the spill table of R79 in its first 1 GiB, of die 3 also not the hypervisor window (R416), and all of tier-2; as (start, length). -/
def resetReserve : List (Nat × Nat) :=
  [(0x40000000, 0xBC0000000), (0xC40000000, 0xBC0000000), (0x1840000000, 0xBC0000000),
   (0x2440000000, 0xBBF000000), (0x100000000000, 0x10000000000)]

/-- The measurement log after a start with a configuration image, the tier-2 kind included (R421, R422): four blocks whose digests are free values (log 30). -/
def startLog (image : SMap Byte) (cxl : Bool) : List (Nat × BitVec 512) :=
  [(1, Config.digest 1 []), (2, Config.digest 2 []), (3, Config.digest 3 []), (4, Config.digest 4 (cond cxl 1 0 :: image.flatMap (fun e => [e.1, e.2.toNat])))]

/-- The machine right after reset: the module has just started (R421), no function, launch or wave exists, memory is zero. -/
def State.reset : State :=
  { hw := resetHw, image := resetHw, reserve := resetReserve, mlog := startLog resetHw false, devKey := Config.freeKey 0 }

end Sys2Proof.Machine
end

