-- ==== Sys2Proof/Machine/Operands.lean ====
section
/-! DEFINITION. Every operand form of the register files: what a source yields in a lane (R52 to R54, R223, R276), with its poison and its taint (R280, R281), what a destination takes (R58, R277), and the latches (R61 to R63). -/

namespace Sys2Proof.Machine

/-- The element type by which an immediate or the literal takes its value (R223). -/
inductive EKind where
  | i32 | i64 | i16 | i8 | f32 | f64 | f16 | bf16
  deriving DecidableEq, Repr, Inhabited

/-- The element type of group 3 operands. -/
def intKind : ITy → EKind
  | .w32 => .i32 | .w64 => .i64 | .w16 => .i16 | .w8 => .i8

/-- The element type of group 4 operands. -/
def floatKind : FTy → EKind
  | .f32 => .f32 | .f64 => .f64 | .f16 => .f16 | .bf16 => .bf16

/-- The element type of a conversion's source (R301); a format that R223 does not list takes the 32-bit integer row (log 8). -/
def fmtKind : Fmt → EKind
  | .int8 | .uint8 => .i8
  | .int16 | .uint16 => .i16
  | .int64 | .uint64 => .i64
  | .fp16 => .f16
  | .bf16 => .bf16
  | .fp32 => .f32
  | .fp64 => .f64
  | _ => .i32

/-- A small integer in a float format, exact (R223). -/
def intFloat (f : Fmt) (i : Int) : Nat := roundTo f .rne false false false (.fin (i < 0) i.natAbs 0)

/-- The value of an immediate (R223). -/
def immValue (k : EKind) (i : Int) : Nat :=
  match k with
  | .i32 => wrap 32 i
  | .i64 => wrap 64 i
  | .i16 => wrap 16 i * (1 + 2 ^ 16)
  | .i8 => wrap 8 i * (1 + 2 ^ 8 + 2 ^ 16 + 2 ^ 24)
  | .f32 => intFloat .fp32 i
  | .f64 => intFloat .fp64 i
  | .f16 => intFloat .fp16 i * (1 + 2 ^ 16)
  | .bf16 => intFloat .bf16 i * (1 + 2 ^ 16)

/-- An FP32 encoding widened to FP64 exactly, a NaN with its payload as it stands (R223). -/
def widenLit (l : Nat) : Nat :=
  if isNan32 l then l / 2 ^ 31 * 2 ^ 63 + 0x7FF * 2 ^ 52 + l % 2 ^ 23 * 2 ^ 29
  else roundTo .fp64 .rne false false false (toExact .fp32 false l)

/-- The value of the literal (R223). -/
def litValue (k : EKind) (l : W32) : Nat :=
  match k with
  | .i64 => wrap 64 (toSigned 32 l.toNat)
  | .f64 => widenLit l.toNat
  | _ => l.toNat

/-- What a source yields in a lane: its value, the poison detail if it is poisoned (R396), its taint. -/
structure LV where
  val : Nat
  poison : Option Nat := none
  taint : Bool := false
  deriving DecidableEq, Repr, Inhabited

/-- A value with the marks of two others. -/
def LV.mix (v : Nat) (a b : LV) : LV := ⟨v, a.poison <|> b.poison, a.taint || b.taint⟩
/-- A function of one consumed value. -/
def LV.map (f : Nat → Nat) (a : LV) : LV := ⟨f a.val, a.poison, a.taint⟩
/-- A function of two consumed values. -/
def LV.map2 (f : Nat → Nat → Nat) (a b : LV) : LV := LV.mix (f a.val b.val) a b
/-- A function of three consumed values. -/
def LV.map3 (f : Nat → Nat → Nat → Nat) (a b c : LV) : LV := LV.mix (f a.val b.val c.val) (LV.mix 0 a b) c

/-- The register number of lane l of register n in a file. -/
def key (n l : Nat) : Nat := 32 * n + l

/-- One mark as the detail of UEPOISON: field in [3:0], structure in [7:4] (R396). -/
def markOf (b : Bool) (field struct : Nat) : Option Nat := if b then some (field + 16 * struct) else none

/-- Lane l of a v register, or of a pair (R52, R53). -/
def vLV (w : Wave) (field : Nat) (wide : Bool) (n l : Nat) : LV :=
  let lo := mget 0 w.regs.v (key n l)
  let plo := mget false w.poison.v (key n l)
  let tlo := mget false w.taint.v (key n l)
  if wide then
    ⟨lo.toNat + 2 ^ 32 * (mget 0 w.regs.v (key (n + 1) l)).toNat,
      markOf (plo || mget false w.poison.v (key (n + 1) l)) field 0, tlo || mget false w.taint.v (key (n + 1) l)⟩
  else ⟨lo.toNat, markOf plo field 0, tlo⟩

/-- Lane l of an o register, or of a pair (R52, R53). -/
def oLV (w : Wave) (field : Nat) (wide : Bool) (n l : Nat) : LV :=
  let lo := mget 0 w.regs.o (key n l)
  let plo := mget false w.poison.o (key n l)
  let tlo := mget false w.taint.o (key n l)
  if wide then
    ⟨lo.toNat + 2 ^ 32 * (mget 0 w.regs.o (key (n + 1) l)).toNat,
      markOf (plo || mget false w.poison.o (key (n + 1) l)) field 1, tlo || mget false w.taint.o (key (n + 1) l)⟩
  else ⟨lo.toNat, markOf plo field 1, tlo⟩

/-- What a source operand yields in lane l (R276): all 64 bits where wide, else the low 32. -/
def srcLV (w : Wave) (field : Nat) (k : EKind) (wide : Bool) (x : Src) (l : Nat) : LV :=
  match x with
  | .v n => vLV w field wide n l
  | .o n => oLV w field wide n l
  | .s n =>
    let v := (mget 0 w.regs.s n).toNat
    ⟨if wide then v else v % 2 ^ 32, markOf (mget false w.poison.s n) field 3, mget false w.taint.s n⟩
  | .y n =>
    let v := (mget 0 w.regs.y (key n l)).toNat
    ⟨if wide then v else v % 2 ^ 32, markOf (mget false w.poison.y (key n l)) field 2, mget false w.taint.y (key n l)⟩
  | .exec => ⟨w.regs.exec.toNat, none, false⟩
  | .imm i => ⟨immValue k i, none, false⟩
  | .lit v => ⟨litValue k v, none, false⟩

/-- A scalar source: the 64-bit value of groups 0 and 1 (R261). -/
def scalarLV (w : Wave) (field : Nat) (x : Src) : LV := srcLV w field .i64 true x 0

/-- The truth of predicate n in lane l; p0 reads true (R54). -/
def predBit (w : Wave) (n l : Nat) : Bool := n == 0 || mget false w.regs.p (key n l)

/-- A predicate in a lane with its marks; p0 is never poisoned or tainted. -/
def predLV (w : Wave) (field : Nat) (n l : Nat) : LV :=
  ⟨cond (predBit w n l) 1 0, if n = 0 then none else markOf (mget false w.poison.p (key n l)) field 4,
    n != 0 && mget false w.taint.p (key n l)⟩

/-- Whether the guard holds in lane l (R222). -/
def guardBit (w : Wave) (g : Guard) (l : Nat) : Bool := predBit w g.p l != g.neg

/-- The lanes in Active (R10): EXEC set and the guard true. -/
def active (w : Wave) (g : Guard) : List Nat := (maskLanes w.regs.exec).filter (guardBit w g)

/-- The lanes whose EXEC bit is set. -/
def execLanes (w : Wave) : List Nat := maskLanes w.regs.exec

/-- UEPOISON for the lanes whose consumed value is poisoned (R280, R396); the detail is that of the lowest such lane (log 9). -/
def poisonTrap (xs : List (Nat × LV)) : Option Trap :=
  match xs.filter (fun x => x.2.poison.isSome) with
  | [] => none
  | x :: r =>
    some { cause := 0x0A, lanes := laneMask (fun l => ((x :: r).map (·.1)).contains l), detail := BitVec.ofNat 64 (x.2.poison.getD 0) }

/-- UEPOISON for a guard predicate poisoned in a lane whose EXEC bit is set (R396). -/
def guardTrap (w : Wave) (g : Guard) : Option Trap :=
  poisonTrap ((execLanes w).map (fun l => (l, predLV w 5 g.p l)))

/-- UEPOISON for a scalar source: no lane mask (R245). -/
def scalarTrap (xs : List LV) : Option Trap :=
  match xs.filterMap (·.poison) with
  | [] => none
  | d :: _ => some { cause := 0x0A, detail := BitVec.ofNat 64 d }

/-! ## Latches (R61 to R63) -/

/-- Whether a latch falls when register code c is written: its tag names it or the other half of its pair (R63). -/
def latchHit (c : Nat) (x : Latch) : Bool := x.tag == c || (x.tag / 2 == c / 2 && (x.tag < 240 || (320 ≤ x.tag && x.tag < 328)))

/-- A latch after a write of code c. -/
def latchAfter (c : Nat) (x : Option Latch) : Option Latch :=
  match x with
  | some x => if latchHit c x then none else some x
  | none => none

/-- The wave after a write of register code c: the latches that name it are invalid (R63). -/
def Wave.touch (w : Wave) (c : Nat) : Wave :=
  { w with latA := latchAfter c w.latA, latB := latchAfter c w.latB, latC := latchAfter c w.latC }

/-- All three latches invalid (R63). -/
def Wave.dropLatches (w : Wave) : Wave := { w with latA := none, latB := none, latC := none }

/-- The latch that a source read fills: 32 lanes, whatever EXEC and the guard are (R61). -/
def latchOf (w : Wave) (field : Nat) (k : EKind) (wide : Bool) (x : Src) : Option Latch :=
  some ⟨x.code, allLanes.map (fun l => BitVec.ofNat 64 (srcLV w field k wide x l).val)⟩

/-! ## Writes -/

/-- The sparse write of one lane of a 32-bit file with its taint; poison is cleared (R277, R281). -/
def wrV (w : Wave) (n l v : Nat) (t : Bool) : Wave :=
  { w with regs := { w.regs with v := mset 0 w.regs.v (key n l) (BitVec.ofNat 32 v) },
           taint := { w.taint with v := mset false w.taint.v (key n l) t },
           poison := { w.poison with v := mset false w.poison.v (key n l) false } }

def wrO (w : Wave) (n l v : Nat) (t : Bool) : Wave :=
  { w with regs := { w.regs with o := mset 0 w.regs.o (key n l) (BitVec.ofNat 32 v) },
           taint := { w.taint with o := mset false w.taint.o (key n l) t },
           poison := { w.poison with o := mset false w.poison.o (key n l) false } }

/-- A scalar register with its taint (R52). -/
def wrS (w : Wave) (n v : Nat) (t : Bool) : Wave :=
  { w with regs := { w.regs with s := mset 0 w.regs.s n (BitVec.ofNat 64 v) },
           taint := { w.taint with s := mset false w.taint.s n t },
           poison := { w.poison with s := mset false w.poison.s n false } }

/-- One lane of a predicate; p0 discards the write (R54). -/
def wrP (w : Wave) (n l : Nat) (v t : Bool) : Wave :=
  if n = 0 then w
  else { w with regs := { w.regs with p := mset false w.regs.p (key n l) v },
                taint := { w.taint with p := mset false w.taint.p (key n l) t },
                poison := { w.poison with p := mset false w.poison.p (key n l) false } }

/-- EXEC: the new value takes effect from the next instruction (R151); a latch that holds it falls (R63). -/
def wrExec (w : Wave) (m : W32) : Wave := Wave.touch { w with regs := { w.regs with exec := m } } 330

/-- The bits that EXEC has: one on a control core (R174). -/
def execBits (w : Wave) (v : Nat) : W32 := if w.ctl then BitVec.ofNat 32 (v % 2) else BitVec.ofNat 32 v

/-- One lane of a v or o destination, or of a pair (R53, R277). -/
def wrLane (wide : Bool) (d : Dst) (w : Wave) (x : Nat × LV) : Wave :=
  match d with
  | .v n => let w := wrV w n x.1 x.2.val x.2.taint
            if wide then wrV w (n + 1) x.1 (x.2.val / 2 ^ 32) x.2.taint else w
  | .o n => let w := wrO w n x.1 x.2.val x.2.taint
            if wide then wrO w (n + 1) x.1 (x.2.val / 2 ^ 32) x.2.taint else w
  | .s _ => w
  | .exec => w

/-- The last-result shift of one lane (R58). -/
def shiftY (w : Wave) (l v : Nat) (t : Bool) : Wave :=
  { w with regs := { w.regs with y := mset 0 (mset 0 w.regs.y (key 1 l) (mget 0 w.regs.y (key 0 l))) (key 0 l) (BitVec.ofNat 64 v) },
           taint := { w.taint with y := mset false (mset false w.taint.y (key 1 l) (mget false w.taint.y (key 0 l))) (key 0 l) t },
           poison := { w.poison with y := mset false (mset false w.poison.y (key 1 l) (mget false w.poison.y (key 0 l))) (key 0 l) false } }

/-- The latches after a write of a destination (R63). -/
def touchDst (wide : Bool) (d : Dst) (w : Wave) : Wave :=
  if wide then (w.touch d.code).touch (d.code + 1) else w.touch d.code

/-- The latches after a shift of the last-result file, which writes y0 and y1 (R58, R63). -/
def Wave.touchY (w : Wave) : Wave := (w.touch 328).touch 329

/-- A result-producing write of a v or o destination in the given lanes, with its shift of the last-result file (R58, R277). -/
def produce (wide : Bool) (d : Dst) (xs : List (Nat × LV)) (w : Wave) : Wave :=
  let w := xs.foldl (fun w x => shiftY (wrLane wide d w x) x.1 x.2.val x.2.taint) w
  if xs.isEmpty then w else (touchDst wide d w).touchY

/-- A predicate write in the given lanes (R54, R277). -/
def writePred (n : Nat) (xs : List (Nat × LV)) (w : Wave) : Wave :=
  xs.foldl (fun w x => wrP w n x.1 (x.2.val % 2 == 1) x.2.taint) w

/-- A scalar destination: always written (R245). -/
def writeS (n : Nat) (x : LV) (w : Wave) : Wave := (wrS w n x.val x.taint).touch (256 + n)

end Sys2Proof.Machine
end

