-- ==== Sys2Proof/Machine/Effects.lean ====
section
/-! DEFINITION. What the instructions of groups 1 to 5 do to the wave that executes them (R261 to R266, R275 to R310), as functions of the wave alone (R279); an error is the fault that the instruction raises, with the wave unchanged (R10). -/

namespace Sys2Proof.Machine

/-- The effect of an instruction on its wave. -/
abbrev Eff := Wave → Except Trap Wave

/-- A source operand with its element type and width. -/
structure Opn where
  k : EKind
  wide : Bool
  src : Src
  deriving DecidableEq, Repr

/-- What an operand yields in a lane; field is its number in R244. -/
def Opn.at (x : Opn) (w : Wave) (field l : Nat) : LV := srcLV w field x.k x.wide x.src l

/-- The latch of a source slot after its read (R61). -/
def fillOne (w : Wave) (field : Nat) (x : Option Opn) (old : Option Latch) : Option Latch :=
  match x with
  | some x => latchOf w field x.k x.wide x.src
  | none => old

/-- The latches after the sources A, B and C have been read (R61). -/
def fill (a b c : Option Opn) (w : Wave) : Wave :=
  { w with latA := fillOne w 2 a w.latA, latB := fillOne w 3 b w.latB, latC := fillOne w 4 c w.latC }

/-- A result-producing instruction: the guard, the lanes in Active, the poison they consume, then the write and the shift (R58, R277, R280). -/
def vecOp (g : Guard) (wide : Bool) (d : Dst) (a b c : Option Opn) (f : Wave → Nat → LV) : Eff := fun w =>
  match guardTrap w g with
  | some t => .error t
  | none =>
    let xs := (active w g).map (fun l => (l, f w l))
    match poisonTrap xs with
    | some t => .error t
    | none => .ok (produce wide d xs (fill a b c w))

/-- An instruction whose result is a predicate (R54, R277). -/
def cmpOp (g : Guard) (p : Nat) (a b c : Option Opn) (f : Wave → Nat → LV) : Eff := fun w =>
  match guardTrap w g with
  | some t => .error t
  | none =>
    let xs := (active w g).map (fun l => (l, f w l))
    match poisonTrap xs with
    | some t => .error t
    | none => .ok (writePred p xs (fill a b c w))

/-! ## Group 1: scalar (R261 to R265) -/

/-- The scalar source of a field among a list, as an operand. -/
def scalarOpn (field : Nat) (xs : List (Nat × Src)) : Option Opn :=
  match xs.find? (fun x => x.1 == field) with
  | some x => some ⟨.i64, true, x.2⟩
  | none => none

/-- The latches after the scalar sources have been read (R61). -/
def fillScalars (xs : List (Nat × Src)) (w : Wave) : Wave := fill (scalarOpn 2 xs) (scalarOpn 3 xs) (scalarOpn 4 xs) w

/-- A scalar instruction with sources a, b, c and a scalar destination (R245, R261). -/
def scalarOp (d : Nat) (xs : List (Nat × Src)) (f : List Nat → Nat) : Eff := fun w =>
  let ys := xs.map (fun x => scalarLV w x.1 x.2)
  match scalarTrap ys with
  | some t => .error t
  | none => .ok (writeS d ⟨f (ys.map (·.val)), none, ys.any (·.taint)⟩ (fillScalars xs w))

/-- Value n of a list of source values. -/
def arg (xs : List Nat) (n : Nat) : Nat := xs.getD n 0

def effSadd (d : Nat) (a b : Src) : Eff := scalarOp d [(2, a), (3, b)] (fun x => iAdd 64 (arg x 0) (arg x 1))
def effSsub (d : Nat) (a b : Src) : Eff := scalarOp d [(2, a), (3, b)] (fun x => iSub 64 (arg x 0) (arg x 1))
def effSmul (d : Nat) (a b : Src) : Eff := scalarOp d [(2, a), (3, b)] (fun x => iMul 64 (arg x 0) (arg x 1))
def effSmulh (sg : Bool) (d : Nat) (a b : Src) : Eff := scalarOp d [(2, a), (3, b)] (fun x => iMulh sg 64 (arg x 0) (arg x 1))
def effSdiv (sg : Bool) (d : Nat) (a b : Src) : Eff := scalarOp d [(2, a), (3, b)] (fun x => iDiv sg 64 (arg x 0) (arg x 1))
def effSrem (sg : Bool) (d : Nat) (a b : Src) : Eff := scalarOp d [(2, a), (3, b)] (fun x => iRem sg 64 (arg x 0) (arg x 1))
def effSand (d : Nat) (a b : Src) : Eff := scalarOp d [(2, a), (3, b)] (fun x => arg x 0 &&& arg x 1)
def effSor (d : Nat) (a b : Src) : Eff := scalarOp d [(2, a), (3, b)] (fun x => arg x 0 ||| arg x 1)
def effSxor (d : Nat) (a b : Src) : Eff := scalarOp d [(2, a), (3, b)] (fun x => arg x 0 ^^^ arg x 1)
def effSshl (d : Nat) (a b : Src) : Eff := scalarOp d [(2, a), (3, b)] (fun x => iShl 64 (arg x 0) (arg x 1))
def effSshr (d : Nat) (a b : Src) : Eff := scalarOp d [(2, a), (3, b)] (fun x => iShr 64 (arg x 0) (arg x 1))
def effSsar (d : Nat) (a b : Src) : Eff := scalarOp d [(2, a), (3, b)] (fun x => iSar 64 (arg x 0) (arg x 1))
def effSmin (sg : Bool) (d : Nat) (a b : Src) : Eff := scalarOp d [(2, a), (3, b)] (fun x => iMin sg 64 (arg x 0) (arg x 1))
def effSmax (sg : Bool) (d : Nat) (a b : Src) : Eff := scalarOp d [(2, a), (3, b)] (fun x => iMax sg 64 (arg x 0) (arg x 1))
def effSclz (d : Nat) (a : Src) : Eff := scalarOp d [(2, a)] (fun x => iClz 64 (arg x 0))
def effSpopc (d : Nat) (a : Src) : Eff := scalarOp d [(2, a)] (fun x => iPopc 64 (arg x 0))
def effSbfx (sg : Bool) (d : Nat) (a p l : Src) : Eff :=
  scalarOp d [(2, a), (3, p), (4, l)] (fun x => iBfx sg 64 (arg x 0) (arg x 1 % 64) (arg x 2 % 128))
/-- sbfi reads D as an extra source (R265). -/
def effSbfi (d : Nat) (a p l : Src) : Eff :=
  scalarOp d [(2, a), (3, p), (4, l), (1, .s d)] (fun x => iBfi 64 (arg x 3) (arg x 0) (arg x 1 % 64) (arg x 2 % 128))
def effSadr (d : Nat) (a b c : Src) : Eff :=
  scalarOp d [(2, a), (3, b), (4, c)] (fun x => iAdd 64 (arg x 0) (arg x 1 * 2 ^ (arg x 2 % 8)))
def effSext (sg : Bool) (d : Nat) (a l : Src) : Eff :=
  scalarOp d [(2, a), (3, l)] (fun x => iExt sg 64 (arg x 0) (arg x 1 % 128))
def effSli (d : Nat) (i : Int) : Eff := scalarOp d [] (fun _ => wrap 64 i)

/-- scmp: the result goes to every lane whose EXEC bit is set (R264). -/
def effScmp (sg : Bool) (cc : ICond) (p : Nat) (a b : Src) : Eff := fun w =>
  let x := scalarLV w 2 a
  let y := scalarLV w 3 b
  match scalarTrap [x, y] with
  | some t => .error t
  | none => .ok (writePred p ((execLanes w).map (fun l =>
      (l, ⟨cond (cc.eval (intOrder sg 64 x.val y.val)) 1 0, none, x.taint || y.taint⟩))) (fillScalars [(2, a), (3, b)] w))

/-- smov: to an s register, or bits [31:0] to EXEC from the next instruction (R262). -/
def effSmov (d : Dst) (a : Src) : Eff := fun w =>
  let x := scalarLV w 2 a
  match scalarTrap [x] with
  | some t => .error t
  | none => match d with
    | .s n => .ok (writeS n x (fillScalars [(2, a)] w))
    | .exec => .ok (wrExec (fillScalars [(2, a)] w) (execBits w x.val))
    | .v _ => .ok w
    | .o _ => .ok w

/-! ## Group 2: predicates (R266) -/

def effPand (g : Guard) (d a b : Nat) : Eff :=
  cmpOp g d none none none (fun w l => LV.map2 (fun x y => x &&& y) (predLV w 2 a l) (predLV w 3 b l))
def effPor (g : Guard) (d a b : Nat) : Eff :=
  cmpOp g d none none none (fun w l => LV.map2 (fun x y => x ||| y) (predLV w 2 a l) (predLV w 3 b l))
def effPxor (g : Guard) (d a b : Nat) : Eff :=
  cmpOp g d none none none (fun w l => LV.map2 (fun x y => x ^^^ y) (predLV w 2 a l) (predLV w 3 b l))
def effPnot (g : Guard) (d a : Nat) : Eff :=
  cmpOp g d none none none (fun w l => LV.map (fun x => 1 - x) (predLV w 2 a l))
/-- pmov of a predicate, or of bit 0 of a value (R266). -/
def effPmov (g : Guard) (d : Nat) (a : PSrc) : Eff :=
  match a with
  | .p n => cmpOp g d none none none (fun w l => predLV w 2 n l)
  | .val x =>
    let A : Opn := ⟨.i32, false, x.src⟩
    cmpOp g d (some A) none none (fun w l => LV.map (fun v => v % 2) (A.at w 2 l))

/-- The values of a predicate over Active. -/
def predList (w : Wave) (g : Guard) (a : Nat) : List LV := (active w g).map (fun l => predLV w 2 a l)

/-- The combination of a predicate over Active: tainted where any of its lanes is; a lane's poison stays its own, so that UEPOISON names the lanes whose predicate is poisoned (R245). -/
def predFold (f : List LV → Nat) (xs : List LV) (mine : LV) : LV := ⟨f xs, mine.poison, xs.any (·.taint)⟩

def effPany (g : Guard) (d a : Nat) : Eff :=
  cmpOp g d none none none (fun w l => predFold (fun xs => cond (xs.any (fun x => x.val == 1)) 1 0) (predList w g a) (predLV w 2 a l))
def effPall (g : Guard) (d a : Nat) : Eff :=
  cmpOp g d none none none (fun w l => predFold (fun xs => cond (xs.all (fun x => x.val == 1)) 1 0) (predList w g a) (predLV w 2 a l))

/-- A group 2 instruction that writes a scalar whatever Active holds (R266). -/
def predScalar (g : Guard) (d a : Nat) (f : List Nat → Nat) : Eff := fun w =>
  match guardTrap w g with
  | some t => .error t
  | none =>
    let xs := (active w g).map (fun l => (l, predLV w 2 a l))
    match poisonTrap xs with
    | some t => .error t
    | none => .ok (writeS d ⟨f ((xs.filter (fun x => x.2.val == 1)).map (·.1)), none, xs.any (·.2.taint)⟩ w)

def effPcnt (g : Guard) (d a : Nat) : Eff := predScalar g d a (fun ls => ls.length)
def effPfirst (g : Guard) (d a : Nat) : Eff := predScalar g d a (fun ls => ls.headD 32)

/-- The mask of pballot (R266). -/
def ballot (ls : List Nat) : Nat := ls.foldl (fun m l => m + 2 ^ l) 0

/-- pballot to an s register, EXEC, or a v or o register (R266); group 2 is not result-producing (R58). -/
def effPballot (g : Guard) (d : Dst) (a : Nat) : Eff := fun w =>
  match d with
  | .s n => predScalar g n a ballot w
  | .exec =>
    match guardTrap w g with
    | some t => .error t
    | none =>
      let xs := (active w g).map (fun l => (l, predLV w 2 a l))
      match poisonTrap xs with
      | some t => .error t
      | none => .ok (wrExec w (BitVec.ofNat 32 (ballot ((xs.filter (fun x => x.2.val == 1)).map (·.1)))))
  | d =>
    match guardTrap w g with
    | some t => .error t
    | none =>
      let xs := (active w g).map (fun l => (l, predLV w 2 a l))
      match poisonTrap xs with
      | some t => .error t
      | none =>
        let m := ballot ((xs.filter (fun x => x.2.val == 1)).map (·.1))
        let tt := xs.any (·.2.taint)
        .ok (if xs.isEmpty then w else touchDst false d (xs.foldl (fun w x => wrLane false d w (x.1, ⟨m, none, tt⟩)) w))

/-! ## Group 3: integer and lane operations (R283 to R292) -/

/-- A two-source integer instruction on elements. -/
def int2 (t : ITy) (g : Guard) (d : Dst) (a b : HSrc) (f : Nat → Nat → Nat) : Eff :=
  let A : Opn := ⟨intKind t, t.wide, a.src⟩
  let B : Opn := ⟨intKind t, t.wide, b.src⟩
  vecOp g t.wide d (some A) (some B) none (fun w l => LV.map2 (map2 t.width t.count f) (A.at w 2 l) (B.at w 3 l))

/-- A one-source integer instruction on elements. -/
def int1 (t : ITy) (g : Guard) (d : Dst) (a : HSrc) (f : Nat → Nat) : Eff :=
  let A : Opn := ⟨intKind t, t.wide, a.src⟩
  vecOp g t.wide d (some A) none none (fun w l => LV.map (map1 t.width t.count f) (A.at w 2 l))

/-- The type of a shift count, position or length: 32 bits for a 64-bit type (R286). -/
def countKind (t : ITy) : EKind := if t.wide then .i32 else intKind t

/-- A shift: the count is taken per element, and is a 32-bit operand of a 64-bit type (R286). -/
def shiftOp (t : ITy) (g : Guard) (d : Dst) (a b : HSrc) (f : Nat → Nat → Nat) : Eff :=
  let A : Opn := ⟨intKind t, t.wide, a.src⟩
  let B : Opn := ⟨countKind t, false, b.src⟩
  vecOp g t.wide d (some A) (some B) none (fun w l => LV.map2 (map2 t.width t.count f) (A.at w 2 l) (B.at w 3 l))

def effAdd (t : ITy) (g : Guard) (d : Dst) (a b : HSrc) : Eff := int2 t g d a b (iAdd t.width)
def effSub (t : ITy) (g : Guard) (d : Dst) (a b : HSrc) : Eff := int2 t g d a b (iSub t.width)
def effMul (t : ITy) (g : Guard) (d : Dst) (a b : HSrc) : Eff := int2 t g d a b (iMul t.width)
def effMulh (t : ITy) (sg : Bool) (g : Guard) (d : Dst) (a b : HSrc) : Eff := int2 t g d a b (iMulh sg t.width)
def effDiv (t : ITy) (sg : Bool) (g : Guard) (d : Dst) (a b : HSrc) : Eff := int2 t g d a b (iDiv sg t.width)
def effRem (t : ITy) (sg : Bool) (g : Guard) (d : Dst) (a b : HSrc) : Eff := int2 t g d a b (iRem sg t.width)
def effMin (t : ITy) (sg : Bool) (g : Guard) (d : Dst) (a b : HSrc) : Eff := int2 t g d a b (iMin sg t.width)
def effMax (t : ITy) (sg : Bool) (g : Guard) (d : Dst) (a b : HSrc) : Eff := int2 t g d a b (iMax sg t.width)
def effAbs (t : ITy) (sg : Bool) (g : Guard) (d : Dst) (a : HSrc) : Eff := int1 t g d a (iAbs sg t.width)
def effAnd (t : ITy) (g : Guard) (d : Dst) (a b : HSrc) : Eff := int2 t g d a b (fun x y => x &&& y)
def effOr (t : ITy) (g : Guard) (d : Dst) (a b : HSrc) : Eff := int2 t g d a b (fun x y => x ||| y)
def effXor (t : ITy) (g : Guard) (d : Dst) (a b : HSrc) : Eff := int2 t g d a b (fun x y => x ^^^ y)
def effNot (t : ITy) (g : Guard) (d : Dst) (a : HSrc) : Eff := int1 t g d a (iNot t.width)
def effShl (t : ITy) (g : Guard) (d : Dst) (a b : HSrc) : Eff := shiftOp t g d a b (iShl t.width)
def effShr (t : ITy) (g : Guard) (d : Dst) (a b : HSrc) : Eff := shiftOp t g d a b (iShr t.width)
def effSar (t : ITy) (g : Guard) (d : Dst) (a b : HSrc) : Eff := shiftOp t g d a b (iSar t.width)
def effClz (t : ITy) (g : Guard) (d : Dst) (a : HSrc) : Eff := int1 t g d a (iClz t.width)
def effPopc (t : ITy) (g : Guard) (d : Dst) (a : HSrc) : Eff := int1 t g d a (iPopc t.width)
def effAddSat (t : ITy) (sg : Bool) (g : Guard) (d : Dst) (a b : HSrc) : Eff := int2 t g d a b (iAddSat sg t.width)
def effSubSat (t : ITy) (sg : Bool) (g : Guard) (d : Dst) (a b : HSrc) : Eff := int2 t g d a b (iSubSat sg t.width)
def effMulSat (t : ITy) (sg : Bool) (g : Guard) (d : Dst) (a b : HSrc) : Eff := int2 t g d a b (iMulSat sg t.width)

def effMad (t : ITy) (g : Guard) (d : Dst) (a b c : HSrc) : Eff :=
  let A : Opn := ⟨intKind t, t.wide, a.src⟩
  let B : Opn := ⟨intKind t, t.wide, b.src⟩
  let C : Opn := ⟨intKind t, t.wide, c.src⟩
  vecOp g t.wide d (some A) (some B) (some C)
    (fun w l => LV.map3 (map3 t.width t.count (iMad t.width)) (A.at w 2 l) (B.at w 3 l) (C.at w 4 l))

def effBfx (t : ITy) (sg : Bool) (g : Guard) (d : Dst) (a p n : HSrc) : Eff :=
  let A : Opn := ⟨intKind t, t.wide, a.src⟩
  let B : Opn := ⟨countKind t, false, p.src⟩
  let C : Opn := ⟨countKind t, false, n.src⟩
  let q := t.width
  vecOp g t.wide d (some A) (some B) (some C)
    (fun w l => LV.map3 (map3 q t.count (fun a p n => iBfx sg q a (p % q) (n % (2 * q)))) (A.at w 2 l) (B.at w 3 l) (C.at w 4 l))

/-- The source that a destination is when it is also read. -/
def dstSrc (d : Dst) : Src :=
  match d with
  | .v n => .v n
  | .o n => .o n
  | .s n => .s n
  | .exec => .exec

/-- bfi reads its destination as an extra source (R286); that read fills no latch (R64). -/
def effBfi (t : ITy) (g : Guard) (d : Dst) (a p n : HSrc) : Eff :=
  let A : Opn := ⟨intKind t, t.wide, a.src⟩
  let B : Opn := ⟨countKind t, false, p.src⟩
  let C : Opn := ⟨countKind t, false, n.src⟩
  let D : Opn := ⟨intKind t, t.wide, dstSrc d⟩
  let q := t.width
  vecOp g t.wide d (some A) (some B) (some C)
    (fun w l =>
      let a := A.at w 2 l
      let p := B.at w 3 l
      let n := C.at w 4 l
      let o := D.at w 1 l
      LV.mix (map4 q t.count (fun o a p n => iBfi q o a (p % q) (n % (2 * q))) o.val a.val p.val n.val) (LV.mix 0 a p) (LV.mix 0 n o))

/-- sel consumes only the source it selects (R280, R288). -/
def effSel (t : ITy) (g : Guard) (d : Dst) (a b : HSrc) (p : Nat) : Eff :=
  let A : Opn := ⟨intKind t, t.wide, a.src⟩
  let B : Opn := ⟨intKind t, t.wide, b.src⟩
  vecOp g t.wide d (some A) (some B) none (fun w l =>
    let c := predLV w 4 p l
    let x := if predBit w p l then A.at w 2 l else B.at w 3 l
    LV.mix x.val c x)

def effCmp (t : ITy) (sg : Bool) (cc : ICond) (g : Guard) (p : Nat) (a b : HSrc) : Eff :=
  let A : Opn := ⟨intKind t, t.wide, a.src⟩
  let B : Opn := ⟨intKind t, t.wide, b.src⟩
  cmpOp g p (some A) (some B) none (fun w l =>
    LV.map2 (fun x y => cond (allEls t.width t.count (fun x y => cc.eval (intOrder sg t.width x y)) x y) 1 0) (A.at w 2 l) (B.at w 3 l))

/-- Whether mov to EXEC compares its source across the lanes: v, o and y registers (R288). -/
def perLane (x : Src) : Bool :=
  match x with
  | .v _ | .o _ | .y _ => true
  | _ => false

/-- mov, and mov to EXEC with its NONUNIFORM (R288). -/
def effMov (t : ITy) (g : Guard) (d : Dst) (a : HSrc) : Eff :=
  let A : Opn := ⟨intKind t, t.wide, a.src⟩
  match d with
  | .exec => fun w =>
    match guardTrap w g with
    | some t => .error t
    | none =>
      let xs := (active w g).map (fun l => (l, A.at w 2 l))
      match poisonTrap xs with
      | some t => .error t
      | none => match xs with
        | [] => .ok (fill (some A) none none w)
        | x :: r =>
          if perLane a.src && r.any (fun y => y.2.val != x.2.val) then
            .error { cause := 0x03, lanes := laneMask (fun l => (active w g).contains l), detail := 2 }
          else .ok (wrExec (fill (some A) none none w) (BitVec.ofNat 32 x.2.val))
  | d => vecOp g t.wide d (some A) none none (fun w l => A.at w 2 l)

/-- shfl: every lane in Active reads its source lane, whatever that lane's EXEC bit holds (R289). -/
def effShfl (t : ITy) (m : ShflMode) (g : Guard) (d : Dst) (a b : HSrc) : Eff :=
  let A : Opn := ⟨intKind t, t.wide, a.src⟩
  let B : Opn := ⟨.i32, false, b.src⟩
  vecOp g t.wide d (some A) (some B) none (fun w l =>
    let n := B.at w 3 l
    let x := A.at w 2 (shflSrc m l n.val)
    LV.mix x.val x n)

def effBcast (t : ITy) (g : Guard) (d : Dst) (a : HSrc) (n : Src) : Eff :=
  let A : Opn := ⟨intKind t, t.wide, a.src⟩
  let B : Opn := ⟨.i32, false, n⟩
  vecOp g t.wide d (some A) (some B) none (fun w l =>
    let n := B.at w 3 l
    let x := A.at w 2 (n.val % 32)
    LV.mix x.val x n)

/-- The combination of A over a list of lanes (R291). -/
def reduce (t : ITy) (sg : Bool) (op : RedOp) (xs : List LV) : LV :=
  xs.foldl (fun acc x => LV.map2 (map2 t.width t.count (redOp op sg t.width)) acc x)
    ⟨packEls t.width t.count (fun _ => redId op sg t.width), none, false⟩

/-- lred: to every lane in Active, or to an s register whatever Active holds (R277, R291). -/
def effLred (t : ITy) (sg : Bool) (op : RedOp) (g : Guard) (d : Dst) (a : HSrc) : Eff :=
  let A : Opn := ⟨intKind t, t.wide, a.src⟩
  match d with
  | .s n => fun w =>
    match guardTrap w g with
    | some t => .error t
    | none =>
      let xs := (active w g).map (fun l => (l, A.at w 2 l))
      match poisonTrap xs with
      | some t => .error t
      | none =>
        let r := reduce t sg op (xs.map (·.2))
        let v := if t.wide || !sg then r.val else wrap 64 (toSigned 32 r.val)
        .ok (writeS n ⟨v, none, r.taint⟩ (fill (some A) none none w))
  | d => vecOp g t.wide d (some A) none none (fun w _ => reduce t sg op ((active w g).map (fun l => A.at w 2 l)))

/-- lscan: lane l combines the lanes of Active up to itself, below itself for .excl (R292). -/
def effLscan (t : ITy) (sg : Bool) (op : RedOp) (excl : Bool) (g : Guard) (d : Dst) (a : HSrc) : Eff :=
  let A : Opn := ⟨intKind t, t.wide, a.src⟩
  vecOp g t.wide d (some A) none none (fun w l =>
    reduce t sg op (((active w g).filter (fun k => k < l || (k == l && !excl))).map (fun k => A.at w 2 k)))

/-! ## Group 4: floating point (R293 to R300) -/

/-- A one-source float instruction on elements, under FMODE. -/
def float1 (t : FTy) (g : Guard) (d : Dst) (a : HSrc) (f : W32 → Nat → Nat) : Eff :=
  let A : Opn := ⟨floatKind t, t.wide, a.src⟩
  vecOp g t.wide d (some A) none none (fun w l => LV.map (map1 t.fmt.width t.count (f w.fmode)) (A.at w 2 l))

/-- A two-source float instruction on elements, under FMODE. -/
def float2 (t : FTy) (g : Guard) (d : Dst) (a b : HSrc) (f : W32 → Nat → Nat → Nat) : Eff :=
  let A : Opn := ⟨floatKind t, t.wide, a.src⟩
  let B : Opn := ⟨floatKind t, t.wide, b.src⟩
  vecOp g t.wide d (some A) (some B) none (fun w l => LV.map2 (map2 t.fmt.width t.count (f w.fmode)) (A.at w 2 l) (B.at w 3 l))

def effFadd (t : FTy) (g : Guard) (d : Dst) (a b : HSrc) : Eff := float2 t g d a b (fun m => fAdd m t.fmt)
def effFsub (t : FTy) (g : Guard) (d : Dst) (a b : HSrc) : Eff := float2 t g d a b (fun m => fSub m t.fmt)
def effFmul (t : FTy) (g : Guard) (d : Dst) (a b : HSrc) : Eff := float2 t g d a b (fun m => fMul m t.fmt)
def effFmin (t : FTy) (g : Guard) (d : Dst) (a b : HSrc) : Eff := float2 t g d a b (fun m => fMinMax false m t.fmt)
def effFmax (t : FTy) (g : Guard) (d : Dst) (a b : HSrc) : Eff := float2 t g d a b (fun m => fMinMax true m t.fmt)
def effFdiv (t : FTy) (g : Guard) (d : Dst) (a b : HSrc) : Eff := float2 t g d a b (fun m => fDiv m t.fmt)
def effFsqrt (t : FTy) (g : Guard) (d : Dst) (a : HSrc) : Eff := float1 t g d a (fun m => fSqrt m t.fmt)
def effFrcp (t : FTy) (g : Guard) (d : Dst) (a : HSrc) : Eff := float1 t g d a (fun m => fSpecial .rcp m t.fmt)
def effFrsq (t : FTy) (g : Guard) (d : Dst) (a : HSrc) : Eff := float1 t g d a (fun m => fSpecial .rsq m t.fmt)
def effFexp2 (t : FTy) (g : Guard) (d : Dst) (a : HSrc) : Eff := float1 t g d a (fun m => fSpecial .exp2 m t.fmt)
def effFlog2 (t : FTy) (g : Guard) (d : Dst) (a : HSrc) : Eff := float1 t g d a (fun m => fSpecial .log2 m t.fmt)
def effFsin (t : FTy) (g : Guard) (d : Dst) (a : HSrc) : Eff := float1 t g d a (fun m => fSpecial .sin m t.fmt)
def effFcos (t : FTy) (g : Guard) (d : Dst) (a : HSrc) : Eff := float1 t g d a (fun m => fSpecial .cos m t.fmt)
def effFtanh (t : FTy) (g : Guard) (d : Dst) (a : HSrc) : Eff := float1 t g d a (fun m => fSpecial .tanh m t.fmt)
def effFround (t : FTy) (md : RndMode) (g : Guard) (d : Dst) (a : HSrc) : Eff := float1 t g d a (fun m => fFround m t.fmt md)

def effFma (t : FTy) (g : Guard) (d : Dst) (a b c : HSrc) : Eff :=
  let A : Opn := ⟨floatKind t, t.wide, a.src⟩
  let B : Opn := ⟨floatKind t, t.wide, b.src⟩
  let C : Opn := ⟨floatKind t, t.wide, c.src⟩
  vecOp g t.wide d (some A) (some B) (some C)
    (fun w l => LV.map3 (map3 t.fmt.width t.count (fFma w.fmode t.fmt)) (A.at w 2 l) (B.at w 3 l) (C.at w 4 l))

def effFcmp (t : FTy) (cc : FCond) (g : Guard) (p : Nat) (a b : HSrc) : Eff :=
  let A : Opn := ⟨floatKind t, t.wide, a.src⟩
  let B : Opn := ⟨floatKind t, t.wide, b.src⟩
  cmpOp g p (some A) (some B) none (fun w l =>
    LV.map2 (fun x y => cond (allEls t.fmt.width t.count (fCompare w.fmode t.fmt cc) x y) 1 0) (A.at w 2 l) (B.at w 3 l))

def effFcls (t : FTy) (g : Guard) (p : Nat) (a : HSrc) (mask : Nat) : Eff :=
  let A : Opn := ⟨floatKind t, t.wide, a.src⟩
  cmpOp g p (some A) none none (fun w l =>
    LV.map (fun x => cond (allEls t.fmt.width t.count (fun x _ => mask.testBit (fclass t.fmt x)) x x) 1 0) (A.at w 2 l))

def effFdot2 (t : FTy) (g : Guard) (d : Dst) (a b c : HSrc) : Eff :=
  let A : Opn := ⟨floatKind t, false, a.src⟩
  let B : Opn := ⟨floatKind t, false, b.src⟩
  let C : Opn := ⟨.f32, false, c.src⟩
  vecOp g false d (some A) (some B) (some C)
    (fun w l => LV.map3 (fDot2 w.fmode t.fmt) (A.at w 2 l) (B.at w 3 l) (C.at w 4 l))

/-! ## Group 5: conversion and checks (R301 to R309) -/

def effCvt (ds sr : Fmt) (g : Guard) (d : Dst) (a : HSrc) : Eff :=
  let A : Opn := ⟨fmtKind sr, fmtWide sr.code, a.src⟩
  vecOp g (fmtWide ds.code) d (some A) none none (fun w l => LV.map (convert w.fmode w.nmode ds sr l) (A.at w 2 l))

def effPack (ds sr : Fmt) (g : Guard) (d : Dst) (a b : HSrc) : Eff :=
  let A : Opn := ⟨fmtKind sr, false, a.src⟩
  let B : Opn := ⟨fmtKind sr, false, b.src⟩
  vecOp g false d (some A) (some B) none (fun w l => LV.map2 (packPair w.fmode w.nmode ds sr l) (A.at w 2 l) (B.at w 3 l))

def effUnpk (ds sr : Fmt) (g : Guard) (d : Dst) (a k : HSrc) : Eff :=
  let A : Opn := ⟨fmtKind sr, false, a.src⟩
  let B : Opn := ⟨.i32, false, k.src⟩
  vecOp g false d (some A) (some B) none (fun w l => LV.map2 (unpack w.nmode ds sr l) (A.at w 2 l) (B.at w 3 l))

def effQnt (ds : Fmt) (g : Guard) (d : Dst) (a sc : HSrc) : Eff :=
  let A : Opn := ⟨.f32, false, a.src⟩
  let B : Opn := ⟨.i32, false, sc.src⟩
  vecOp g false d (some A) (some B) none (fun w l => LV.map2 (quantise w.nmode ds l) (A.at w 2 l) (B.at w 3 l))

def effDqnt (sr : Fmt) (g : Guard) (d : Dst) (a sc : HSrc) : Eff :=
  let A : Opn := ⟨fmtKind sr, false, a.src⟩
  let B : Opn := ⟨.i32, false, sc.src⟩
  vecOp g false d (some A) (some B) none (fun w l => LV.map2 (dequantise w.fmode sr) (A.at w 2 l) (B.at w 3 l))

/-- csum reads and writes D (R308). -/
def effCsum (k : FoldKind) (g : Guard) (d : Dst) (a : HSrc) : Eff :=
  let A : Opn := ⟨.i32, false, a.src⟩
  let D : Opn := ⟨.i32, false, dstSrc d⟩
  vecOp g false d (some A) none none (fun w l => LV.map2 (fun a d => fold k d a) (A.at w 2 l) (D.at w 1 l))

/-- chk writes nothing; a failing check raises CHKFAIL with the lanes and the two values of R309 and R310. -/
def effChk (k : ChkKind) (g : Guard) (a b : HSrc) : Eff := fun w =>
  let A : Opn := ⟨.i32, false, a.src⟩
  let B : Opn := ⟨.i32, false, b.src⟩
  match guardTrap w g with
  | some t => .error t
  | none =>
    let xs := (active w g).map (fun l => (l, A.at w 2 l, B.at w 3 l))
    match poisonTrap (xs.map (fun x => (x.1, LV.mix 0 x.2.1 x.2.2))) with
    | some t => .error t
    | none =>
      let w' := fill (some A) (some B) none w
      if k == .fold then
        let xa := xs.foldl (fun v x => v ^^^ x.2.1.val) 0
        let xb := xs.foldl (fun v x => v ^^^ x.2.2.val) 0
        if xa = xb then .ok w'
        else .error { cause := 0x0B, lanes := laneMask (fun l => (active w g).contains l), detail := BitVec.ofNat 64 (xa * 2 ^ 32 + xb) }
      else
        match xs.filter (fun x => chkFails k x.2.1.val x.2.2.val) with
        | [] => .ok w'
        | x :: r =>
          .error { cause := 0x0B, lanes := laneMask (fun l => ((x :: r).map (·.1)).contains l),
                   detail := BitVec.ofNat 64 (x.2.1.val * 2 ^ 32 + x.2.2.val) }

/-- The elements of a register of a tile format (R275). -/
def tileElems (ds : Fmt) : Nat := 32 / ds.width

/-- ILLOP with its REASON and FIELD; PARCEL is filled in where the fault is raised (R244). -/
def illop (reason field : Nat) : Trap := { cause := 0x01, detail := BitVec.ofNat 64 (reason + 256 * field) }

/-- One destination register of pack.tile in one lane: its elements in increasing column order (R304), tainted where one of them or F or N is (R281). -/
def tileWord (nmode : W32) (ds : Fmt) (f j0 : Nat) (mark : Bool) (w : Wave) (l : Nat) : LV :=
  let e := tileElems ds
  let xs := (List.range e).map (fun i => vLV w 2 false (f + j0 + i) l)
  ⟨packEls ds.width e (fun i => narrowTo nmode ds (j0 + i) (toExact .fp32 false ((xs.getD i default).val))),
    xs.foldl (fun p x => p <|> x.poison) none, mark || xs.any (·.taint)⟩

/-- pack.tile (R304): rows are the lanes of EXEC, columns the registers v(F + j); NMODE.PH advances after the read (R213). bud is the wave's budget. -/
def effPackTile (bud : Nat) (ds : Fmt) (d : Dst) (fs ns : Src) : Eff := fun w =>
  let F := srcLV w 2 .i64 true fs 0
  let N := srcLV w 3 .i64 true ns 0
  let e := tileElems ds
  match poisonTrap ((execLanes w).map (fun l => (l, LV.mix 0 F N))) with
  | some t => .error t
  | none =>
    let f := F.val
    let n := N.val
    if !(1 ≤ n && n ≤ 32 && n % e == 0) then .error (illop 0x06 3)
    else if bud < f + n then .error (illop 0x09 2)
    else match d with
      | .v r =>
        if bud < r + n / e then .error (illop 0x09 1)
        else
          let rows := (List.range (n / e)).map (fun q => (q, (execLanes w).map (fun l => (l, tileWord w.nmode ds f (q * e) (F.taint || N.taint) w l))))
          match poisonTrap ((execLanes w).map (fun l => (l, ⟨0, (rows.map (fun q => (q.2.filter (fun x => x.1 == l)).foldl (fun p x => p <|> x.2.poison) none)).foldl (fun p x => p <|> x) none, false⟩))) with
          | some t => .error t
          | none =>
            let w' := fill (some ⟨.i64, true, fs⟩) (some ⟨.i64, true, ns⟩) none w
            let w' := { w' with nmode := BitVec.ofNat 32 (w.nmode.toNat % 2 ^ 27 + (nmPh w.nmode + 1) % 32 * 2 ^ 27) }
            .ok (rows.foldl (fun w q =>
              if q.1 = 0 then produce false (.v r) q.2 w
              else touchDst false (.v (r + q.1)) (q.2.foldl (fun w x => wrLane false (.v (r + q.1)) w x) w)) w')
      | _ => .error (illop 0x09 1)

/-! ## Pairs and compact forms (R229, R230) -/

/-- What a restricted opcode computes in a lane from A, B and the accumulate source C. -/
def ropLane (op : ROp) (fm : W32) (a b c : Nat) : Nat :=
  match op with
  | .addU32 => map2 32 1 (iAdd 32) a b
  | .subU32 => map2 32 1 (iSub 32) a b
  | .mulU32 => map2 32 1 (iMul 32) a b
  | .madU32 => map3 32 1 (iMad 32) a b c
  | .andU32 => map2 32 1 (fun x y => x &&& y) a b
  | .orU32 => map2 32 1 (fun x y => x ||| y) a b
  | .xorU32 => map2 32 1 (fun x y => x ^^^ y) a b
  | .shlU32 => map2 32 1 (iShl 32) a b
  | .shrU32 => map2 32 1 (iShr 32) a b
  | .sarI32 => map2 32 1 (iSar 32) a b
  | .minI32 => map2 32 1 (iMin true 32) a b
  | .maxI32 => map2 32 1 (iMax true 32) a b
  | .minU32 => map2 32 1 (iMin false 32) a b
  | .maxU32 => map2 32 1 (iMax false 32) a b
  | .addSatI32 => map2 32 1 (iAddSat true 32) a b
  | .subSatI32 => map2 32 1 (iSubSat true 32) a b
  | .movU32 => a
  | .notU32 => map1 32 1 (iNot 32) a
  | .absI32 => map1 32 1 (iAbs true 32) a
  | .clzU32 => map1 32 1 (iClz 32) a
  | .popcU32 => map1 32 1 (iPopc 32) a
  | .mulhI32 => map2 32 1 (iMulh true 32) a b
  | .mulhU32 => map2 32 1 (iMulh false 32) a b
  | .addSatU32 => map2 32 1 (iAddSat false 32) a b
  | .faddF32 => map2 32 1 (fAdd fm .fp32) a b
  | .fsubF32 => map2 32 1 (fSub fm .fp32) a b
  | .fmulF32 => map2 32 1 (fMul fm .fp32) a b
  | .fmaF32 => map3 32 1 (fFma fm .fp32) a b c
  | .fminF32 => map2 32 1 (fMinMax false fm .fp32) a b
  | .fmaxF32 => map2 32 1 (fMinMax true fm .fp32) a b
  | .faddF16 => map2 16 2 (fAdd fm .fp16) a b
  | .fmulF16 => map2 16 2 (fMul fm .fp16) a b
  | .fmaF16 => map3 16 2 (fFma fm .fp16) a b c
  | .faddBf16 => map2 16 2 (fAdd fm .bf16) a b
  | .fmulBf16 => map2 16 2 (fMul fm .bf16) a b
  | .fmaBf16 => map3 16 2 (fFma fm .bf16) a b c
  | .frcpF32 => map1 32 1 (fSpecial .rcp fm .fp32) a
  | .frsqF32 => map1 32 1 (fSpecial .rsq fm .fp32) a
  | .fexp2F32 => map1 32 1 (fSpecial .exp2 fm .fp32) a
  | .flog2F32 => map1 32 1 (fSpecial .log2 fm .fp32) a
  | .fsubF16 => map2 16 2 (fSub fm .fp16) a b
  | .fsubBf16 => map2 16 2 (fSub fm .bf16) a b
  | .addU16 => map2 16 2 (iAdd 16) a b
  | .subU16 => map2 16 2 (iSub 16) a b
  | .fminF16 => map2 16 2 (fMinMax false fm .fp16) a b
  | .fmaxF16 => map2 16 2 (fMinMax true fm .fp16) a b
  | .fminBf16 => map2 16 2 (fMinMax false fm .bf16) a b
  | .fmaxBf16 => map2 16 2 (fMinMax true fm .bf16) a b
  | .subSatU32 => map2 32 1 (iSubSat false 32) a b
  | .fdot2F16 => fDot2 fm .fp16 a b c
  | .fdot2Bf16 => fDot2 fm .bf16 a b c
  | .mulU16 => map2 16 2 (iMul 16) a b
  | .minI16 => map2 16 2 (iMin true 16) a b
  | .maxI16 => map2 16 2 (iMax true 16) a b
  | .madU16 => map3 16 2 (iMad 16) a b c

/-- The element type of a restricted opcode's immediates (R223, R228). -/
def ropKind (op : ROp) : EKind :=
  match op with
  | .faddF32 | .fsubF32 | .fmulF32 | .fmaF32 | .fminF32 | .fmaxF32 | .frcpF32 | .frsqF32 | .fexp2F32 | .flog2F32 => .f32
  | .faddF16 | .fmulF16 | .fmaF16 | .fsubF16 | .fminF16 | .fmaxF16 | .fdot2F16 => .f16
  | .faddBf16 | .fmulBf16 | .fmaBf16 | .fsubBf16 | .fminBf16 | .fmaxBf16 | .fdot2Bf16 => .bf16
  | .addU16 | .subU16 | .mulU16 | .minI16 | .maxI16 | .madU16 => .i16
  | _ => .i32

/-- The results of one half in the lanes of EXEC (R229). -/
def halfPlan (h : Half) (w : Wave) : List (Nat × LV) :=
  (execLanes w).map (fun l =>
    let k := ropKind h.op
    let a := srcLV w 2 k false h.a l
    let b := match h.b with
      | some b => srcLV w 3 k false b l
      | none => (⟨0, none, false⟩ : LV)
    let c := if h.op.accum then srcLV w 4 k false (dstSrc h.d) l else (⟨0, none, false⟩ : LV)
    (l, LV.map3 (ropLane h.op w.fmode) a b c))

/-- A compact form: the full form's effect without guard or holds; the latches fall (R63, R229). -/
def effCompact (h : Half) : Eff := fun w =>
  let xs := halfPlan h w
  match poisonTrap xs with
  | some t => .error t
  | none => .ok ((produce false h.d xs w).dropLatches)

/-- A pair: every source of both halves is read before either half writes; the shifts are applied first half, then second (R58, R229). -/
def effPair (x y : Half) : Eff := fun w =>
  let xs := halfPlan x w
  let ys := halfPlan y w
  match poisonTrap (xs ++ ys) with
  | some t => .error t
  | none => .ok ((produce false y.d ys (produce false x.d xs w)).dropLatches)

end Sys2Proof.Machine
end

