-- ==== Sys2Proof/Machine/Mem.lean ====
section
/-! DEFINITION. Reading and writing the parts of State, memory at its homes (R15, R78), the hypervisor window (R416), frames (R44 to R48) and the translation tables (R19 to R25). -/

namespace Sys2Proof.Machine

/-! ## The parts of State -/

/-- The wave slot or control core with an identity (R5, R108). -/
def State.wave (s : State) (id : Nat) : Wave := mget {} s.waves id
def State.setWave (s : State) (id : Nat) (w : Wave) : State := { s with waves := mset {} s.waves id w }
/-- A change of one wave. -/
def State.modWave (s : State) (id : Nat) (f : Wave → Wave) : State := s.setWave id (f (s.wave id))

/-- The resident unit 16·core + index (R77). -/
def State.unit (s : State) (u : Nat) : Option UnitR := mget none s.units u
def State.setUnit (s : State) (u : Nat) (r : Option UnitR) : State := { s with units := mset none s.units u r }
def State.modUnit (s : State) (u : Nat) (f : UnitR → UnitR) : State :=
  match s.unit u with
  | some r => s.setUnit u (some (f r))
  | none => s

def State.launch (s : State) (l : Nat) : Option Launch := mget none s.launches l
def State.setLaunch (s : State) (l : Nat) (r : Option Launch) : State := { s with launches := mset none s.launches l r }
def State.modLaunch (s : State) (l : Nat) (f : Launch → Launch) : State :=
  match s.launch l with
  | some r => s.setLaunch l (some (f r))
  | none => s

def State.core (s : State) (c : Nat) : Core := mget {} s.cores c
def State.setCore (s : State) (c : Nat) (x : Core) : State := { s with cores := mset {} s.cores c x }
def State.modCore (s : State) (c : Nat) (f : Core → Core) : State := s.setCore c (f (s.core c))

def State.vf (s : State) (v : Nat) : VFn := mget {} s.vfs v
def State.setVf (s : State) (v : Nat) (x : VFn) : State := { s with vfs := mset {} s.vfs v x }
def State.modVf (s : State) (v : Nat) (f : VFn → VFn) : State := s.setVf v (f (s.vf v))

def State.die (s : State) (d : Nat) : Die := mget {} s.dies d
def State.modDie (s : State) (d : Nat) (f : Die → Die) : State := { s with dies := mset {} s.dies d (f (s.die d)) }
def State.vault (s : State) (v : Nat) : Vault := mget {} s.vaults v
def State.handle (u : UnitR) (h : Nat) : Handle := mget {} u.handles h

/-- A number that no earlier step has used (log 5). -/
def State.tick (s : State) : State := { s with fresh := s.fresh + 1 }

/-- The control core of core c (R108). -/
def ctlId (c : Nat) : Nat := 12288 + c
def isCtl (id : Nat) : Bool := 12288 ≤ id && id < 12480
/-- The physical core of an identity (R5, R108). -/
def coreOf (id : Nat) : Nat := if isCtl id then id - 12288 else id / 64
/-- The die of a physical core (R3). -/
def dieOfCore (c : Nat) : Nat := c / 48
/-- The vault above a physical core, 16·die + vault (R82). -/
def vaultOf (c : Nat) : Nat := 16 * (c / 48) + c % 48 / 3
/-- The die of an identity; a parked identity lies on the die the home keeps with it (R92). -/
def State.dieOf (s : State) (id : Nat) : Nat := if 12480 ≤ id then mget 0 s.homes id else dieOfCore (coreOf id)
/-- The physical core of a logical core id, and the reverse (R4). -/
def State.phys (s : State) (l : Nat) : Nat := mget l s.lmap l
def State.logical (s : State) (c : Nat) : Nat := ((List.range 192).find? (fun l => s.phys l == c)).getD c
/-- The cores assigned to a function (R399). -/
def State.vfCores (s : State) (v : Nat) : List Nat := (s.cores.filter (fun x => x.2.vf == some v)).map (·.1)

/-! ## Bytes -/

/-- The canonical form of memory: addresses strictly rising, and no listed byte zero. -/
def Memory.wf (m : List Host.Cell) : Bool := mwf 0 m

/-- A byte of physical memory; what nothing has written reads zero (R421 start step 3). -/
def readB (m : List Host.Cell) (a : Nat) : Byte := mget 0 m a
def writeB (m : List Host.Cell) (a : Nat) (v : Byte) : List Host.Cell := mset 0 m a v
/-- n bytes from a, as a little-endian number (R8). -/
def readN (m : List Host.Cell) (a : Nat) : Nat → Nat
  | 0 => 0
  | n + 1 => (readB m a).toNat + 256 * readN m (a + 1) n
def writeN (m : List Host.Cell) (a v : Nat) : Nat → List Host.Cell
  | 0 => m
  | n + 1 => writeN (writeB m a (BitVec.ofNat 8 v)) (a + 1) (v / 256) n
def readBytes (m : List Host.Cell) (a n : Nat) : List Byte := (List.range n).map (fun i => readB m (a + i))
def writeBytes (m : List Host.Cell) (a : Nat) : List Byte → List Host.Cell
  | [] => m
  | b :: bs => writeBytes (writeB m a b) (a + 1) bs

/-- A number as n little-endian bytes. -/
def toBytes (v : Nat) : Nat → List Byte
  | 0 => []
  | n + 1 => BitVec.ofNat 8 v :: toBytes (v / 256) n
/-- Little-endian bytes as a number. -/
def ofBytes : List Byte → Nat
  | [] => 0
  | b :: bs => b.toNat + 256 * ofBytes bs
/-- Field of n bytes at offset o of a structure. -/
def fld (bs : List Byte) (o n : Nat) : Nat := ofBytes ((bs.drop o).take n)

/-- A field of the hypervisor window (R416), or of the blocks that firmware keeps behind it: Graze settings blocks at 0x1000000 + 64·vf (R370), group tables at 0x1010000 + 4096·vf (R351), page-request timeouts at 0x1100000 + 8·vf (R46). -/
def State.hwN (s : State) (o n : Nat) : Nat := readN s.hw o n
def State.setHw (s : State) (o v n : Nat) : State := { s with hw := writeN s.hw o v n }

/-! ## The physical map (R15) -/

/-- Local stacked DRAM. -/
def isLocal (p : Nat) : Bool := p < 0x3000000000
/-- Tier-2. -/
def isTier2 (p : Nat) : Bool := 0x100000000000 ≤ p && p < 0x110000000000
/-- The fabric window. -/
def isFabric (p : Nat) : Bool := 0x8000000000000 ≤ p && p < 0x10000000000000
/-- An address outside every listed range. -/
def isHole (p : Nat) : Bool := !(isLocal p || isTier2 p || isFabric p)
/-- The home die of a tracked address (R78). -/
def homeDie (p : Nat) : Nat := if isLocal p then p / 0xC00000000 else p / 4096 % 4
/-- The aperture of an address, to compare. -/
def aperture (p : Nat) : Nat := if isLocal p then 1 + p / 0xC00000000 else if isTier2 p then 5 else if isFabric p then 6 + bits p 40 11 else 0

/-- The key of a granule: 64 bytes of memory or 32 bytes of a core's scratchpad array (R79). -/
def granule (sp : Space) (a : Nat) : Nat :=
  match sp with
  | .mem => a / 64
  | .spad c => 2 ^ 46 + 24576 * c + a / 32
/-- The byte of the core's scratchpad array at which a unit's scratchpad begins; allocations are in 4 KiB granules (R67). -/
def UnitR.spad0 (r : UnitR) : Nat := 4096 * r.sbase
/-- Whether a granule lies in scratchpad. -/
def granSpad (g : Nat) : Bool := 2 ^ 46 ≤ g
/-- The die whose tag store holds a granule's records (R79). -/
def granDie (g : Nat) : Nat := if granSpad g then dieOfCore ((g - 2 ^ 46) / 24576) else homeDie (64 * g)
/-- Tracked accesses (R16). -/
def tracked (sp : Space) (a : Nat) : Bool :=
  match sp with
  | .mem => !isFabric a
  | .spad _ => true

/-- A write performed at a home (R116, R396): the scalar caches' copies of the line are invalid, and a line whose 64 bytes are all written loses its poison. -/
def State.homeWrite (s : State) (a : Nat) (bs : List Byte) : State :=
  { s with mem := writeBytes s.mem a bs,
           poison := if a % 64 == 0 && bs.length == 64 then s.poison.filter (· != a / 64) else s.poison,
           present := s.present.filter (fun x => !(a / 64 ≤ x.1 && x.1 < (a + bs.length + 63) / 64)) }

/-- The bytes of a mask written at a home. -/
def State.maskWrite (s : State) (base : Nat) (d : SMap (Option Byte)) : State :=
  { s with mem := d.foldl (fun m x => match x.2 with | some b => writeB m (base + x.1) b | none => m) s.mem,
           poison := if d.length == 64 then s.poison.filter (· != base / 64) else s.poison,
           present := mdel s.present (base / 64) }

/-! ## Frames (R44 to R48) -/

/-- The bytes of a page of a SIZE code (R21). -/
def pageBytes (size : Nat) : Nat := if size = 0 then 2 ^ 12 else if size = 1 then 2 ^ 16 else if size = 2 then 2 ^ 21 else if size = 3 then 2 ^ 30 else 2 ^ 31

/-- The first place of an extent where n bytes fit, aligned to n. -/
def fitIn (x : Nat × Nat) (n : Nat) : Option Nat :=
  let a := (x.1 + n - 1) / n * n
  if a + n ≤ x.1 + x.2 then some a else none

/-- The parts of an extent that are left when n bytes at a are taken from it. -/
def cutExtent (x : Nat × Nat) (a n : Nat) : List (Nat × Nat) :=
  if x.1 ≤ a && a + n ≤ x.1 + x.2 then
    (if a = x.1 then [] else [(x.1, a - x.1)]) ++ (if a + n = x.1 + x.2 then [] else [(a + n, x.1 + x.2 - (a + n))])
  else [x]

/-- An extent given back at its place in the rising order, joined with the extents that it touches, so that a frame which is free as a whole lies in one extent. -/
def addExtent : List (Nat × Nat) → Nat → Nat → List (Nat × Nat)
  | [], a, n => [(a, n)]
  | x :: r, a, n =>
    if a + n < x.1 then (a, n) :: x :: r
    else if a + n = x.1 then (a, n + x.2) :: r
    else if x.1 + x.2 = a then addExtent r x.1 (x.2 + n)
    else x :: addExtent r a n

/-- Whether n bytes at a are free in the package reserve. -/
def inReserve (r : List (Nat × Nat)) (a n : Nat) : Bool := r.any (fun x => x.1 ≤ a && a + n ≤ x.1 + x.2)
def takeReserve (r : List (Nat × Nat)) (a n : Nat) : List (Nat × Nat) := r.flatMap (fun x => cutExtent x a n)

/-- A frame of n bytes of an aperture from the reserve: the lowest that fits (log 12). -/
def pickReserve (r : List (Nat × Nat)) (tier2 : Bool) (n : Nat) : Option Nat :=
  (r.filter (fun x => isTier2 x.1 == tier2)).findSome? (fun x => fitIn x n)

/-- n zero bytes at a (R36). -/
def State.zeroFill (s : State) (a n : Nat) : State :=
  { s with mem := s.mem.filter (fun x => !(a ≤ x.1 && x.1 < a + n)), poison := s.poison.filter (fun l => !(a / 64 ≤ l && l < (a + n) / 64)) }

/-- The records of a frame's granules purged (R36). -/
def State.purgeFrame (s : State) (a n : Nat) : State :=
  { s with recs := s.recs.filter (fun x => !(a / 64 ≤ x.1 && x.1 < (a + n) / 64)) }

/-- A frame zeroed, without records, given to a pool or to the reserve (R36, R45). -/
def State.toPool (s : State) (v a size : Nat) : State :=
  let s := (s.zeroFill a (pageBytes size)).purgeFrame a (pageBytes size)
  s.modVf v (fun f => { f with pool := f.pool ++ [(a, size)] })
def State.toReserve (s : State) (a size : Nat) : State :=
  let s := (s.zeroFill a (pageBytes size)).purgeFrame a (pageBytes size)
  { s with reserve := addExtent s.reserve a (pageBytes size) }

/-- A pool's frame of a size in an aperture, the oldest (R40; log 12). -/
def VFn.poolFrame (f : VFn) (tier2 : Bool) (size : Nat) : Option Nat :=
  (f.pool.find? (fun x => x.2 == size && isTier2 x.1 == tier2)).map (·.1)
def VFn.poolTake (f : VFn) (a : Nat) : VFn := { f with pool := f.pool.filter (fun x => x.1 != a) }

/-! ## Translation tables (R19 to R22) -/

/-- The 57 significant bits (R13). -/
def v57 (va : Nat) : Nat := va % 2 ^ 57
/-- The index of a level. -/
def vIndex (va lvl : Nat) : Nat := bits va (12 + 9 * lvl) 9
/-- Bits of a table entry. -/
def eV (e : Nat) : Bool := e.testBit 0
def eLeaf (e : Nat) : Bool := e.testBit 1
def eNext (e : Nat) : Nat := bits e 12 40 * 4096
def eSize (e : Nat) : Nat := bits e 9 3

/-- Whether a leaf at a level is well formed on its own (R22); the reserved ATTR code 0b11 counts as a reserved bit that is not 0 (DEDUCED, log 98). -/
def leafOk (lvl e : Nat) : Bool :=
  let n := pageBytes (eSize e)
  eSize e ≤ 4 && bits e 2 5 == 0 && bits e 58 1 == 0 && bits e 7 2 != 3
  && ((lvl == 0 && eSize e ≤ 1) || (lvl == 1 && eSize e == 2) || (lvl == 2 && 3 ≤ eSize e))
  && eNext e % (if eSize e = 4 then 2 ^ 30 else n) == 0 && aperture (eNext e) != 0
  && aperture (eNext e) == aperture (eNext e + (if eSize e = 4 then 2 ^ 30 else n) - 1)

/-- The first entry of the group that a 64 KiB page or a 2 GiB span forms, and whether the whole group agrees (R22). -/
def groupOk (m : List Host.Cell) (table i e : Nat) : Bool :=
  if eSize e = 1 then
    let b := i / 16 * 16
    (List.range 16).all (fun k => readN m (table + 8 * (b + k)) 8 == e)
  else if eSize e = 4 then
    let a := readN m (table + 8 * (i / 2 * 2)) 8
    let b := readN m (table + 8 * (i / 2 * 2 + 1)) 8
    eNext a % 2 ^ 31 == 0 && b == a + 2 ^ 30
  else true

/-- The page that a leaf maps, for a virtual address. -/
def leafPage (m : List Host.Cell) (vf va table i e : Nat) : Page :=
  let n := pageBytes (eSize e)
  let f := if eSize e = 4 then eNext (readN m (table + 8 * (i / 2 * 2)) 8) else eNext e
  ⟨vf, va % 2 ^ 57 / n * n, n, f, e.testBit 62, e.testBit 61, e.testBit 63, bits e 7 2⟩

/-- A walk from a level down (R19): the page, or a miss. -/
def walkFrom (m : List Host.Cell) (vf va : Nat) : Nat → Nat → Option Page
  | 0, table =>
    let i := vIndex va 0
    let e := readN m (table + 8 * i) 8
    if eV e && eLeaf e && leafOk 0 e && groupOk m table i e then some (leafPage m vf va table i e) else none
  | lvl + 1, table =>
    let i := vIndex va (lvl + 1)
    let e := readN m (table + 8 * i) 8
    if !eV e then none
    else if eLeaf e then
      if leafOk (lvl + 1) e && groupOk m table i e then some (leafPage m vf va table i e) else none
    else walkFrom m vf va lvl (eNext e)

/-- A walk of a function's tree; a root of 0 means that no table exists yet. -/
def State.walk (s : State) (v va : Nat) : Option Page :=
  if (s.vf v).root = 0 then none else walkFrom s.mem v va 4 (s.vf v).root

/-- The walk-cache entry of a core with the lowest level whose table covers an address (R25): the level and the table. -/
def Core.cachedTable (x : Core) (v va : Nat) : Option (Nat × Nat) :=
  (([0, 1, 2, 3] : List Nat).findSome? (fun lvl => (x.wcache.find? (fun e => e.1 == v && e.2.1 == lvl && e.2.2.1 == va % 2 ^ 57 / 2 ^ (21 + 9 * lvl))).map (fun e => (lvl, e.2.2.2))))

/-- The non-leaf entries that a walk passes, for the walk cache: function, level and place of the table, the table. -/
def tablesFrom (m : List Host.Cell) (v va : Nat) : Nat → Nat → List (Nat × Nat × Nat × Nat)
  | 0, _ => []
  | lvl + 1, table =>
    let e := readN m (table + 8 * vIndex va (lvl + 1)) 8
    if eV e && !eLeaf e then (v, lvl, va % 2 ^ 57 / 2 ^ (21 + 9 * lvl), eNext e) :: tablesFrom m v va lvl (eNext e) else []

/-- A walk on a core, from the walk cache where it can (R19, R25). -/
def State.coreWalk (s : State) (c v va : Nat) : Option Page :=
  match (s.core c).cachedTable v va with
  | some (lvl, t) => walkFrom s.mem v va lvl t
  | none => s.walk v va

/-- The walk cache after a walk: 64 entries, the oldest leave (R25; log 16). -/
def State.fillWalk (s : State) (c v va : Nat) : State :=
  let new := if (s.vf v).root = 0 then [] else tablesFrom s.mem v va 4 (s.vf v).root
  s.modCore c (fun x =>
    let t := x.wcache.filter (fun e => !new.contains e) ++ new
    { x with wcache := t.drop (t.length - 64) })

/-- A new table: a zeroed 4 KiB frame of local stacked DRAM from the reserve (R19); where the reserve has none left, which the spec does not provide for, the table is the frame at address 0 of the spill table's die (DESIGN CHOICE, log 99). -/
def State.newTable (s : State) : State × Nat :=
  match pickReserve s.reserve false 4096 with
  | some a => ({ (s.zeroFill a 4096) with reserve := takeReserve s.reserve a 4096 }, a)
  | none => (s, 0)

/-- The table below an entry, made if there is none. -/
def State.below (s : State) (table i : Nat) : State × Nat :=
  let e := readN s.mem (table + 8 * i) 8
  if eV e && !eLeaf e then (s, eNext e)
  else
    let (s, t) := s.newTable
    ({ s with mem := writeN s.mem (table + 8 * i) (t + 1) 8 }, t)

/-- The table of level lvl for a virtual address, made where it does not exist. -/
def State.tableFor (s : State) (v va lvl : Nat) : State × Nat :=
  let (s, r) :=
    if (s.vf v).root = 0 then
      let (s, t) := s.newTable
      (s.modVf v (fun f => { f with root := t }), t)
    else (s, (s.vf v).root)
  (List.range (4 - lvl)).foldl (fun (x : State × Nat) k => State.below x.1 x.2 (vIndex va (4 - k))) (s, r)

/-- The level of a SIZE code's leaf (R19). -/
def sizeLevel (size : Nat) : Nat := if size ≤ 1 then 0 else if size = 2 then 1 else 2

/-- A leaf's bits but for FRAME (R21): PERM has W, X, U, PIN in bits 0 to 3 (R29). -/
def leafBits (vf perm size attr : Nat) (hb : Bool) : Nat :=
  bits perm 1 1 * 2 ^ 63 + bits perm 0 1 * 2 ^ 62 + bits perm 2 1 * 2 ^ 61 + bits perm 3 1 * 2 ^ 60
  + cond hb (2 ^ 59) 0 + vf * 2 ^ 52 + size * 2 ^ 9 + attr * 2 ^ 7 + 3

/-- The walk-cache entries of a function's cores for tables that a new leaf of a SIZE code takes the place of, dropped, so that the mapping is visible without a sweep (R25). -/
def State.dropTables (s : State) (v va size : Nat) : State :=
  (s.vfCores v).foldl (fun (s : State) c => s.modCore c (fun x =>
    { x with wcache := x.wcache.filter (fun e => !(e.1 == v && e.2.1 < sizeLevel size && e.2.2.1 * 2 ^ (21 + 9 * e.2.1) / pageBytes size == v57 va / pageBytes size)) })) s

/-- Firmware writes the leaf of a page (R22, R40). -/
def State.mapPage (s : State) (v va size frame lb : Nat) : State :=
  let (s, t) := State.tableFor s v va (sizeLevel size)
  let i := vIndex va (sizeLevel size)
  let m :=
    if size = 1 then (List.range 16).foldl (fun m k => writeN m (t + 8 * (i / 16 * 16 + k)) (lb + frame) 8) s.mem
    else if size = 4 then writeN (writeN s.mem (t + 8 * (i / 2 * 2)) (lb + frame) 8) (t + 8 * (i / 2 * 2 + 1)) (lb + frame + 2 ^ 30) 8
    else writeN s.mem (t + 8 * i) (lb + frame) 8
  State.modVf (State.dropTables { s with mem := m } v va size) v (fun f => { f with resident := (f.resident.filter (fun (x : Nat × Nat × Nat) => x.1 != va)) ++ [(va, size, frame)] })

/-- Firmware clears the leaf of a page (R28). -/
def State.unmapPage (s : State) (v va size : Nat) : State :=
  let (s, t) := State.tableFor s v va (sizeLevel size)
  let i := vIndex va (sizeLevel size)
  let m :=
    if size = 1 then (List.range 16).foldl (fun m k => writeN m (t + 8 * (i / 16 * 16 + k)) 0 8) s.mem
    else if size = 4 then writeN (writeN s.mem (t + 8 * (i / 2 * 2)) 0 8) (t + 8 * (i / 2 * 2 + 1)) 0 8
    else writeN s.mem (t + 8 * i) 0 8
  State.modVf { s with mem := m } v (fun f => { f with resident := f.resident.filter (fun (x : Nat × Nat × Nat) => x.1 != va) })

/-! ## Looking a page up (R13, R14, R21, R23 to R25, R38) -/

/-- Canonical form (R13). -/
def canonical (va : Nat) : Bool := bits va 56 8 == 0 || bits va 56 8 == 255
/-- The upper half (R14). -/
def upper (va : Nat) : Bool := va.testBit 56

/-- Whether a page holds an address. -/
def Page.has (p : Page) (v va : Nat) : Bool := p.vf == v && p.base ≤ v57 va && v57 va < p.base + p.size && aperture p.frame != 0
/-- Whether a page allows an access at a level (R21). -/
def Page.allows (p : Page) (level : Nat) (k : AccKind) : Bool :=
  (p.u || 1 ≤ level) &&
  match k with
  | .read => true
  | .write => p.w
  | .fetch => p.x
/-- The physical address. -/
def Page.phys (p : Page) (va : Nat) : Nat := p.frame + (v57 va - p.base)

/-- The entry of a fabric window and its kind bit that are in effect (R17, R18): the old ones until the sweep after a change is over. -/
def State.winEntry (s : State) (n : Nat) : Nat := ((mget none s.winOld n).map (·.1)).getD (s.hwN (0x2000 + 16 * n) 16)
def State.winKind (s : State) (n : Nat) : Bool := ((mget none s.winOld n).map (·.2)).getD ((s.hwN (0xA000 + n / 8) 1).testBit (n % 8))
/-- Whether a function may access an offset of a window (R17). -/
def State.winOk (s : State) (v p : Nat) : Bool :=
  let e := s.winEntry (bits p 40 11)
  e.testBit 0 && bits e 1 6 == v && bits p 0 40 < bits e 76 40 * 4096

/-! ## Routes and keys (R408 to R411) -/

/-- The active routing and key bank (R418). -/
def State.bank (s : State) : Nat := s.hwN 0x1408 1 % 2
/-- The route entry of an endpoint (R408). -/
def State.routeOf (s : State) (e : Endpoint) : Nat := s.hwN (0x10000 + 0x20000 * s.bank + 8 * ((if e.host then 8192 else 0) + e.id % 8192)) 8
/-- Key k of a port (R411). -/
def State.keyAt (s : State) (port k : Nat) : Nat := s.hwN (0x50000 + 0x400 * s.bank + 16 * port + 2 * k) 2
/-- Whether a key lets a request pass a port (R411). -/
def State.keyPasses (s : State) (port key : Nat) : Bool :=
  (List.range 8).any (fun k => let x := s.keyAt port k; x % 32768 != 0 && x % 32768 == key % 32768 && (32768 ≤ x || 32768 ≤ key % 65536))

/-- The number that stands for the way inside the package, which crosses no link. -/
def localLink : Nat := 48
/-- Whether an endpoint is this package (R408, R409). -/
def State.isSelf (s : State) (e : Endpoint) : Bool := !e.host && e.id % 8192 == s.hwN 0x1400 8 % 8192
/-- The up links of an endpoint's route. -/
def State.linksTo (s : State) (e : Endpoint) : List Nat :=
  let r := s.routeOf e
  let up := s.hwN 0x1410 8
  if r.testBit 63 then (List.range 48).filter (fun l => r.testBit l && up.testBit l) else []
/-- The outgoing link of a request (R409): none crosses a link to this package itself; on a deterministic route the lowest up link; on an adaptive route that of an unacknowledged request to the same line of the endpoint, else the one with the most free credits, which a free number picks (log 45); none where the entry is invalid or no link of it is up. -/
def State.linkFor (s : State) (e : Endpoint) (remote : Nat) : Option Nat :=
  if s.isSelf e then some localLink
  else
    let ls := s.linksTo e
    if ls.isEmpty then none
    else if !(s.routeOf e).testBit 62 then ls.head?
    else match s.reqs.find? (fun q => q.dst == e && q.fail == 0 && !q.held && q.remote / 64 == remote / 64) with
      | some q => some q.link
      | none => ls[Config.freeNat (2 ^ 235 + s.fresh) % ls.length]?
/-- The host node of a function (R417). -/
def State.hostNode (s : State) (v : Nat) : Endpoint := ⟨true, s.hwN (0x1000 + 8 * v) 8 % 8192⟩
/-- A message sent. -/
def State.post (s : State) (chan key : Nat) (dst : Endpoint) (bs : List Byte) : State := { s with outbox := s.outbox ++ [{ chan := chan, key := key, dst := dst, bytes := bs }] }

/-- The reason for which a request with a key cannot leave over the link that its route gives: 2 no route, 3 no key at the outgoing port, 0 none (R409, R411, R415). -/
def State.linkFail (s : State) (l : Option Nat) (key : Nat) : Nat :=
  match l with
  | none => 2
  | some l => if l == localLink || s.keyPasses l key then 0 else 3

/-- A page request of an entry leaves for its function's host node (R42). Where no link of the route is up, or the outgoing port does not hold its key, the message is discarded and the entry stays until its timeout (R411; DEDUCED, log 111). -/
def State.sendPage (s : State) (v k : Nat) (bs : List Byte) : State :=
  let key := s.hwN (0x1000 + 8 * v + 4) 2
  let l := s.linkFor (s.hostNode v) (2 ^ 60)
  (if s.linkFail l key = 0 then s.post 4 key (s.hostNode v) bs else s).modVf v (fun f =>
    { f with preqs := mset {} f.preqs k { (mget {} f.preqs k) with link := l.getD 0, posted := s.cycle, msg := none } })
/-- Whether a new page request to a host node has to wait after a bank switch: on a deterministic route an earlier one that is not answered, whose entry is live, went another way (R412; DEDUCED, log 141). -/
def State.pageHeld (s : State) (e : Endpoint) : Bool :=
  match s.linkFor e (2 ^ 60) with
  | some l => !(s.routeOf e).testBit 62 && s.vfs.any (fun (x : Nat × VFn) => s.hostNode x.1 == e && x.2.preqs.any (fun (y : Nat × PageReq) => y.2.live && y.2.msg == none && y.2.link != l))
  | none => false
/-- The page requests that wait and may go now leave (R412). -/
def State.unholdPages (s : State) : State :=
  s.vfs.foldl (fun (s : State) (x : Nat × VFn) => x.2.preqs.foldl (fun (s : State) (y : Nat × PageReq) => match y.2.msg with
    | some m => if !y.2.live || s.pageHeld (s.hostNode x.1) then s else s.sendPage x.1 y.1 m
    | none => s) s) s

/-- What translation gives for one lane. -/
inductive XR where
  | ok (p : Nat) (page : Page)
  | access
  | priv
  | miss
  deriving DecidableEq, Repr

/-- One address through the TLB (R24 step 3, R38 step 2). -/
def State.xlate (s : State) (c v level : Nat) (k : AccKind) (va : Nat) : XR :=
  if !canonical va then .access
  else if upper va && level < 3 then .priv
  else
    match (s.core c).tlb.find? (fun p => p.has v va) with
    | some p =>
      if !p.allows level k then .access
      else if isFabric (p.phys va) && !s.winOk v (p.phys va) then .access
      else .ok (p.phys va) p
    | none => .miss

/-- One lane of a vector access: the last-page register first (R23, R24 step 2). -/
def State.xlateLane (s : State) (c : Nat) (w : Wave) (k : AccKind) (l va : Nat) : XR :=
  match mget none w.lpr l with
  | some p =>
    if canonical va && !(upper va && w.level < 3) && p.has w.vf va && p.allows w.level k
        && !(isFabric (p.phys va) && !s.winOk w.vf (p.phys va)) then .ok (p.phys va) p
    else s.xlate c w.vf w.level k va
  | none => s.xlate c w.vf w.level k va

/-- The set of the TLB in which a page is held, one of 512 (R25: 4,096 entries in 8 ways); which, the spec does not say (free value, log 16). -/
def tlbSet (p : Page) : Nat := Config.freeNat (2 ^ 250 + (p.vf * 2 ^ 64 + p.base) * 2 ^ 40 + p.size) % 512

/-- The core TLB after a page has been entered: a set holds 8 pages, and the oldest of a full set leaves (R25; log 16). Fewer than 8 entries in all fill no set. -/
def tlbAdd (t : List Page) (p : Page) : List Page :=
  let t := t.filter (fun q => !(q.vf == p.vf && q.base == p.base && q.size == p.size))
  if t.length < 8 then t ++ [p]
  else
    match t.filter (fun q => tlbSet q == tlbSet p) with
    | q :: r => (if 7 ≤ r.length then t.filter (fun x => x != q) else t) ++ [p]
    | [] => t ++ [p]

/-- A command of a core. -/
def State.cmd (s : State) (c k : Nat) : Option Cmd := mget none (s.core c).cmds k
def State.setCmd (s : State) (c k : Nat) (x : Option Cmd) : State := s.modCore c (fun y => { y with cmds := mset none y.cmds k x })

/-! ## Fabric requests sent (R407, R409, R411, R412) -/

/-- The endpoint of a fabric-window address, its remote address and its key (R17, R18). -/
def State.windowVf (s : State) (p : Nat) : Nat := bits (s.winEntry (bits p 40 11)) 1 6
def State.windowOf (s : State) (p : Nat) : Endpoint × Nat × Nat :=
  let n := bits p 40 11
  let e := s.winEntry n
  (⟨s.winKind n, bits e 7 13⟩, bits e 36 40 * 4096 + bits p 0 40, bits e 20 16)

/-- Whether a new request to an endpoint has to wait after a bank switch: on a deterministic route an earlier request of the channel went another way and is not acknowledged, or waits itself (R412). -/
def State.switchHeld (s : State) (d : Endpoint) (chan remote : Nat) : Bool :=
  match s.linkFor d remote with
  | some l => l != localLink && !(s.routeOf d).testBit 62 && s.reqs.any (fun q => q.dst == d && q.chan == chan && q.fail == 0 && (q.held || q.link != l))
  | none => false
/-- The same of a request of channel 0 to the fabric-window address p. -/
def State.fabHeld (s : State) (p : Nat) : Bool := s.switchHeld (s.windowOf p).1 0 (s.windowOf p).2.1

/-- Every copy of a fabric-window line falls (R116), and no answer that is still to come to a read sent before may be kept as a copy (R122). -/
def State.dropCopies (s : State) (line : Nat) : State :=
  let s := ([0, 1, 2, 3] : List Nat).foldl (fun (s : State) d => s.modDie d (fun x => { x with fcache := mset none x.fcache line none, fbad := x.fbad.filter (· != line) })) s
  { s with cores := s.cores.map (fun x => (x.1, { x.2 with scache := mset none x.2.scache line none })),
           reqs := s.reqs.map (fun q => if q.line / 64 == line then { q with cached := false } else q) }

/-- The channel of a request (R407): collective transfers have their own. -/
def State.chanOf (s : State) (use : FabUse) : Nat :=
  match use with
  | .cmd c k => if (s.cmd c k).any (fun x => x.kind == .coll) then 2 else 0
  | _ => 0

/-- The counter banks of R401: function v, die, kind, k. -/
def bankKey (die kind k : Nat) : Nat := 64 * die + 8 * kind + k
def State.bump (s : State) (v die kind k n : Nat) : State :=
  s.modVf v (fun f => { f with banks := mset 0 f.banks (bankKey die kind k) ((mget 0 f.banks (bankKey die kind k) + n) % 2 ^ 64) })

/-- The bytes of a size of memory operand (R232). -/
def mszBytes : MSz → Nat
  | .b1 => 1 | .b2 => 2 | .b4 => 4 | .b8 => 8

/-- The function whose agent sends a request. -/
def State.askerVf (s : State) (id : Nat) (use : FabUse) (line : Nat) : Nat :=
  match use with
  | .cmd c k => ((s.cmd c k).map (·.vf)).getD (s.wave id).vf
  | _ => if id = 16384 then s.windowVf line else (s.wave id).vf

/-- The data bytes that a request carries. -/
def FabOut.dataBytes (q : FabOut) : Nat :=
  q.write.length + (match q.op with
    | some (.write bs) => bs.length
    | some (.atomic _ z _) => mszBytes z
    | some (.cas z _ _) => 2 * mszBytes z
    | some (.atomics _ z xs) => xs.length * mszBytes z
    | some (.swaps z xs) => 2 * xs.length * mszBytes z
    | some (.read _) => 0
    | none => 0)

/-- The data bytes of a request that leaves by a fabric port of the sender's die count in its function's bank (R401; log 121). -/
def State.countSent (s : State) (q : FabOut) : State :=
  if q.held || q.fail != 0 || q.link == localLink then s else s.bump (s.askerVf q.ident q.use q.line) (s.dieOf q.ident) 4 0 q.dataBytes

/-- A request sent, failed at its start for want of a route or of a key (R409, R411, R415), or held after a bank switch (R412). A write takes the copies of its line with it, so that a later load of the agent does not miss it (R122). -/
def State.fabSendOp (s : State) (id : Nat) (use : FabUse) (p va : Nat) (cached : Bool) (write : List (Nat × Byte)) (op : Option FabOp) : State :=
  let (d, remote, key) := s.windowOf p
  let chan := s.chanOf use
  let held := s.switchHeld d chan remote
  let l := s.linkFor d remote
  let s' := if write.isEmpty && op.isNone then s else s.dropCopies (p / 64)
  let q : FabOut := { id := s.fresh, link := l.getD 0, chan := chan, dst := d, ident := id, use := use, line := p, va := va, remote := remote, cached := cached, write := write, posted := s.cycle, fail := if held then 0 else s.linkFail l key, held := held, op := op }
  State.countSent { (s'.tick) with reqs := s'.reqs ++ [q] } q
/-- The runs of adjacent bytes of a masked line. -/
def byteRuns : List (Nat × Byte) → List (List (Nat × Byte))
  | [] => []
  | x :: r => match byteRuns r with
    | (y :: ys) :: rs => if x.1 + 1 = y.1 then (x :: y :: ys) :: rs else [x] :: (y :: ys) :: rs
    | rs => [x] :: rs
/-- A read of a line, or its write: each run of adjacent bytes is a request of its own (DESIGN CHOICE, log 127). -/
def State.fabSend (s : State) (id : Nat) (use : FabUse) (p va : Nat) (cached : Bool) (write : List (Nat × Byte)) : State :=
  if write.isEmpty then s.fabSendOp id use p va cached [] none
  else (byteRuns write).foldl (fun (s : State) w => s.fabSendOp id use p va cached w none) s

end Sys2Proof.Machine
end

