-- ==== Sys2Proof/Machine/Order.lean ====
section
/-! DEFINITION. Intervals, slot status entries, race records, claims and verdicts (R89 to R96, R109), the store stages and the value of a load (R97 to R106), publication (R104, R115). -/

namespace Sys2Proof.Machine

/-! ## Slot status entries (R91) -/

/-- The copy of an identity's entry on a die. -/
def State.entry (s : State) (d y : Nat) : SlotStatus := mget {} s.ids (y + 16384 * d)
def State.setEntry (s : State) (d y : Nat) (e : SlotStatus) : State := { s with ids := mset {} s.ids (y + 16384 * d) e }
/-- The entry on the identity's own die. -/
def State.own (s : State) (y : Nat) : SlotStatus := s.entry (s.dieOf y) y
/-- The current interval of an identity (R90). -/
def State.interval (s : State) (y : Nat) : Nat := (s.own y).cur

/-- The mark of a scope: .u, .d, .k and .f as 2 to 5 (R79, R92). -/
def SlotStatus.mark (e : SlotStatus) (sc : Nat) : Nat :=
  if sc = 2 then e.pubu else if sc = 3 then e.pubd else if sc = 4 then e.pubk else e.pubf
/-- The widest scope at which an interval is published, coded as PUB of R79. -/
def SlotStatus.widest (e : SlotStatus) (i : Nat) : Nat :=
  if i < e.pubf then 5 else if i < e.pubk then 4 else if i < e.pubd then 3 else if i < e.pubu then 2 else 0
/-- Publication of everything below m at every scope from .u up to sc (R91). -/
def SlotStatus.publish (e : SlotStatus) (sc m : Nat) : SlotStatus :=
  { e with pubu := if 2 ≤ sc then m else e.pubu, pubd := if 3 ≤ sc then m else e.pubd,
           pubk := if 4 ≤ sc then m else e.pubk, pubf := if 5 ≤ sc then m else e.pubf }
/-- A mark raised to at least m at a scope (R109, R119). -/
def SlotStatus.raise (e : SlotStatus) (sc m : Nat) : SlotStatus :=
  if sc = 3 then { e with pubd := max e.pubd m } else if sc = 4 then { e with pubk := max e.pubk m } else if sc = 5 then { e with pubf := max e.pubf m } else e

/-- The codes of scopes (R79, R234): .w 1, .u 2, .d 3, .k 4, .f 5. -/
def scNum : Scope → Nat
  | .w => 1 | .u => 2 | .d => 3 | .k => 4 | .f => 5

/-! ## Classes of records (R92) -/

inductive RClass where
  | opened | closed | published
  deriving DecidableEq, Repr

/-- The identity that a record stands for on a die: records follow a moved wave. -/
def State.resolve (s : State) (d : Nat) (r : Rec) : Nat :=
  let e := s.entry d r.slot
  if e.fv && e.flo ≤ r.interval && r.interval ≤ e.fhi then e.fwd else r.slot

/-- Whether two identities are waves of one resident unit; a wave that has exited still counts while its unit holds its slot (R107, R181; DEDUCED, log 96). -/
def State.sameUnit (s : State) (x y : Nat) : Bool :=
  s.units.any (fun (u : Nat × Option UnitR) => match u.2 with | some r => r.slots.contains x && r.slots.contains y | none => false)

/-- NarrowestCommonScope of an accessor and an identity. -/
def State.commonScope (s : State) (x y : Nat) : Nat :=
  if s.sameUnit x y then 2 else if s.dieOf x == s.dieOf y then 3 else 4

/-- The class of a record as seen by an accessor; none is an accessor outside the package, whose scope is .f (R120). -/
def State.classify (s : State) (d : Nat) (r : Rec) (x : Option Nat) : RClass :=
  let y := s.resolve d r
  let e := s.entry d y
  if e.v && r.interval == e.cur then .opened
  else if r.interval < e.mark (match x with | some x => s.commonScope x y | none => 5) then .published
  else .closed

/-- The race that a claim draws (R94), the writer record first. -/
def State.judge (s : State) (c : Claim) : Option Race :=
  let d := granDie c.gran
  let p := mget {} s.recs c.gran
  let mk := fun (r : Rec) (k : Nat) => some ⟨r.slot, r.interval, (s.entry d (s.resolve d r)).widest r.interval, k⟩
  let wr : Option Race := match p.wr with
    | some r => if s.resolve d r != c.ident && s.classify d r (some c.ident) != .published then mk r (if c.kind == .read then 0 else 1) else none
    | none => none
  match wr with
  | some x => some x
  | none => match p.rd with
    | some r => if c.kind != .read && s.resolve d r != c.ident && s.classify d r (some c.ident) == .opened then mk r 2 else none
    | none => none

/-- The records after a claim with a clear verdict (R93): one on which no access can trap, a writer record below PUBF or a reader record of a closed interval, is free as soon as it stands (R79). -/
def State.record (s : State) (c : Claim) : State :=
  let p := mget {} s.recs c.gran
  let e := s.entry (granDie c.gran) c.ident
  let r : Rec := { slot := c.ident, interval := c.interval }
  let wr := if c.interval < e.pubf then none else some r
  let rd := if e.v && c.interval == e.cur then some r else none
  let p := match c.kind with
    | .read => { p with rd := rd }
    | .write => { p with wr := wr }
    | .atomic => { wr := wr, rd := rd }
  { s with recs := mset {} s.recs c.gran p }

/-- The granules of a granule's die that have records. -/
def State.tracks (s : State) (g : Nat) : Nat := (s.recs.filter (fun x => granDie x.1 == granDie g)).length

/-- Whether a claim finds room for its record (R79, R80): the tag store and the spill table of its die together. -/
def State.room (s : State) (g : Nat) : Bool := mget {} s.recs g != ({} : RecPair) || s.tracks g < 4194304 + 67108864

/-- Whether the records of a granule that has none yet go to the spill table (R79): the tag store holds as many as it can. -/
def State.spills (s : State) (g : Nat) : Bool := mget {} s.recs g == ({} : RecPair) && 4194304 ≤ s.tracks g

/-- The counters of each kind of shared unit (R401). -/
def bankCount (kind : Nat) : Nat := ([3, 4, 3, 3, 3, 2] : List Nat).getD kind 0
/-- Whether the model counts a counter's events one by one: claims, race verdicts, records spilled, stalls for space, poisoned tier-2 lines, bytes sent and received, refusals received and page faults handled. What the others count is the traffic of caches and vaults, refresh and idle work, which is timing. -/
def bankExact (kind k : Nat) : Bool := kind == 1 || (kind == 3 && k == 2) || kind == 4 || (kind == 5 && k == 0)
/-- What a counter whose events the model does not see has gained since the function's counters were last gathered: a free number of events, at most 65,536 a cycle (log 121). -/
def State.gained (s : State) (v key : Nat) : Nat :=
  Config.freeNat (2 ^ 244 + 2 ^ 10 * s.fresh + key) % (1 + 2 ^ 16 * (s.cycle - (s.vf v).bankAt))
/-- A counter of a function as it reads (R401). -/
def State.bankRead (s : State) (v die kind k : Nat) : Option Nat :=
  let key := bankKey die kind k
  if bankCount kind ≤ k then none
  else some ((mget 0 (s.vf v).banks key + (if bankExact kind k then 0 else s.gained v key)) % 2 ^ 64)
/-- A function's counters gathered, so that a later reading starts from what an earlier one gave. -/
def State.gather (s : State) (v : Nat) : State :=
  let keys := (List.range 256).filter (fun j => j % 64 / 8 < 6 && j % 8 < bankCount (j % 64 / 8) && !bankExact (j % 64 / 8) (j % 8))
  s.tick.modVf v (fun f => { f with bankAt := s.cycle, banks := keys.foldl (fun m j => mset 0 m j ((mget 0 m j + s.gained v j) % 2 ^ 64)) f.banks })

/-- The place of a function's Graze settings block in the machine's own store (R370). -/
def gBase (v : Nat) : Nat := 0x1000000 + 64 * v
/-- The pages by which the blocks are read: one of 4 KiB for each function, zero behind the block (R370; log 120). -/
def grazePages : Nat := 0x2FFFC00000
def State.grazeByte (s : State) (o : Nat) : Byte := if o % 4096 < 64 then readB s.hw (gBase (o / 4096) + o % 4096) else 0

/-- A record as the home finds it, with its cached PUB (R79). -/
def State.found (s : State) (d : Nat) (r : Rec) : Rec := { r with pub := (s.entry d (s.resolve d r)).widest r.interval }

/-- A record as its 64 bits (R79). -/
def Rec.bits64 (r : Rec) : Nat := 2 ^ 36 + r.pub % 8 * 2 ^ 33 + r.slot % 16384 * 2 ^ 19 + r.interval % 65536

/-- The records of a granule found by the home. -/
def State.findRecs (s : State) (g : Nat) : State :=
  let p := mget {} s.recs g
  { s with recs := mset {} s.recs g ⟨p.wr.map (s.found (granDie g)), p.rd.map (s.found (granDie g))⟩ }

/-- A claim evaluated at its home (R93 to R95). -/
def State.evaluate (s : State) (c : Claim) : State × Option Race :=
  let d := granDie c.gran
  let s := s.findRecs c.gran
  let s := s.bump (s.wave c.ident).vf d 1 0 1
  match s.judge c with
  | some r => (s.bump (s.wave c.ident).vf d 1 1 1, some r)
  | none => ((if s.spills c.gran then s.bump (s.wave c.ident).vf d 1 2 1 else s).record c, none)

/-! ## Status changes -/

/-- Records of an identity on a die, those forwarded to it among them, that no access can trap on are freed: a writer record that is PUBLISHED at .f, a reader record that is not OPEN (R79, R109). -/
def State.freeRecs (s : State) (d y : Nat) : State :=
  let e := s.entry d y
  let mine := fun (r : Rec) => s.resolve d r == y
  { s with recs := s.recs.foldl (fun m x =>
      if granDie x.1 == d then
        let wr := match x.2.wr with | some r => if mine r && r.interval < e.pubf then none else some r | none => none
        let rd := match x.2.rd with | some r => if mine r && !(e.v && r.interval == e.cur) then none else some r | none => none
        mset {} m x.1 ⟨wr, rd⟩
      else m) s.recs }

/-- A change of an identity's entry: at once on its own die, on its way to the other dies whose memory the wave has claimed (R91). -/
def State.sendStatus (s : State) (y : Nat) (e : SlotStatus) : State :=
  let d := s.dieOf y
  let s' := (s.setEntry d y e).freeRecs d y
  { s' with changes := s'.changes ++ ((s.wave y).dies.filter (· != d)).map (fun k => ⟨y, k, e⟩) }

/-- A change of an identity's entry sent to every die. -/
def State.sendAll (s : State) (y : Nat) (e : SlotStatus) : State :=
  let d := s.dieOf y
  let s' := (s.setEntry d y e).freeRecs d y
  { s' with changes := s'.changes ++ (([0, 1, 2, 3] : List Nat).filter (· != d)).map (fun k => ⟨y, k, e⟩) }

/-- An entry set on every die at once (R109, R111): an older change of the identity that is still on its way has been overtaken. -/
def State.setAll (s : State) (y : Nat) (e : SlotStatus) : State :=
  (List.range 4).foldl (fun s d => (s.setEntry d y e).freeRecs d y) { s with changes := s.changes.filter (·.ident != y) }

/-- A mark raised on every die, in each die's entry and in the changes of the identity that are on their way, which stay (R91, R119). -/
def State.raiseAll (s : State) (y sc m : Nat) : State :=
  (List.range 4).foldl (fun (s : State) d => (s.setEntry d y ((s.entry d y).raise sc m)).freeRecs d y)
    { s with changes := s.changes.map (fun c => if c.ident == y then { c with entry := c.entry.raise sc m } else c) }

/-- A claim sent to its home (R93); the first claim on a die brings the entry there (R91). -/
def State.sendClaim (s : State) (c : Claim) : State :=
  let d := granDie c.gran
  let w := s.wave c.ident
  let s := if w.dies.contains d then s
    else ((s.setEntry d c.ident (s.own c.ident))).setWave c.ident { w with dies := nsAdd w.dies d }
  { s with claims := s.claims ++ [c] }

/-- Claims of an identity under way, or verdicts of them. -/
def State.unverified (s : State) (y : Nat) : Bool := s.claims.any (·.ident == y) || s.verdicts.any (·.claim.ident == y)

/-- Claims that are evaluated at once, as serial mode waits for its verdicts before the next instruction (R95, R96): the races drawn, in granule order. -/
def State.claimNow (s : State) (cs : List Claim) : State × List (Claim × Race) :=
  cs.foldl (fun (x : State × List (Claim × Race)) c =>
    let s := State.sendClaim x.1 c
    let s := { s with claims := s.claims.dropLast }
    match s.evaluate c with
    | (s, some r) => (s, x.2 ++ [(c, r)])
    | (s, none) => (s, x.2)) (s, [])

/-- The detail word of MMRACE (R96). -/
def raceDetail (r : Race) (spad replay : Bool) : W64 :=
  BitVec.ofNat 64 (r.oslot * 2 ^ 50 + r.oint % 65536 * 2 ^ 34 + r.opub * 2 ^ 31 + r.kind * 2 ^ 29 + cond spad 4 0 + cond replay 2 0)

/-- MMRACE of the races that one instruction drew (R96). -/
def raceTrap (xs : List (Claim × Race)) (replay : Bool) : Trap :=
  match xs with
  | [] => { cause := 8 }
  | x :: r =>
    let low := r.foldl (fun (a : Claim × Race) b => if b.1.addr.toNat < a.1.addr.toNat then b else a) x
    { cause := 8, lanes := (x :: r).foldl (fun m y => m ||| y.1.lanes) 0,
      detail := raceDetail low.2 (granSpad low.1.gran) replay,
      addr := if granSpad low.1.gran then BitVec.ofNat 64 (low.1.addr.toNat / 32 * 32) else BitVec.ofNat 64 (low.1.addr.toNat / 64 * 64) }

/-! ## Stores and loads (R97 to R106) -/

/-- The unit whose store buffer an identity shares; a control core has none (R108). -/
def State.bufferOf (s : State) (id : Nat) : Nat := if isCtl id then 4096 else (s.wave id).unit

/-- A byte of a store-stage entry. -/
def SBEntry.byte (e : SBEntry) (sp : Space) (a : Nat) : Option Byte :=
  if e.sp == sp && e.base ≤ a && a < e.base + 64 then mget none e.data (a - e.base) else none

/-- The latest entry of a list that gives a byte. -/
def lastByte (es : List SBEntry) (sp : Space) (a : Nat) : Option Byte :=
  es.foldl (fun r e => match e.byte sp a with | some b => some b | none => r) none

/-- The unit of an identity; control cores have none. -/
def State.unitOf (s : State) (id : Nat) : Option UnitR := if isCtl id then none else s.unit (s.wave id).unit

/-- A byte that the wave's own stores give, in stage 1 or in its entries of stage 2 (R98). -/
def State.ownByte (s : State) (id : Nat) (sp : Space) (a : Nat) : Option Byte :=
  match lastByte (s.wave id).stage1 sp a with
  | some b => some b
  | none => match s.unitOf id with
    | some u => lastByte (u.sb.filter (·.ident == id)) sp a
    | none => none

/-- A byte at its home (R105 step 3). -/
def State.homeByte (s : State) (sp : Space) (a : Nat) : Byte :=
  match sp with
  | .mem => readB s.mem a
  | .spad c => mget 0 (s.core c).spad a

/-- A byte at its home as an access reads it: the page of a Graze block is read from the block (R370). -/
def State.atHome (s : State) (sp : Space) (a : Nat) : Byte :=
  if sp == .mem && grazePages ≤ a && a < grazePages + 0x40000 then s.grazeByte (a - grazePages) else s.homeByte sp a

/-- A byte of a load (R105): what the wave's own stores gave when it issued, else the newest entry published at .u by another wave of the unit, else the home. -/
def State.loadByte (s : State) (id : Nat) (own : Option Byte) (sp : Space) (a : Nat) : Byte :=
  match own with
  | some b => b
  | none =>
    let p := match s.unitOf id with
      | some u => lastByte (u.sb.filter (fun e => e.pub && e.ident != id)) sp a
      | none => none
    match p with
    | some b => b
    | none => s.atHome sp a

/-- n bytes of a load. -/
def State.loadN (s : State) (id : Nat) (own : SMap (Option Byte)) (sp : Space) (a n : Nat) : Nat :=
  ofBytes ((List.range n).map (fun i => s.loadByte id (mget none own i) sp (a + i)))

/-- The bytes of an access that the wave's own stores give. -/
def State.ownBytes (s : State) (id : Nat) (sp : Space) (a n : Nat) : SMap (Option Byte) :=
  (List.range n).foldl (fun m i => mset none m i (s.ownByte id sp (a + i))) []

/-- Whether a load of n bytes meets a poisoned line or word that its own stores do not cover (R396). -/
def State.poisoned (s : State) (sp : Space) (a n : Nat) : Bool :=
  match sp with
  | .mem => s.poison.contains (a / 64)
  | .spad c => (List.range n).any (fun i => mget false (s.core c).spPoison ((a + i) / 4))

/-- The base of the entry that holds an address: a line or a granule (R97). -/
def entryBase (sp : Space) (a : Nat) : Nat :=
  match sp with
  | .mem => a / 64 * 64
  | .spad _ => a / 32 * 32

/-- Bytes laid over a mask. -/
def layBytes (m : SMap (Option Byte)) (off : Nat) : List Byte → SMap (Option Byte)
  | [] => m
  | b :: bs => layBytes (mput m off (some b)) (off + 1) bs

/-- The masks of two entries, the second over the first. -/
def overlay (a b : SMap (Option Byte)) : SMap (Option Byte) := b.foldl (fun m x => mput m x.1 x.2) a

/-- A mask without the bytes of another. -/
def without (a b : SMap (Option Byte)) : SMap (Option Byte) := a.filter (fun x => mget none b x.1 == none)

/-- Stage 1 after a store of some bytes (R97). -/
def stage1Add (es : List SBEntry) (id : Nat) (sp : Space) (a va : Nat) (bs : List Byte) : List SBEntry :=
  let base := entryBase sp a
  if es.any (fun e => e.sp == sp && e.base == base) then
    es.map (fun e => if e.sp == sp && e.base == base then { e with data := layBytes e.data (a - base) bs } else e)
  else es ++ [{ sp := sp, base := base, data := layBytes [] (a - base) bs, ident := id, pub := false, va := va - (a - base) }]

/-- Published entries of a unit's buffer lose the bytes that another wave publishes later or that a home performs later, so that R88 holds of R105's second source (log 17). -/
def unshadow (es : List SBEntry) (keep : Option Nat) (base : Nat) (d : SMap (Option Byte)) : List SBEntry :=
  (es.map (fun e => if e.pub && e.base == base && some e.ident != keep then { e with data := without e.data d } else e)).filter (fun e => !e.data.isEmpty)

/-- An entry moved into stage 2 (R100, R102): merged with the wave's unpublished entry of the line, or a new entry, or written through with the non-restartable flag set when the buffer is full; a fabric-window line is then sent, and leaves the buffer with that. -/
def State.stage2 (s : State) (u : Nat) (e : SBEntry) : State :=
  match e.sp with
  | .spad c => s.modCore c (fun x =>
      { x with spad := e.data.foldl (fun m b => match b.2 with | some v => mset 0 m (e.base + b.1) v | none => m) x.spad,
               spPoison := (List.range 8).foldl (fun m k => if (List.range 4).all (fun i => mget none e.data (4 * k + i) != none) then mset false m (e.base / 4 + k) false else m) x.spPoison })
  | .mem =>
    match s.unit u with
    | none => s
    | some r =>
      if r.sb.any (fun x => x.ident == e.ident && x.base == e.base && !x.pub) then
        s.setUnit u (some { r with sb := r.sb.map (fun x => if x.ident == e.ident && x.base == e.base && !x.pub then { x with data := overlay x.data e.data } else x) })
      else if r.sb.length < 1024 then s.setUnit u (some { r with sb := r.sb ++ [e] })
      else if isFabric e.base then State.setUnit { s with drains := s.drains ++ [⟨e.ident, u, e.base⟩] } u (some { r with nrst := true, sb := r.sb ++ [e] })
      else
        let s := s.maskWrite e.base e.data
        s.setUnit u (some { r with nrst := true, athome := r.athome.insert ((s.wave e.ident).widx, e.base / 64), sb := unshadow r.sb none e.base e.data })

/-- The free numbers of a step that picks among things whose order is not fixed (R102, R346; log 89, log 91). -/
def orderFree (n i : Nat) : Nat := Config.freeNat (2 ^ 231 + 2 ^ 64 * n + i)

/-- k of m things, in their order; free numbers pick them. -/
def pickSome {α : Type} (n : Nat) : Nat → Nat → List α → List α
  | _, _, [] => []
  | 0, _, _ :: _ => []
  | k + 1, m, a :: r => if orderFree n (m + 3) % m ≤ k then a :: pickSome n k (m - 1) r else pickSome n (k + 1) (m - 1) r

/-- The entries of stage 1 in the order in which they move to stage 2. Where the unit store buffer has too few free entries, free numbers pick those that get one; the others are the excess (R102; log 89). -/
def UnitR.moveOrder (r : UnitR) (n : Nat) (es : List SBEntry) : List SBEntry :=
  let needs := fun (e : SBEntry) => e.sp == .mem && !r.sb.any (fun x => x.ident == e.ident && x.base == e.base && !x.pub)
  let new := es.filter needs
  if r.sb.length + new.length ≤ 1024 then es
  else
    let got := pickSome n (1024 - r.sb.length) new.length new
    es.filter (fun e => !needs e) ++ got ++ new.filter (fun e => !got.contains e)

/-- Stage 1 moved to stage 2 (R100, R181). -/
def State.commitStage1 (s : State) (id : Nat) : State :=
  let w := s.wave id
  let es := match s.unit w.unit with | some r => r.moveOrder s.fresh w.stage1 | none => w.stage1
  es.foldl (fun s e => s.stage2 w.unit e) (State.setWave (if es == w.stage1 then s else s.tick) id { w with stage1 := [] })

/-- A wave's entries published at .u (R104): each line's unpublished entry merges into its published one and becomes the newest (R102, R105). -/
def publishU (es : List SBEntry) (id : Nat) : List SBEntry :=
  (es.filter (fun e => e.ident == id && !e.pub)).foldl (fun es e =>
    let old := ((es.find? (fun x => x.ident == id && x.base == e.base && x.pub)).map (·.data)).getD []
    let rest := es.filter (fun x => !(x.ident == id && x.base == e.base))
    unshadow rest (some id) e.base e.data ++ [{ e with data := overlay old e.data, pub := true }]) es

/-- The lines of an identity that a release drains: of a unit store buffer, or of a control store buffer (R108, R115). -/
def State.drainLines (s : State) (id : Nat) : List Nat :=
  if isCtl id then (s.wave id).stage1.map (·.base)
  else match s.unitOf id with
    | some u => (u.sb.filter (fun e => e.ident == id && e.sp == .mem)).map (·.base)
    | none => []

/-- One line of an identity written at its home and removed from its buffer (R115 step 3, R116); a fabric-window line is sent instead (R115), which FABRIC_ACKNOWLEDGE ends. -/
def State.takeLine (s : State) (id unit base : Nat) : State × List SBEntry :=
  if isCtl id then
    let w := s.wave id
    (s.setWave id { w with stage1 := w.stage1.filter (fun e => e.base != base) }, w.stage1.filter (fun e => e.base == base))
  else match s.unit unit with
    | some u => (s.setUnit unit (some { u with sb := u.sb.filter (fun e => !(e.ident == id && e.base == base)) }), u.sb.filter (fun e => e.ident == id && e.base == base))
    | none => (s, [])

/-- Entries performed at home, with what they hide (log 17). -/
def State.performLine (s : State) (unit : Nat) (es : List SBEntry) : State :=
  es.foldl (fun s e => (s.maskWrite e.base e.data).modUnit unit (fun u => { u with sb := unshadow u.sb (some e.ident) e.base e.data })) s

/-- Whether a line of an identity is on its way to its endpoint (R128). -/
def State.lineOut (s : State) (id b : Nat) : Bool := s.drains.any (fun d => d.ident == id && d.base == b) || s.reqs.any (fun q => q.ident == id && q.use == .drain && q.line == b && q.fail == 0)

/-- The wave's own entries that overlap a range go home and stay unpublished (R128, R259, R320); those of a fabric window are sent, which takes until they are acknowledged. -/
def State.drainRange (s : State) (id lo hi : Nat) : State :=
  let u := s.bufferOf id
  ((s.drainLines id).filter (fun b => lo < b + 64 && b < hi)).foldl (fun s b =>
    if isFabric b then (if s.lineOut id b then s else { s with drains := s.drains ++ [⟨id, u, b⟩] })
    else
      let (s, es) := s.takeLine id u b
      (s.performLine u es).modUnit u (fun r => { r with athome := r.athome.insert ((s.wave id).widx, b / 64) })) s

/-! ## Releases and acquires (R104, R115, R117) -/

/-- Drains and acknowledgements of an identity under way, fabric requests among them. -/
def State.draining (s : State) (id : Nat) : Bool :=
  s.drains.any (·.ident == id) || s.acks.any (·.ident == id) || s.reqs.any (·.ident == id)

/-- What has to be over before a release begins (R104, R115 steps 1 and 2, R125). -/
def State.releaseReady (s : State) (id : Nat) : Bool :=
  let w := s.wave id
  !s.unverified id && w.cpc == 0 && w.ttc == 0 && !s.draining id

/-- The scope of a release: a wrapping one is at .f (R109). -/
def State.relScope (s : State) (id sc : Nat) : Nat := if s.interval id == 0xFFFF then 5 else sc

/-- The release begins: entries are published at .u and, wider, set to drain (R104, R115). -/
def State.releaseBegin (s : State) (id sc : Nat) : State :=
  let w := s.wave id
  let s := if 2 ≤ sc && !isCtl id then s.modUnit w.unit (fun u => { u with sb := publishU u.sb id }) else s
  let s := if 3 ≤ sc then { s with drains := s.drains ++ (s.drainLines id).map (fun b => ⟨id, s.bufferOf id, b⟩) } else s
  s.modWave id (fun w => { w with rel := .drain })

/-- The marks advance and the interval closes (R90, R91, R115 step 5); from .d on, the wave's lines that sit at their homes are published (R109). -/
def State.releasePublish (s : State) (id sc : Nat) : State :=
  let e := s.own id
  let w := s.wave id
  let s := if 3 ≤ sc && !isCtl id then s.modUnit w.unit (fun r => { r with athome := r.athome.filter (·.1 != w.widx) }) else s
  (s.sendStatus id { (e.publish sc (e.cur + 1)) with cur := e.cur + 1 }).modWave id (fun w => { w with rel := .status })

/-- Whether a line that went out for the identity before this release has been refused: the release takes the fault (R121). -/
def State.refusedDrain (s : State) (id : Nat) : Bool := s.reqs.any (fun q => q.ident == id && q.use == .drain && q.fail != 0)

/-- One step of a release at a scope: true when it is complete. -/
def State.releaseStep (s : State) (id sc0 : Nat) : State × Bool :=
  let sc := s.relScope id sc0
  let phase := (s.wave id).rel
  if phase = .none && s.refusedDrain id then (s.modWave id (fun w => { w with rel := .drain }), false)
  else if phase = .none && !s.releaseReady id then (s, false)
  else
    let s := if phase = .none then s.releaseBegin id sc else s
    let s := if (s.wave id).rel = .drain && !s.draining id then s.releasePublish id sc else s
    (s, (s.wave id).rel = .done || ((s.wave id).rel = .status && !(s.changes.any (·.ident == id))))

/-- An interval closed without a release (R89, R90). -/
def State.closeInterval (s : State) (id : Nat) : State :=
  let e := s.own id
  s.sendStatus id { e with cur := e.cur + 1 }

/-- The end of a synchronising instruction: a counter that wraps waits for the purge of its records and restarts at 0 (R109); true when it is over. -/
def State.syncEnd (s : State) (id : Nat) : State × Bool :=
  let e := s.own id
  if e.cur ≤ 0xFFFF then (s.modWave id (fun w => { w with rel := .none }), true)
  else if (s.wave id).rel != .done then
    (State.modWave { s with purges := s.purges ++ [{ ident := id, lo := 0, keep := [] }] } id (fun w => { w with rel := .done }), false)
  else if s.purges.any (·.ident == id) then (s, false)
  else ((State.sendStatus { s with ends := mset none s.ends id none } id { e with cur := 0, pubu := 0, pubd := 0, pubk := 0, pubf := 0 }).modWave id (fun w => { w with rel := .none, int0 := 0 }), true)

/-- An acquire (R105, R117): at .f the fabric-window lines of the function leave the die's last-level cache and the scalar cache, and an answer still to come to a read that was sent before is not kept. -/
def State.acquire (s : State) (id sc : Nat) : State :=
  if sc < 5 then s
  else
    let v := (s.wave id).vf
    let mine := fun (x : Nat × Option (List Byte)) => bits (s.winEntry (bits (64 * x.1) 40 11)) 1 6 != v
    let s := { s with reqs := s.reqs.map (fun (q : FabOut) => if s.dieOf q.ident == s.dieOf id && !mine (q.line / 64, none) then { q with cached := false } else q) }
    let s' := s.modDie (s.dieOf id) (fun d => { d with fcache := d.fcache.filter mine, fbad := d.fbad.filter (fun l => mine (l, none)) })
    s'.modCore (coreOf id) (fun c => { c with scache := c.scache.filter mine })

/-- The records of an identity purged from interval lo up, but for kept writer records (R109). -/
def State.purge (s : State) (p : Purge) : State :=
  let names := fun (d : Nat) (r : Rec) => (r.slot == p.ident || s.resolve d r == p.ident) && p.lo ≤ r.interval
  { s with recs := s.recs.foldl (fun m x =>
      let d := granDie x.1
      let wr := match x.2.wr with | some r => if names d r && !p.keep.contains x.1 then none else some r | none => none
      let rd := match x.2.rd with | some r => if names d r then none else some r | none => none
      mset {} m x.1 ⟨wr, rd⟩) s.recs }

end Sys2Proof.Machine
end

