-- ==== Sys2Proof/Machine/Ops.lean ====
section
/-! DEFINITION. The shared operations of the machine: event records and rings (R176, R391), completion counters (R178), checkpoints and rollbacks (R165, R168), entering and leaving the trap handler (R254, R255), and taking a fault: the record, the kill and the relaunch (R364, R390 to R395). -/

namespace Sys2Proof.Machine

/-! ## Rings and event records -/

/-- The bytes of a record that lie in a fabric window sent to their home, line by line. -/
def State.ringSend (s : State) (id pa va : Nat) (bs : List Byte) : State :=
  (((List.range bs.length).map (fun i => (pa + i) / 64)).eraseDups).foldl (fun (s : State) l =>
    s.fabSend id .ring (64 * l) (va - pa % 64 + (64 * l - pa / 64 * 64)) false ((bs.zipIdx.filter (fun x => (pa + x.2) / 64 == l)).map (fun x => ((pa + x.2) % 64, x.1)))) s

/-- A record written into a ring of a function (R391, R381, R385): none where its slot does not translate with write permission. Ring writes make no claim. The release of the wave for which one is sent over the fabric waits for it (R381); id 16384 is no wave. -/
def State.ringPut (s : State) (v va : Nat) (bs : List Byte) (id : Nat := 16384) : Option State :=
  match s.walk v va with
  | some p => if canonical va && !upper va && p.w then some (if isFabric (p.phys va) then s.ringSend id (p.phys va) va bs else s.homeWrite (p.phys va) bs) else none
  | none => none

/-- The fault ring of a function (R391): FRBASE, FRLOG2 6 to 16. -/
def State.faultRing (s : State) (v : Nat) (bs : List Byte) : State :=
  let b := s.hwN (64 * v) 8
  let l := s.hwN (64 * v + 8) 1
  let k := s.hwN (64 * v + 0x10) 8
  if b = 0 || l < 6 || 16 < l then s
  else match s.ringPut v (b + 64 * (k % 2 ^ l)) bs with
    | some s => s.setHw (64 * v + 0x10) (k + 1) 8
    | none => s

/-- A notice of R404 and R413 in a function's fault ring: CAUSE 0, LCORE and DETAIL. -/
def State.notice (s : State) (v lcore detail : Nat) : State :=
  s.faultRing v (toBytes 0 4 ++ toBytes lcore 2 ++ toBytes 0 26 ++ toBytes detail 8 ++ toBytes 0 24)

/-- An event record posted to a core's queue of 256; it waits at its source while the queue is full (R176, R177). -/
def State.postEvent (s : State) (c : Nat) (r : EvRec) : State :=
  s.modCore c (fun x => if x.evWait.isEmpty && x.evq.length < 256 then { x with evq := x.evq ++ [r] } else { x with evWait := x.evWait ++ [r] })

/-! ## Completion counters (R178, R179) -/

/-- The level above: graph 1, phase 2, job 3, an index of 0 being passed over. -/
def Launch.levels (l : Launch) : List (Nat × Nat) := ([(1, l.graph), (2, l.phase), (3, l.job)] : List (Nat × Nat)).filter (fun x => x.2 != 0)

/-- A level's counter lowered, its record posted at zero, and the next level named above it lowered in turn. -/
def lowerLevels (v ctl : Nat) (data : W64) : List (Nat × Nat) → State → State
  | [], s => s
  | (lvl, i) :: r, s =>
    let c := mget {} (s.vf v).ctab i
    if c.count = 0 then s
    else
      let c' : Counter := { c with count := c.count - 1, done := c.done || c.count == 1 }
      let s := s.modVf v (fun f => { f with ctab := mset {} f.ctab i c' })
      if c.count = 1 then lowerLevels v ctl data r (s.postEvent ctl ⟨4, 0, lvl, 0, data⟩) else s

/-- The writer records that stayed for a launch are purged: those that still name the killed wave and an interval of it (R109). -/
def State.endHold (s : State) (l : Nat) : State :=
  let mine := s.hold.filter (·.launch == l)
  let gone := fun (g : Nat) (r : Rec) => mine.any (fun h => h.gran == g && (r.slot == h.ident || s.resolve (granDie g) r == h.ident) && r.interval ≤ h.upto)
  { s with hold := s.hold.filter (·.launch != l),
           recs := s.recs.foldl (fun m x => mset {} m x.1 { x.2 with wr := match x.2.wr with | some r => if gone x.1 r then none else some r | none => none }) s.recs }

/-- What ends with a launch: rings, the cores of its stages, and the writer records that stayed for it (R109, R194, R327). -/
def State.launchOver (s : State) (l : Nat) : State :=
  (s.modLaunch l (fun x => { x with queues := x.queues.map (fun q => { q with ring := [] }), cores := [] })).endHold l

/-- A launch's counter lowered by one (R178). -/
def State.lowerLaunch (s : State) (l : Nat) : State :=
  match s.launch l with
  | none => s
  | some x =>
    if x.cnt.count = 0 then s
    else
      let s := s.setLaunch l (some { x with cnt := { x.cnt with count := x.cnt.count - 1, done := x.cnt.done || x.cnt.count == 1 } })
      if x.cnt.count = 1 then
        let ctl := s.phys x.ctlcore
        let data : W64 := BitVec.ofNat 64 x.launchid.toNat
        lowerLevels x.vf ctl data x.levels ((s.launchOver l).postEvent ctl ⟨4, 0, 0, 0, data⟩)
      else s

/-! ## Checkpoints and rollbacks (R165 to R168) -/

/-- The checkpoint of R165. -/
def Wave.checkpoint (w : Wave) : Ckpt :=
  { exec := w.regs.exec, depth := w.depth, stack := w.stack, p := w.regs.p, s := w.regs.s, nmode := w.nmode, tp := w.taint.p, ts := w.taint.s, mp := w.poison.p, ms := w.poison.s }

/-- The wave with a checkpoint's state; the poison marks go with the values that they mark (DESIGN CHOICE, log 124). -/
def Wave.restore (w : Wave) (c : Ckpt) : Wave :=
  { w with depth := c.depth, stack := c.stack, nmode := c.nmode,
           regs := { w.regs with exec := c.exec, p := c.p, s := c.s },
           taint := { w.taint with p := c.tp, s := c.ts }, poison := { w.poison with p := c.mp, s := c.ms } }

/-- y0 and y1 zero in every lane, without marks (R59). -/
def Wave.zeroY (w : Wave) : Wave :=
  { w with regs := { w.regs with y := [] }, taint := { w.taint with y := [] }, poison := { w.poison with y := [] } }

/-- Whether a v or o register is in the live-in set, with the leading instruction's destination (R164, R166). -/
def Region.liveV (r : Region) (n : Nat) : Bool := n < r.vlive || (match r.ldest with | some d => d < 240 && d ≤ n && n < d + r.lwide | none => false)
def Region.liveO (r : Region) (n : Nat) : Bool := r.olive.testBit n || (match r.ldest with | some d => 320 ≤ d && d ≤ 320 + n && 320 + n < d + r.lwide | none => false)

/-- The v and o registers outside the live-in set read zero (R167). -/
def Wave.keepLive (w : Wave) : Wave :=
  let kv := fun (k : Nat) => w.rgn.liveV (k / 32)
  let ko := fun (k : Nat) => w.rgn.liveO (k / 32)
  { w with regs := { w.regs with v := w.regs.v.filter (fun x => kv x.1), o := w.regs.o.filter (fun x => ko x.1) },
           taint := { w.taint with v := w.taint.v.filter (fun x => kv x.1), o := w.taint.o.filter (fun x => ko x.1) },
           poison := { w.poison with v := w.poison.v.filter (fun x => kv x.1), o := w.poison.o.filter (fun x => ko x.1) } }

/-- n events of a kind counted by a core's trace unit (R403). -/
def State.trace (s : State) (c ev n : Nat) : State :=
  if (s.core c).vf == none || (s.core c).lent || n = 0 then s
  else (List.range 8).foldl (fun (s : State) k =>
    let g := (mget 0 (s.core c).trcfg k).toNat
    if g.testBit 0 && bits g 8 8 == ev then
      s.modCore c (fun x => { x with trcnt := mset 0 x.trcnt k (BitVec.ofNat 64 (((mget 0 x.trcnt k).toNat + n) % 2 ^ 63)) })
    else s) s

/-- Whether a quarter offers nothing to Graze (R149, R190, R200): near-threshold rules hold, also while the mode changes, or its core is throttled. -/
def Quarter.slow (z : Quarter) (now : Nat) : Bool := z.nt || decide (now < z.ntUntil)
def State.shut (s : State) (c q : Nat) : Bool := (s.core c).throttled || (mget {} (s.core c).quarters q).slow s.cycle

/-- A bellwether of some waves dropped: it produces no record (R402). -/
def State.dropBell (s : State) (ids : List Nat) : State :=
  ids.foldl (fun (s : State) id => s.modCore (coreOf id) (fun x => { x with quarters := x.quarters.map (fun q => (q.1, match q.2.bell with | some b => if b.ident = id then { q.2 with bell := none } else q.2 | none => q.2)) })) s

/-- A committing execution that is rolled back, of a variant or under a spot check, which is then made again, commits nothing: the counts of R376 and R384 take it back. -/
def State.uncount (s : State) (v c : Nat) (x : GChoice) : State :=
  let back := fun (q : Nat) => s.modVf v (fun f => { f with graze := { f.graze with folds := f.graze.folds.map (fun e => if e.seq == q then { e with execs := e.execs - 1, perCore := mset 0 e.perCore c (mget 0 e.perCore c - 1) } else e) } })
  match x with
  | .variant q _ => back q
  | .spot q => back q
  | _ => s

/-- A rollback of a wave to its restart point (R168): the region's loads are dropped, those of earlier regions go on; the claims of the discarded pass stay registered and their verdicts count for nothing (R95). In serial mode a restart point that is the opening marker will be executed again without ending that mode (R95). -/
def State.rollback (s : State) (id : Nat) : State :=
  let w := s.wave id
  let loads := w.loads.filter (fun l => l.rg != w.rgn.opened)
  let dropped := (w.loads.filter (fun l => l.rg == w.rgn.opened)).map (·.id)
  let w := (((w.restore w.rgn.ckpt).keepLive).zeroY).dropLatches
  let s := s.modVf w.vf (fun f => { f with preqs := f.preqs.map (fun e => (e.1, { e.2 with joined := e.2.joined.filter (· != id) })), asleep := f.asleep.filter (· != id) })
  let s := s.setWave id { w with pc := w.rgn.rpc, stage1 := [], loads := loads, ldc := loads.length, stc := 0, busy := [], st := .ready, rel := .none, step := 0,
                                 walk := none, wait := .none, fpend := none, eng := [], engi := 0, sched := none, gz := { w.gz with choice := .original, entry := none, sample := none, wrote := [], again := w.gz.again || (match w.gz.choice with | .spot _ => true | _ => false) },
                                 rgn := { w.rgn with first := false, lead := false, replay := w.rgn.serial && !w.rgn.led } }
  let s := s.uncount w.vf (coreOf id) w.gz.choice
  let s := (s.trace (coreOf id) 9 1).dropBell [id]
  { s with claims := s.claims.map (fun c => if c.ident == id then { c with op := 0 } else c),
           verdicts := s.verdicts.map (fun v => if v.claim.ident == id then { v with claim := { v.claim with op := 0 } } else v),
           reqs := s.reqs.filter (fun r => !(r.ident == id && (match r.use with | .load l => dropped.contains l | _ => false))),
           hurdles := s.hurdles.filter (fun h => !(h.ident == id && h.closed == none)) }

/-- Whether the wave runs in serial mode (R95, R96). -/
def Wave.serial (w : Wave) : Bool := w.ctl || w.rgn.serial || w.rgn.spilled || w.rgn.lead

/-! ## Trap handler (R253 to R255) -/

/-- The replay in serial mode after a rollback (R95, R121). -/
def State.replay (s : State) (id : Nat) : State :=
  (s.rollback id).modWave id (fun w => { w with rgn := { w.rgn with serial := true, replay := !w.rgn.led } })

/-- Entry to the trap handler: what TEPC, TCAUSE and TSTAT save, what the level becomes, where the PC goes (R254). -/
def trapEnter (cause value : Nat) (w : Wave) : Wave :=
  let w' := (w.zeroY).dropLatches
  { w' with tepc := BitVec.ofNat 64 ((w.pc.toNat + 8) % 2 ^ 57), tcause := BitVec.ofNat 64 (value % 2 ^ 20 * 256 + cause),
            tstat := BitVec.ofNat 64 (2 * w.level + 1), level := max w.level 1,
            pc := BitVec.ofNat 64 (w.tvec.toNat % 2 ^ 57 / 4 * 4),
            rgn := { w.rgn with spilled := true } }

/-- Return from the trap handler (R255). -/
def trapReturn (w : Wave) : Wave :=
  let w' := (w.zeroY).dropLatches
  { w' with level := min (bits w.tstat.toNat 1 2) w.level, tstat := BitVec.ofNat 64 (w.tstat.toNat / 2 * 2), pc := w.tepc,
            rgn := { w.rgn with spilled := true } }

/-! ## Accumulator banks and engine tables of a unit (R71, R132, R339) -/

/-- The bytes of accumulator banks zeroed (R71): words 32,768 a bank, tiles 8 a bank. -/
def Core.scrub (x : Core) (bs : List Nat) : Core :=
  { x with acc := x.acc.filter (fun e => !bs.contains (e.1 / 32768)), accPoison := x.accPoison.filter (fun e => !bs.contains (e.1 / 32768)),
           accTaint := x.accTaint.filter (fun e => !bs.contains (e.1 / 8)) }

/-- Banks returned. -/
def Core.freeBanks (x : Core) (bs : List Nat) : Core := { x with banks := x.banks.filter (fun e => !bs.contains e.1) }

/-- The lock entries of a command released (R132). -/
def Core.unlock (x : Core) (owner : Nat) : Core :=
  { x with locks := x.locks.filter (fun e => match e.2 with | some l => l.owner != owner | none => false) }

/-- The 11-bit generation of a tile-task entry advanced when it is freed (R360). -/
def Core.advanceGen (x : Core) (slot : Nat) : Core :=
  if slot < 128 then x else { x with gens := mset 0 x.gens slot ((mget 0 x.gens slot + 1) % 2048) }

/-- The commands of a unit stopped, their locks released and their entries freed (R132, R364 step 1). -/
def Core.stopUnit (x : Core) (u : Nat) : Core :=
  let mine := (x.cmds.filter (fun e => match e.2 with | some c => c.unit == u | none => false)).map (·.1)
  mine.foldl (fun x k => ((x.unlock k).advanceGen k)) { x with cmds := x.cmds.filter (fun e => !mine.contains e.1) }

/-! ## Page-request entries of a killed unit (R47) -/

/-- Entries that no live wave or command is joined to are retired: the grant closes, the generation advances, a frame goes into quarantine. -/
def VFn.leave (f : VFn) (ids : List Nat) (cmds : List (Nat × Nat)) (now : Nat) : VFn :=
  f.preqs.foldl (fun f e =>
    let r := e.2
    let j := r.joined.filter (fun x => !ids.contains x)
    let c := r.cmds.filter (fun x => !cmds.contains x)
    if !r.live || (j == r.joined && c == r.cmds) then f
    else if j.isEmpty && c.isEmpty then
      { f with preqs := mset {} f.preqs e.1 { r with live := false, gen := (r.gen + 1) % 256, joined := [], cmds := [] },
               quar := if r.hostdata then f.quar ++ [⟨r.gen * 256 + e.1, r.frame, r.psize, now, false⟩] else f.quar }
    else { f with preqs := mset {} f.preqs e.1 { r with joined := j, cmds := c } }) { f with asleep := f.asleep.filter (fun x => !ids.contains x) }

/-- After entries have been freed the waves that sleep because every entry was in use try again (R42), and page requests that waited may leave (R412). -/
def State.wakeAsleep (s : State) (v : Nat) : State :=
  let s := s.unholdPages
  if (List.range 256).all (fun k => (mget {} (s.vf v).preqs k).live) then s
  else ((s.vf v).asleep.foldl (fun (s : State) id => s.modWave id (fun w => if w.st == .sleeping then { w with st := .ready, walk := none } else w)) s).modVf v (fun f => { f with asleep := [] })

/-! ## Ending a unit -/

/-- What stays in a slot whose wave has ended: its registers, which the next placement zeroes (R57), with their marks, its index in its unit, its first interval there, and what a record names of it (R392). -/
def Wave.left (w : Wave) : Wave := { regs := w.regs, poison := w.poison, widx := w.widx, int0 := w.int0, pc := w.pc, seq := w.seq, clock := w.clock }

/-- A slot vacated: V cleared (R112), the wave gone. -/
def State.vacate (s : State) (id : Nat) : State :=
  let s := s.sendStatus id { (s.own id) with v := false }
  s.modWave id Wave.left

/-- The ring entries whose space killed waves took and that they can no longer commit: they are never ready (R327), and no later wave of the slot commits them. -/
def State.orphan (s : State) (ids : List Nat) : State :=
  { s with launches := s.launches.map (fun (x : Nat × Option Launch) => (x.1, x.2.map (fun l => { l with queues := l.queues.map (fun q =>
      { q with ring := q.ring.map (fun e => match e.owner with | some k => if ids.contains k then { e with owner := some 16384 } else e | none => e) }) }))) }

/-- Everything of a unit's waves that is under way, dropped. -/
def State.dropWork (s : State) (ids : List Nat) : State :=
  let s := (s.dropBell ids).orphan ids
  { s with claims := s.claims.filter (fun c => !ids.contains c.ident), verdicts := s.verdicts.filter (fun v => !ids.contains v.claim.ident),
           drains := s.drains.filter (fun d => !ids.contains d.ident), acks := s.acks.filter (fun d => !ids.contains d.ident),
           reqs := s.reqs.filter (fun r => !ids.contains r.ident), hurdles := s.hurdles.filter (fun h => !ids.contains h.ident) }

/-- The slots of a unit that still hold a wave of it. -/
def State.liveSlots (s : State) (u : Nat) (r : UnitR) : List Nat := r.slots.filter (fun id => (s.wave id).st != .empty && (s.wave id).unit == u)

/-- V of identities cleared at every home at once: nothing stands for them any more (R111, R112). -/
def State.closeIds (s : State) (zs : List Nat) : State := zs.foldl (fun (s : State) z => s.setAll z { (s.own z) with v := false }) s

/-- Scratchpad granules zero-filled (R67, R436). -/
def State.zeroSpad (s : State) (c b n : Nat) : State :=
  s.modCore c (fun x => { x with spad := x.spad.filter (fun e => !(4096 * b ≤ e.1 && e.1 < 4096 * (b + n))), spPoison := x.spPoison.filter (fun e => !(1024 * b ≤ e.1 && e.1 < 1024 * (b + n))) })

/-- The parked identities of a saved unit with the wave indices. -/
def SavedUnit.parkedWaves (x : SavedUnit) : List (Nat × Nat) := x.parked.zip (x.waves.map (·.widx))

/-- The records of a killed unit set to be purged (R109): identities with their wave indices. The lines that sit at home unpublished keep their writer records until the launch completes, unless it has been cancelled; the launch of a unit whose non-restartable flag is set completes after the purge. -/
def State.killRecords (s : State) (r : UnitR) (ids : List (Nat × Nat)) : State :=
  let l := r.task.launch
  let off := ((s.launch l).map (·.cnt.cancelled)).getD true
  let keep := fun (k : Nat) => if r.nrst && !off then (r.athome.filter (·.1 == k)).map (·.2) else []
  let s0 := if r.nrst then s.tick else s
  { s0 with purges := s.purges ++ ids.map (fun (x : Nat × Nat) => (⟨x.1, (s.own x.1).pubd, keep x.2, if r.nrst then some (l, s.fresh) else none, r.vf⟩ : Purge)),
            hold := s.hold ++ ids.flatMap (fun (x : Nat × Nat) => (keep x.2).map (fun g => (⟨l, x.1, (s.own x.1).cur, g⟩ : Hold))) }

/-- After the end of a unit, a hot core whose last non-persistent unit that was raises the request that waited for it (R191); hotWait stays until a target has been looked for. -/
def State.unitGone (s : State) (c : Nat) : State :=
  let x := s.core c
  let us := s.units.filterMap (fun (y : Nat × Option UnitR) => if y.1 / 16 == c then y.2 else none)
  if x.hotWait && decide (95 ≤ x.temp) && !us.isEmpty && us.all (fun r => match s.launch r.task.launch with | some l => l.persist | none => false) then s.setCore c { x with migReq := true } else s

/-- The end of a park (R198). -/
def State.unpark (s : State) (ids : List Nat) : State := ids.foldl (fun (s : State) id => s.modWave id (fun w => if w.st == .parked then { w with st := .ready } else w)) s

/-- The steps of R364 for a unit that is killed or cancelled: commands stopped, banks scrubbed, buffers dropped, records to be purged (R109), page requests left (R47), slots vacated. -/
def State.tearDown (s : State) (u : Nat) (r : UnitR) : State :=
  let c := u / 16
  let ids := s.liveSlots u r
  let cmds := ((s.core c).cmds.filter (fun e => match e.2 with | some x => x.unit == u | none => false)).map (fun e => (c, e.1))
  let s := s.modCore c (fun x =>
    let x := x.stopUnit u
    let bs := r.acc.getD []
    let x := (x.scrub bs).freeBanks bs
    { x with accQ := x.accQ.filter (fun q => q.1 != u) })
  let s := s.modVf r.vf (fun f => { (f.leave ids cmds s.cycle) with areas := match r.area with | some a => f.areas.filter (· != a) | none => f.areas })
  let s := (s.wakeAsleep r.vf).dropWork r.slots
  let sv := s.saved.find? (fun x => x.back == some u)
  let s := s.killRecords r (r.slots.map (fun id => (id, (s.wave id).widx)) ++ (match sv with | some x => x.parkedWaves | none => []))
  let s := State.closeIds { s with saved := s.saved.filter (fun x => x.back != some u) } (match sv with | some x => x.parked | none => [])
  ((ids.foldl (fun s id => s.vacate id) s).setUnit u none).unitGone c

/-- A killed unit discarded or queued again from its task record (R364, R394). The launch's counter falls at once, or with the last purge where the non-restartable flag is set (R109). -/
def State.afterKill (s : State) (u : Nat) (r : UnitR) (again : Bool) : State :=
  let s := s.tearDown u r
  if again then { s with pend := s.pend ++ [{ r.task with relaunches := r.task.relaunches + 1, avoid := some (u / 16) }] }
  else if r.nrst then s
  else s.lowerLaunch r.task.launch

/-- SOURCE of a unit's records (R176). -/
def State.source (s : State) (u : Nat) : Nat := 16 * s.logical (u / 16) + u % 16

/-- A resident unit of a cancelled launch takes CANCEL (R180). -/
def State.cancelUnit (s : State) (u : Nat) : State :=
  match s.unit u with
  | none => s
  | some r =>
    let s := s.postEvent (u / 16) ⟨3, 0x0F, s.source u, 0, BitVec.ofNat 64 (1 + cond r.nrst 2 0)⟩
    s.afterKill u r false

/-! ## Faults (R390 to R395) -/

/-- Whether a cause allows a relaunch (R390); eng tells an engine fault, t.detail holds CAPACITY in bit 0 for MMRACE. -/
def relaunchable (t : Trap) (eng : Bool) : Bool :=
  t.cause = 0x07 || t.cause = 0x0A || t.cause = 0x0B || t.cause = 0x14 || (t.cause = 0x06 && eng)
  || (t.cause = 0x08 && (eng || t.detail.getLsbD 0))

/-- A fault record (R392). -/
def recordBytes (t : Trap) (flags wave stage lcore runit suppr : Nat) (launch : W32) (pc seq : W64) (unit relaunch time : Nat) : List Byte :=
  toBytes t.cause 1 ++ toBytes flags 1 ++ toBytes wave 1 ++ toBytes stage 1 ++ toBytes lcore 2 ++ toBytes runit 1 ++ toBytes suppr 1
  ++ toBytes t.lanes.toNat 4 ++ toBytes launch.toNat 4 ++ toBytes pc.toNat 8 ++ toBytes seq.toNat 8 ++ toBytes t.detail.toNat 8
  ++ toBytes t.addr.toNat 8 ++ toBytes unit 4 ++ toBytes relaunch 2 ++ toBytes 0 2 ++ toBytes time 8

/-- Who a fault is attributed to (R392): wave index, PC, sequence number, time; control tells poison in control state. -/
structure Blame where
  eng : Bool := false
  control : Bool := false
  widx : Nat := 0
  pc : W64 := 0
  seq : W64 := 0
  time : Nat := 0
  deriving DecidableEq, Repr

/-- SUPPR: the later faults of the unit until its purge ends. Its waves and commands have stopped, so these are the races that are on their way back to waves in serial mode, one for each access (R395; DEDUCED, log 18). -/
def State.suppr (s : State) (ids : List Nat) : Nat :=
  min 255 (((s.verdicts.filter (fun v => v.race.isSome && v.claim.op != 0 && ids.contains v.claim.ident && (s.wave v.claim.ident).serial)).map (fun v => (v.claim.ident, v.claim.op))).eraseDups.length)

/-- A saved unit killed in its saved form, or discarded (R364, R436): its save area is free, the records of its parked identities are purged, and its launch's counter falls: with the last purge where the non-restartable flag is set (R109); a unit without parked identities has nothing to purge. -/
def State.killSaved (s : State) (x : SavedUnit) : State :=
  ((s.killRecords x.unit x.parkedWaves).closeIds x.parked).modVf x.unit.vf (fun f => { f with areas := f.areas.filter (fun a => some a != x.unit.area) })
def State.dropSaved (s : State) (x : SavedUnit) : State :=
  if x.unit.nrst && !x.parked.isEmpty then s.killSaved x else (s.killSaved x).lowerLaunch x.unit.task.launch

/-- A fault of a unit that is saved out kills it in its saved form (R394); the record names its last residence and the saved count (R392). -/
def State.faultSaved (s : State) (x : SavedUnit) (b : Blame) (t : Trap) : State :=
    let u := x.last
    let r := x.unit
    let l := (s.launch r.task.launch).getD {}
    let again := relaunchable t b.eng && l.restart && !r.nrst && !l.cnt.cancelled && r.task.relaunches < 3
    let time := if r.gone.contains b.widx then mget 0 r.clocks b.widx else ((x.waves.find? (fun w => w.widx == b.widx)).map (fun w => w.clock)).getD b.time
    let flags := cond b.eng 2 1 + cond again 8 0 + cond r.nrst 16 0 + cond again 0 32 + cond b.control 64 0
    let s := s.faultRing r.vf (recordBytes t flags b.widx r.task.stage (s.logical (u / 16)) (u % 16) 0 l.launchid b.pc b.seq r.task.uidx r.task.relaunches time)
    let s := s.postEvent (u / 16) ⟨5, t.cause, s.source u, b.seq.toNat % 2 ^ 32, BitVec.ofNat 64 (cond l.cnt.cancelled 1 0 + cond r.nrst 2 0 + cond again 4 0)⟩
    let s := { s with saved := s.saved.filter (fun y => y != x) }
    if again then let s := s.killSaved x; { s with pend := s.pend ++ [{ r.task with relaunches := r.task.relaunches + 1, avoid := some (u / 16) }] }
    else s.dropSaved x

/-- A fault ends a unit (R393): the record, then the kind 0x05 event record, then the kill and the relaunch (R394). -/
def State.faultUnit (s : State) (u : Nat) (b : Blame) (t : Trap) : State :=
  match s.unit u with
  | none => s
  | some r =>
    let l := (s.launch r.task.launch).getD {}
    let again := relaunchable t b.eng && l.restart && !r.nrst && !l.cnt.cancelled && r.task.relaunches < 3 && r.area == none
    let flags := cond b.eng 2 1 + cond again 8 0 + cond r.nrst 16 0 + cond again 0 32 + cond b.control 64 0
    let s := s.faultRing r.vf (recordBytes t flags b.widx r.task.stage (s.logical (u / 16)) (u % 16) (s.suppr r.slots) l.launchid b.pc b.seq r.task.uidx r.task.relaunches b.time)
    let s := s.postEvent (u / 16) ⟨5, t.cause, s.source u, b.seq.toNat % 2 ^ 32, BitVec.ofNat 64 (cond l.cnt.cancelled 1 0 + cond r.nrst 2 0 + cond again 4 0)⟩
    s.afterKill u r again

/-- The units of a launch that are waiting are discarded and count as ended (R179), and so does a control program that has not started, since it starts with the first unit (R175). -/
def State.dropPending (s : State) (l : Nat) : State :=
  let n := (s.pend.filter (fun t => t.launch == l)).length
  let mine := fun (x : SavedUnit) => x.unit.task.launch == l && x.back == none
  let sv := s.saved.filter mine
  let s := { s with pend := s.pend.filter (fun t => t.launch != l), saved := s.saved.filter (fun x => !mine x) }
  let s := sv.foldl (fun (s : State) x => s.dropSaved x) s
  let s := (List.range n).foldl (fun s _ => s.lowerLaunch l) s
  match s.launch l with
  | some x => if x.ctlpc == 0 || x.ctl != 0 then s else (s.setLaunch l (some { x with ctl := 2 })).lowerLaunch l
  | none => s

/-- The waves that take a pending cancel at once, since they wait where R180 and R344 deliver it: bar, aalloc, SLEEPING, and the waits of engine instructions and evget (step 1 tells those). -/
def Wave.cancelNow (w : Wave) : Bool :=
  w.mode == .normal && ((w.st == .waiting && (match w.wait with | .bar _ => true | .aalloc => true | _ => false)) || w.st == .sleeping
    || (w.st == .stalled && w.step == 1))

/-- Units of a cancelled launch whose waves wait where a cancel is delivered end now (R180); its waves that back off go on (R198). -/
def State.deliverCancel (s : State) (l : Nat) : State :=
  let s := s.unpark ((s.waves.filter (fun x => x.2.launch == l && x.2.st == .parked)).map (·.1))
  s.units.foldl (fun (s' : State) x =>
    match s'.unit x.1 with
    | some r => if r.task.launch == l && (s'.liveSlots x.1 r).any (fun id => (s'.wave id).cancelNow) then s'.cancelUnit x.1 else s'
    | none => s') s

/-- A launch cancelled (R179). -/
def State.cancelLaunch (s : State) (l : Nat) : State :=
  match s.launch l with
  | none => s
  | some x =>
    if x.cnt.done || x.cnt.cancelled then s
    else (((s.setLaunch l (some { x with cnt := { x.cnt with cancelled := true }, queues := x.queues.map (fun q => { q with ring := [] }) })).endHold l).dropPending l).deliverCancel l

/-- A level cancelled with every level within it (R179, R333): 0 launch, 1 graph, 2 phase, 3 job of the given launch; a level of index 0 or already done is left. -/
def State.cancelLevel (s : State) (l lvl : Nat) : State :=
  match s.launch l with
  | none => s
  | some x =>
    if lvl = 0 then s.cancelLaunch l
    else
      let ix := fun (y : Launch) => if lvl = 1 then y.graph else if lvl = 2 then y.phase else y.job
      let i := ix x
      let c := mget {} (s.vf x.vf).ctab i
      if i = 0 || c.done || c.cancelled then s
      else
        let within := (s.launches.filter (fun e => match e.2 with | some y => y.vf == x.vf && ix y == i && !y.cnt.done | none => false)).map (·.1)
        let all := (s.launches.filter (fun e => match e.2 with | some y => y.vf == x.vf && ix y == i | none => false)).map (·.1)
        let sub := all.flatMap (fun k => match s.launch k with
          | some y => (if 2 ≤ lvl then [y.graph] else []) ++ (if 3 ≤ lvl then [y.phase] else [])
          | none => [])
        let s := (i :: sub.filter (fun k => k != 0 && !(mget {} (s.vf x.vf).ctab k).done)).foldl (fun (s : State) k => s.modVf x.vf (fun f =>
          { f with ctab := mset {} f.ctab k { (mget {} f.ctab k) with cancelled := true } })) s
        within.foldl (fun s k => s.cancelLaunch k) s

/-- The end of a control program without its release (R175, R393): the buffer dropped, its records purged, the counter lowered, the next program that waits may start. -/
def State.ctlEnd (s : State) (c : Nat) : State :=
  let id := ctlId c
  let l := (s.wave id).launch
  let lo := (s.own id).pubd
  let s := s.dropWork [id]
  let s := { s with purges := s.purges ++ [({ ident := id, lo := lo, keep := [] } : Purge)] }
  let s := (s.vacate id).modLaunch l (fun x => { x with ctl := 2 })
  s.lowerLaunch l

/-- A fault of a control program (R393). -/
def State.faultCtl (s : State) (id : Nat) (t : Trap) : State :=
  let c := coreOf id
  let w := s.wave id
  let l := (s.launch w.launch).getD {}
  let s := s.faultRing w.vf (recordBytes t (1 + 4 + 32 + cond (t.cause == 0x0A && t.detail.toNat % 256 == 0x80) 64 0) 0xFF 0 (s.logical c) 0 (s.suppr [id]) l.launchid w.pc w.seq 0 0 w.clock)
  let s := s.postEvent c ⟨5, t.cause, 0x8000 + 16 * s.logical c, w.seq.toNat % 2 ^ 32, 0⟩
  (s.cancelLaunch w.launch).ctlEnd c

/-- The PC by which records name the wave's instruction: of a variant's instruction that of its region (R376, R392). -/
def Wave.recPc (w : Wave) : W64 :=
  match w.gz.choice, w.gz.entry with
  | .variant _ _, some e => BitVec.ofNat 64 e.1
  | _, _ => w.pc

/-- A precise fault of the wave or control core that executes (R393). -/
def State.raise (s : State) (id : Nat) (t : Trap) : State :=
  let w := s.wave id
  if isCtl id then s.faultCtl id t
  else s.faultUnit w.unit { widx := w.widx, pc := w.recPc, seq := w.seq, time := w.clock } t

end Sys2Proof.Machine
end

