-- ==== Sys2Proof/Machine/Issue.lean ====
section
/-! DEFINITION. Issuing an instruction: what it names (R219), when it waits (R60, R95, R103), when it is not allowed to execute (R166, R174, R432), and what its completion does to the PC and the restart region (R166). -/

namespace Sys2Proof.Machine

/-! ## What an instruction names -/

/-- The operand codes of a source (R219). -/
def srcRegs (wide : Bool) : Src → List Nat
  | .v n => if wide then [n, n + 1] else [n]
  | .o n => if wide then [320 + n, 321 + n] else [320 + n]
  | .s n => [256 + n]
  | .y n => [328 + n]
  | .exec => [330]
  | .imm _ => []
  | .lit _ => []

/-- The operand codes of a destination. -/
def dstRegs (wide : Bool) : Dst → List Nat
  | .v n => if wide then [n, n + 1] else [n]
  | .o n => if wide then [320 + n, 321 + n] else [320 + n]
  | .s n => [256 + n]
  | .exec => [330]

/-- The codes that an operand field names; predicates are numbered from 1,024. -/
def opdRegs : Opd → List Nat
  | .none => []
  | .src _ wide x => srcRegs wide x.src
  | .dst _ _ _ wide x => dstRegs wide x
  | .sdst even n => if even then [256 + n, 257 + n] else [256 + n]
  | .pred n => [1024 + n]
  | .tile (.v n) => [n]
  | .tile (.s n) => [256 + n, 257 + n]
  | .vreg n => [n]
  | .kval _ _ => []

/-- The codes that a half of a pair names. -/
def halfRegs (h : Half) : List Nat :=
  dstRegs false h.d ++ srcRegs false h.a ++ (match h.b with | some b => srcRegs false b | none => [])

/-- Every register code that an instruction names; svc reads s0 besides (R259). -/
def instrRegs (i : Instr) : List Nat :=
  match i with
  | .pair x y => halfRegs x ++ halfRegs y
  | .svc _ => [256]
  | i => match i.view with
    | some v => opdRegs v.d ++ opdRegs v.a ++ opdRegs v.b ++ opdRegs v.c ++ (match v.guard with | some g => [1024 + g.p] | none => [])
    | none => match i.compactHalf with
      | some h => halfRegs h
      | none => []

/-- The destination codes of an instruction. -/
def instrDst (i : Instr) : List Nat :=
  match i with
  | .pair x y => dstRegs false x.d ++ dstRegs false y.d
  | i => match i.view with
    | some v => opdRegs v.d
    | none => match i.compactHalf with
      | some h => dstRegs false h.d
      | none => []

/-- Whether a code names a v, o or y register (R174). -/
def isVecCode (c : Nat) : Bool := c < 240 || (320 ≤ c && c < 330)

/-- Whether an instruction names a run of vector registers whose length its encoding does not give. -/
def namesRun : Instr → Bool
  | .qput _ _ | .qget _ _ | .mtask _ _ _ _ | .packTile _ _ _ _ => true
  | _ => false

/-! ## Classes of instructions -/

/-- The non-idempotent instructions (R166). -/
def nonIdem : Instr → Bool
  | .rel _ | .acq _ | .fence _ | .strel .. | .ldacq .. | .atom .. | .cas .. | .bar _ | .qput .. | .qget .. => true
  | .cncl _ | .spawn .. | .svc _ | .trap _ | .tret => true
  | .cpy .. | .cpyc .. | .mtask .. | .stadv _ | .hrel _ | .aalloc _ | .afree | .ald .. | .ast .. | .azero _ | .aep .. | .evget _ => true
  | .csum .. | .chk .. => true
  | _ => false

/-- The scratchpad form of an instruction of group 6. -/
def spForm : Instr → Bool
  | .sld _ sp _ _ _ | .sst _ sp _ _ _ | .atom _ _ sp _ _ _ _ _ | .cas _ sp _ _ _ _ _ | .ldacq _ sp _ _ _ _ | .strel _ sp _ _ _ _ => sp
  | _ => false

/-- The group of an instruction of the full form (R231). -/
def instrGroup (i : Instr) : Nat := match i.view with | some v => v.op / 128 | none => match i with | .cnop => 0 | _ => 3

/-- The group of a restricted opcode's full form (R230): 4 for the float ones. -/
def ropGroup (o : ROp) : Nat := match ropKind o with | .f32 | .f16 | .bf16 => 4 | _ => 3
/-- The group by which an issue is charged (R199, R230). -/
def costGroup (i : Instr) : Nat :=
  match i with
  | .pair x y => max (ropGroup x.op) (ropGroup y.op)
  | i => match i.compactHalf with
    | some h => ropGroup h.op
    | none => instrGroup i

/-- What the control core executes (R174, R274, R335); cnop counts with group 0 (log 19). -/
def ctlAllows (i : Instr) : Bool :=
  let kind : Bool := match i with
    | .tret | .svc _ => false
    | .sld .. | .sst .. | .atom .. | .cas .. | .ldacq .. | .strel .. | .fence _ | .rel _ | .acq _ | .poll .. | .wait .. | .evget _ | .hrel _ | .spawn .. | .cnop => true
    | i => i.view.isSome && instrGroup i ≤ 2
  kind && !spForm i && !(instrRegs i).any isVecCode

/-- What save and restore mode execute (R432), and rdtime, whose value there R431 gives (DEDUCED, log 126). -/
def modeAllows (m : Mode) (i : Instr) : Bool :=
  match i with
  | .nop | .cnop | .region _ _ | .ifP .. | .elseP _ | .endif | .loop | .endloop _ | .breakP .. | .contP .. => true
  | .callRelative .. | .callIndirect .. | .ret _ | .rdid .. | .rdsys .. | .wrsys .. | .rdtime _ => true
  | .ld .. | .ldSigned .. | .st .. | .sld .. | .sst .. | .wait .. => true
  | .ctxdatRead _ | .ctxdatWrite _ => true
  | .csum .. | .chk .. => false
  | .exit => m == .save
  | .tret => m == .restore
  | .aalloc _ => m == .restore
  | .pair _ _ => true
  | i => match i.view with
    | some v => 1 ≤ v.op / 128 && v.op / 128 ≤ 5
    | none => i.compactHalf.isSome

/-- The issue-to-result cycles of R278, 0 where the next issue opportunity has the result. -/
def latency : Instr → Nat
  | .mul t _ _ _ _ | .mulh t _ _ _ _ _ | .mad t _ _ _ _ _ | .mulSat t _ _ _ _ _ => if t == .w64 then 8 else 0
  | .div t _ _ _ _ _ | .rem t _ _ _ _ _ => if t == .w64 then 48 else 24
  | .fdiv t _ _ _ _ | .fsqrt t _ _ _ => if t == .f64 then 40 else 20
  | .frcp t _ _ _ | .frsq t _ _ _ => if t == .f64 then 16 else 12
  | .fexp2 _ _ _ _ | .flog2 _ _ _ _ | .fsin _ _ _ _ | .fcos _ _ _ _ | .ftanh _ _ _ _ => 12
  | .lred .. | .lscan .. | .packTile .. => 8
  | .frcpF32Compact _ _ | .frsqF32Compact _ _ | .fexp2F32Compact _ _ | .flog2F32Compact _ _ => 12
  | .fadd t _ _ _ _ | .fsub t _ _ _ _ | .fmul t _ _ _ _ | .fmin t _ _ _ _ | .fmax t _ _ _ _ | .fma t _ _ _ _ _ => if t == .f64 then 8 else 0
  | .fcmp t _ _ _ _ _ => if t == .f64 then 8 else 0
  | .fcls t _ _ _ _ | .fround t _ _ _ _ => if t == .f64 then 8 else 0
  | .pair x y => if [ROp.frcpF32, .frsqF32, .fexp2F32, .flog2F32].contains x.op || [ROp.frcpF32, .frsqF32, .fexp2F32, .flog2F32].contains y.op then 12 else 0
  | _ => 0

/-! ## Waiting -/

/-- The codes that an outstanding load will write (R314, R316). -/
def PendLoad.codes (l : PendLoad) : List Nat := if l.size = 8 && !l.scalar then [l.dst, l.dst + 1] else [l.dst]

/-- Whether an instruction has to wait for a load or a result that is not written back (R60, R314). -/
def hazard (w : Wave) (i : Instr) : Bool :=
  let rs := instrRegs i
  let late := w.busy.flatten
  let out := w.loads.filter (fun l => !l.acq)
  (namesRun i && !(out.isEmpty && w.busy.isEmpty))
  || rs.any (fun c => late.contains c || out.any (fun l => l.codes.contains c))
  || (!w.busy.isEmpty && rs.any (fun c => c == 328 || c == 329))

/-- What the gate in front of an instruction says. -/
inductive Gate where
  | trap (t : Trap)
  | stall
  | go
  deriving DecidableEq, Repr

/-- Whether an access of the current wave is still under way, which in save and restore mode completes before the next instruction issues (R431). -/
def State.accessOut (s : State) : Bool := !(s.wave s.cur).loads.isEmpty || s.reqs.any (fun q => q.ident == s.cur && q.use == .home)

/-- The checks that come before an instruction executes: the control core's set (R174), the save and restore set (R432), the place after the marker (R166), then the waits of R60, R95 and R103; in save and restore mode also that for the accesses of the instructions before (R431). -/
def State.gate (s : State) (i : Instr) : Gate :=
  let w := s.wave s.cur
  if w.ctl && !ctlAllows i then .trap (illop 0x0E 0)
  else if w.mode != .normal && !modeAllows w.mode i then .trap (illop 0x11 0)
  else if w.mode == .normal && !w.ctl && nonIdem i && !w.rgn.first then .trap (illop 0x0D 0)
  else if hazard w i then .stall
  else if w.mode != .normal && s.accessOut then .stall
  else if w.mode == .normal && nonIdem i && s.unverified s.cur then .stall
  else .go

/-- An ILLOP gets the first parcel of the instruction (R244). -/
def withParcel (w : Wave) (t : Trap) : Trap :=
  if t.cause = 1 then { t with detail := t.detail + BitVec.ofNat 64 (w.parcel.toNat * 2 ^ 32) } else t

/-- A fault of the instruction that executes. -/
def State.trapCur (s : State) (t : Trap) : State := s.raise s.cur (withParcel (s.wave s.cur) t)

/-- The instruction waits and is tried again (R150). -/
def State.stall (s : State) : State := s.modWave s.cur (fun w => { w with st := .stalled })

/-! ## Completing -/

/-- The wave n bytes further on: in the variant's code while it executes one (R376), else in memory. -/
def Wave.skip (w : Wave) (n : Nat) : Wave :=
  match w.gz.choice with
  | .variant id off => { w with gz := { w.gz with choice := .variant id (off + n) } }
  | _ => { w with pc := BitVec.ofNat 64 ((w.pc.toNat + n) % 2 ^ 64) }

/-- The wave n bytes further back. -/
def Wave.back (w : Wave) (n : Nat) : Wave :=
  match w.gz.choice with
  | .variant id off => { w with gz := { w.gz with choice := .variant id (off - n) } }
  | _ => { w with pc := BitVec.ofNat 64 ((w.pc.toNat + 2 ^ 64 - n % 2 ^ 64) % 2 ^ 64) }

/-- What an instruction's completion does to the restart region: a leading non-idempotent instruction adds its destination to the live-in set, and the checkpoint and the restart point move past it (R166). -/
def Wave.complete (i : Instr) (w : Wave) : Wave :=
  let w := { w with st := .ready, step := 0, wait := .none, eng := [], engi := 0, sched := none }
  if w.ctl || w.mode != .normal then w
  else if nonIdem i then
    let d := (instrDst i).filter (fun c => c < 240 || (320 ≤ c && c < 328))
    { w with rgn := { w.rgn with first := false, lead := false, led := true, ldest := d.head?, lwide := d.length, ckpt := w.checkpoint, rpc := w.pc } }
  else { w with rgn := { w.rgn with first := false } }

/-- The codes that an instruction writes in a wave: of pack.tile every register of its run (R304). -/
def runDst (w : Wave) (i : Instr) : List Nat :=
  match i with
  | .packTile ds (.v r) _ n => (List.range ((srcLV w 3 .i64 true n 0).val % 64 / tileElems ds)).map (fun j => r + j)
  | i => instrDst i

/-- The results that come later than the next issue (R278, R60). -/
def Wave.late (i : Instr) (w : Wave) : Wave := if latency i = 0 then w else { w with busy := w.busy ++ [runDst w i] }

/-- Live-out words whose registers are written are fresh no more (R380). -/
def Wave.unfresh (cs : List Nat) (w : Wave) : Wave :=
  if w.gz.fresh.isEmpty then w else { w with gz := { w.gz with fresh := w.gz.fresh.filter (fun x => !cs.contains x.1) } }

/-- Fresh live-out words whose register an instruction writes are fresh no more (R380). -/
def Wave.stale (i : Instr) (w : Wave) : Wave := w.unfresh (runDst w i)

/-- While a variant executes, the live-out lanes that an instruction writes in Active are noted, to be tainted when it commits (R380). -/
def Wave.variantTaint (w : Wave) (i : Instr) (before : Wave) : Wave :=
  match before.gz.choice with
  | .variant _ _ =>
    let g : Guard := (match i.view with | some v => v.guard | none => none).getD ⟨0, false⟩
    let ls := active before g
    { w with gz := { w.gz with wrote := w.gz.wrote ++ ((instrDst i).filter (fun c => w.gz.outs.contains c)).flatMap (fun c => ls.map (fun l => (c, l))) } }
  | _ => w

/-- A register or predicate lane tainted. -/
def Wave.taintLane (w : Wave) (c l : Nat) : Wave :=
  if c < 240 then { w with taint := { w.taint with v := mset false w.taint.v (key c l) true } }
  else if c < 1024 then { w with taint := { w.taint with o := mset false w.taint.o (key (c - 320) l) true } }
  else { w with taint := { w.taint with p := mset false w.taint.p (key (c - 1024) l) true } }

/-- The end of an instruction that continues at the next one. -/
def Wave.finish (i : Instr) (w : Wave) : Wave := (w.skip i.length).complete i

/-- An instruction of groups 1 to 5 (R261 to R310): the gate, its effect on the wave, its completion. -/
def runEff (i : Instr) (e : Eff) (s : State) : Host.Outcome State Fault Refusal :=
  match s.gate i with
  | .trap t => .next (s.trapCur t)
  | .stall => .next s.stall
  | .go =>
    match e (s.wave s.cur) with
    | .error t => .next (s.trapCur t)
    | .ok w => .next (s.setWave s.cur ((((w.variantTaint i (s.wave s.cur)).late i).stale i).finish i))

/-- The gate in front of an instruction of the other groups. -/
def gated (i : Instr) (s : State) (f : State) : Host.Outcome State Fault Refusal :=
  match s.gate i with
  | .trap t => .next (s.trapCur t)
  | .stall => .next s.stall
  | .go => .next f

/-- Completion of the current instruction with a change of its wave. -/
def State.finishCur (s : State) (i : Instr) (f : Wave → Wave) : State :=
  s.modWave s.cur (fun w => ((f w).stale i).finish i)

/-- Completion of an instruction of any wave. -/
def State.finishAt (s : State) (id : Nat) (i : Instr) (f : Wave → Wave) : State := s.modWave id (fun w => ((f w).stale i).finish i)

/-- UEPOISON of a scalar source of the current wave, if it is poisoned (R245). -/
def State.ueScalar (s : State) (xs : List (Nat × Src)) : Option Trap :=
  scalarTrap (xs.map (fun x => scalarLV (s.wave s.cur) x.1 x.2))

/-- A scalar source's value in the current wave. -/
def State.sval (s : State) (x : Src) : Nat := (scalarLV (s.wave s.cur) 2 x).val

end Sys2Proof.Machine
end

