-- ==== Sys2Proof/Machine/Compact.lean ====
section
/-! DEFINITION. Pairs and compact forms (R226 to R230). -/

namespace Sys2Proof.Machine

def execPair (x y : Half) (s : State) : Host.Outcome State Fault Refusal :=
  runEff (.pair x y) (effPair x y) s

def execAddU32Compact (d : Dst) (a : Src) (b : Src) (s : State) : Host.Outcome State Fault Refusal :=
  runEff (.addU32Compact d a b) (effCompact ⟨.addU32, d, a, some b⟩) s

def execSubU32Compact (d : Dst) (a : Src) (b : Src) (s : State) : Host.Outcome State Fault Refusal :=
  runEff (.subU32Compact d a b) (effCompact ⟨.subU32, d, a, some b⟩) s

def execMulU32Compact (d : Dst) (a : Src) (b : Src) (s : State) : Host.Outcome State Fault Refusal :=
  runEff (.mulU32Compact d a b) (effCompact ⟨.mulU32, d, a, some b⟩) s

def execMadU32Compact (d : Dst) (a : Src) (b : Src) (s : State) : Host.Outcome State Fault Refusal :=
  runEff (.madU32Compact d a b) (effCompact ⟨.madU32, d, a, some b⟩) s

def execAndU32Compact (d : Dst) (a : Src) (b : Src) (s : State) : Host.Outcome State Fault Refusal :=
  runEff (.andU32Compact d a b) (effCompact ⟨.andU32, d, a, some b⟩) s

def execOrU32Compact (d : Dst) (a : Src) (b : Src) (s : State) : Host.Outcome State Fault Refusal :=
  runEff (.orU32Compact d a b) (effCompact ⟨.orU32, d, a, some b⟩) s

def execXorU32Compact (d : Dst) (a : Src) (b : Src) (s : State) : Host.Outcome State Fault Refusal :=
  runEff (.xorU32Compact d a b) (effCompact ⟨.xorU32, d, a, some b⟩) s

def execShlU32Compact (d : Dst) (a : Src) (b : Src) (s : State) : Host.Outcome State Fault Refusal :=
  runEff (.shlU32Compact d a b) (effCompact ⟨.shlU32, d, a, some b⟩) s

def execShrU32Compact (d : Dst) (a : Src) (b : Src) (s : State) : Host.Outcome State Fault Refusal :=
  runEff (.shrU32Compact d a b) (effCompact ⟨.shrU32, d, a, some b⟩) s

def execSarI32Compact (d : Dst) (a : Src) (b : Src) (s : State) : Host.Outcome State Fault Refusal :=
  runEff (.sarI32Compact d a b) (effCompact ⟨.sarI32, d, a, some b⟩) s

def execMinI32Compact (d : Dst) (a : Src) (b : Src) (s : State) : Host.Outcome State Fault Refusal :=
  runEff (.minI32Compact d a b) (effCompact ⟨.minI32, d, a, some b⟩) s

def execMaxI32Compact (d : Dst) (a : Src) (b : Src) (s : State) : Host.Outcome State Fault Refusal :=
  runEff (.maxI32Compact d a b) (effCompact ⟨.maxI32, d, a, some b⟩) s

def execMinU32Compact (d : Dst) (a : Src) (b : Src) (s : State) : Host.Outcome State Fault Refusal :=
  runEff (.minU32Compact d a b) (effCompact ⟨.minU32, d, a, some b⟩) s

def execMaxU32Compact (d : Dst) (a : Src) (b : Src) (s : State) : Host.Outcome State Fault Refusal :=
  runEff (.maxU32Compact d a b) (effCompact ⟨.maxU32, d, a, some b⟩) s

def execAddSatI32Compact (d : Dst) (a : Src) (b : Src) (s : State) : Host.Outcome State Fault Refusal :=
  runEff (.addSatI32Compact d a b) (effCompact ⟨.addSatI32, d, a, some b⟩) s

def execSubSatI32Compact (d : Dst) (a : Src) (b : Src) (s : State) : Host.Outcome State Fault Refusal :=
  runEff (.subSatI32Compact d a b) (effCompact ⟨.subSatI32, d, a, some b⟩) s

def execMovU32Compact (d : Dst) (a : Src) (s : State) : Host.Outcome State Fault Refusal :=
  runEff (.movU32Compact d a) (effCompact ⟨.movU32, d, a, none⟩) s

def execNotU32Compact (d : Dst) (a : Src) (s : State) : Host.Outcome State Fault Refusal :=
  runEff (.notU32Compact d a) (effCompact ⟨.notU32, d, a, none⟩) s

def execAbsI32Compact (d : Dst) (a : Src) (s : State) : Host.Outcome State Fault Refusal :=
  runEff (.absI32Compact d a) (effCompact ⟨.absI32, d, a, none⟩) s

def execClzU32Compact (d : Dst) (a : Src) (s : State) : Host.Outcome State Fault Refusal :=
  runEff (.clzU32Compact d a) (effCompact ⟨.clzU32, d, a, none⟩) s

def execPopcU32Compact (d : Dst) (a : Src) (s : State) : Host.Outcome State Fault Refusal :=
  runEff (.popcU32Compact d a) (effCompact ⟨.popcU32, d, a, none⟩) s

def execMulhI32Compact (d : Dst) (a : Src) (b : Src) (s : State) : Host.Outcome State Fault Refusal :=
  runEff (.mulhI32Compact d a b) (effCompact ⟨.mulhI32, d, a, some b⟩) s

def execMulhU32Compact (d : Dst) (a : Src) (b : Src) (s : State) : Host.Outcome State Fault Refusal :=
  runEff (.mulhU32Compact d a b) (effCompact ⟨.mulhU32, d, a, some b⟩) s

def execAddSatU32Compact (d : Dst) (a : Src) (b : Src) (s : State) : Host.Outcome State Fault Refusal :=
  runEff (.addSatU32Compact d a b) (effCompact ⟨.addSatU32, d, a, some b⟩) s

def execFaddF32Compact (d : Dst) (a : Src) (b : Src) (s : State) : Host.Outcome State Fault Refusal :=
  runEff (.faddF32Compact d a b) (effCompact ⟨.faddF32, d, a, some b⟩) s

def execFsubF32Compact (d : Dst) (a : Src) (b : Src) (s : State) : Host.Outcome State Fault Refusal :=
  runEff (.fsubF32Compact d a b) (effCompact ⟨.fsubF32, d, a, some b⟩) s

def execFmulF32Compact (d : Dst) (a : Src) (b : Src) (s : State) : Host.Outcome State Fault Refusal :=
  runEff (.fmulF32Compact d a b) (effCompact ⟨.fmulF32, d, a, some b⟩) s

def execFmaF32Compact (d : Dst) (a : Src) (b : Src) (s : State) : Host.Outcome State Fault Refusal :=
  runEff (.fmaF32Compact d a b) (effCompact ⟨.fmaF32, d, a, some b⟩) s

def execFminF32Compact (d : Dst) (a : Src) (b : Src) (s : State) : Host.Outcome State Fault Refusal :=
  runEff (.fminF32Compact d a b) (effCompact ⟨.fminF32, d, a, some b⟩) s

def execFmaxF32Compact (d : Dst) (a : Src) (b : Src) (s : State) : Host.Outcome State Fault Refusal :=
  runEff (.fmaxF32Compact d a b) (effCompact ⟨.fmaxF32, d, a, some b⟩) s

def execFaddF16Compact (d : Dst) (a : Src) (b : Src) (s : State) : Host.Outcome State Fault Refusal :=
  runEff (.faddF16Compact d a b) (effCompact ⟨.faddF16, d, a, some b⟩) s

def execFmulF16Compact (d : Dst) (a : Src) (b : Src) (s : State) : Host.Outcome State Fault Refusal :=
  runEff (.fmulF16Compact d a b) (effCompact ⟨.fmulF16, d, a, some b⟩) s

def execFmaF16Compact (d : Dst) (a : Src) (b : Src) (s : State) : Host.Outcome State Fault Refusal :=
  runEff (.fmaF16Compact d a b) (effCompact ⟨.fmaF16, d, a, some b⟩) s

def execFaddBf16Compact (d : Dst) (a : Src) (b : Src) (s : State) : Host.Outcome State Fault Refusal :=
  runEff (.faddBf16Compact d a b) (effCompact ⟨.faddBf16, d, a, some b⟩) s

def execFmulBf16Compact (d : Dst) (a : Src) (b : Src) (s : State) : Host.Outcome State Fault Refusal :=
  runEff (.fmulBf16Compact d a b) (effCompact ⟨.fmulBf16, d, a, some b⟩) s

def execFmaBf16Compact (d : Dst) (a : Src) (b : Src) (s : State) : Host.Outcome State Fault Refusal :=
  runEff (.fmaBf16Compact d a b) (effCompact ⟨.fmaBf16, d, a, some b⟩) s

def execFrcpF32Compact (d : Dst) (a : Src) (s : State) : Host.Outcome State Fault Refusal :=
  runEff (.frcpF32Compact d a) (effCompact ⟨.frcpF32, d, a, none⟩) s

def execFrsqF32Compact (d : Dst) (a : Src) (s : State) : Host.Outcome State Fault Refusal :=
  runEff (.frsqF32Compact d a) (effCompact ⟨.frsqF32, d, a, none⟩) s

def execFexp2F32Compact (d : Dst) (a : Src) (s : State) : Host.Outcome State Fault Refusal :=
  runEff (.fexp2F32Compact d a) (effCompact ⟨.fexp2F32, d, a, none⟩) s

def execFlog2F32Compact (d : Dst) (a : Src) (s : State) : Host.Outcome State Fault Refusal :=
  runEff (.flog2F32Compact d a) (effCompact ⟨.flog2F32, d, a, none⟩) s

def execFsubF16Compact (d : Dst) (a : Src) (b : Src) (s : State) : Host.Outcome State Fault Refusal :=
  runEff (.fsubF16Compact d a b) (effCompact ⟨.fsubF16, d, a, some b⟩) s

def execFsubBf16Compact (d : Dst) (a : Src) (b : Src) (s : State) : Host.Outcome State Fault Refusal :=
  runEff (.fsubBf16Compact d a b) (effCompact ⟨.fsubBf16, d, a, some b⟩) s

def execAddU16Compact (d : Dst) (a : Src) (b : Src) (s : State) : Host.Outcome State Fault Refusal :=
  runEff (.addU16Compact d a b) (effCompact ⟨.addU16, d, a, some b⟩) s

def execSubU16Compact (d : Dst) (a : Src) (b : Src) (s : State) : Host.Outcome State Fault Refusal :=
  runEff (.subU16Compact d a b) (effCompact ⟨.subU16, d, a, some b⟩) s

def execFminF16Compact (d : Dst) (a : Src) (b : Src) (s : State) : Host.Outcome State Fault Refusal :=
  runEff (.fminF16Compact d a b) (effCompact ⟨.fminF16, d, a, some b⟩) s

def execFmaxF16Compact (d : Dst) (a : Src) (b : Src) (s : State) : Host.Outcome State Fault Refusal :=
  runEff (.fmaxF16Compact d a b) (effCompact ⟨.fmaxF16, d, a, some b⟩) s

def execFminBf16Compact (d : Dst) (a : Src) (b : Src) (s : State) : Host.Outcome State Fault Refusal :=
  runEff (.fminBf16Compact d a b) (effCompact ⟨.fminBf16, d, a, some b⟩) s

def execFmaxBf16Compact (d : Dst) (a : Src) (b : Src) (s : State) : Host.Outcome State Fault Refusal :=
  runEff (.fmaxBf16Compact d a b) (effCompact ⟨.fmaxBf16, d, a, some b⟩) s

def execSubSatU32Compact (d : Dst) (a : Src) (b : Src) (s : State) : Host.Outcome State Fault Refusal :=
  runEff (.subSatU32Compact d a b) (effCompact ⟨.subSatU32, d, a, some b⟩) s

/-- The compact no-op (R230): it advances the PC; like nop it leaves the latches, though R63 says of compact forms that they do not (DESIGN CHOICE, log 139). -/
def execCnop (s : State) : Host.Outcome State Fault Refusal :=
  runEff .cnop (fun w => .ok w) s

end Sys2Proof.Machine
end

