-- ==== Sys2Proof/Machine/Convert.lean ====
section
/-! DEFINITION. Group 5: conversion and checks (R301 to R310). -/

namespace Sys2Proof.Machine

def execCvt (dst : Fmt) (src : Fmt) (g : Guard) (d : Dst) (a : HSrc) (s : State) : Host.Outcome State Fault Refusal :=
  runEff (.cvt dst src g d a) (effCvt dst src g d a) s

def execPack (dst : Fmt) (src : Fmt) (g : Guard) (d : Dst) (a : HSrc) (b : HSrc) (s : State) : Host.Outcome State Fault Refusal :=
  runEff (.pack dst src g d a b) (effPack dst src g d a b) s

def execPackTile (dst : Fmt) (d : Dst) (f : Src) (n : Src) (s : State) : Host.Outcome State Fault Refusal :=
  runEff (.packTile dst d f n) (effPackTile (s.wave s.cur).budget dst d f n) s

def execUnpk (dst : Fmt) (src : Fmt) (g : Guard) (d : Dst) (a : HSrc) (k : HSrc) (s : State) : Host.Outcome State Fault Refusal :=
  runEff (.unpk dst src g d a k) (effUnpk dst src g d a k) s

def execQnt (dst : Fmt) (g : Guard) (d : Dst) (a : HSrc) (sc : HSrc) (s : State) : Host.Outcome State Fault Refusal :=
  runEff (.qnt dst g d a sc) (effQnt dst g d a sc) s

def execDqnt (src : Fmt) (g : Guard) (d : Dst) (a : HSrc) (sc : HSrc) (s : State) : Host.Outcome State Fault Refusal :=
  runEff (.dqnt src g d a sc) (effDqnt src g d a sc) s

def execCsum (kind : FoldKind) (g : Guard) (d : Dst) (a : HSrc) (s : State) : Host.Outcome State Fault Refusal :=
  runEff (.csum kind g d a) (effCsum kind g d a) s

def execChk (kind : ChkKind) (g : Guard) (a : HSrc) (b : HSrc) (s : State) : Host.Outcome State Fault Refusal :=
  runEff (.chk kind g a b) (effChk kind g a b) s

end Sys2Proof.Machine
end

