-- ==== Sys2Proof/Machine/Float.lean ====
section
/-! DEFINITION. Group 4: floating point (R293 to R300). -/

namespace Sys2Proof.Machine

def execFadd (t : FTy) (g : Guard) (d : Dst) (a : HSrc) (b : HSrc) (s : State) : Host.Outcome State Fault Refusal :=
  runEff (.fadd t g d a b) (effFadd t g d a b) s

def execFsub (t : FTy) (g : Guard) (d : Dst) (a : HSrc) (b : HSrc) (s : State) : Host.Outcome State Fault Refusal :=
  runEff (.fsub t g d a b) (effFsub t g d a b) s

def execFmul (t : FTy) (g : Guard) (d : Dst) (a : HSrc) (b : HSrc) (s : State) : Host.Outcome State Fault Refusal :=
  runEff (.fmul t g d a b) (effFmul t g d a b) s

def execFma (t : FTy) (g : Guard) (d : Dst) (a : HSrc) (b : HSrc) (c : HSrc) (s : State) : Host.Outcome State Fault Refusal :=
  runEff (.fma t g d a b c) (effFma t g d a b c) s

def execFmin (t : FTy) (g : Guard) (d : Dst) (a : HSrc) (b : HSrc) (s : State) : Host.Outcome State Fault Refusal :=
  runEff (.fmin t g d a b) (effFmin t g d a b) s

def execFmax (t : FTy) (g : Guard) (d : Dst) (a : HSrc) (b : HSrc) (s : State) : Host.Outcome State Fault Refusal :=
  runEff (.fmax t g d a b) (effFmax t g d a b) s

def execFdiv (t : FTy) (g : Guard) (d : Dst) (a : HSrc) (b : HSrc) (s : State) : Host.Outcome State Fault Refusal :=
  runEff (.fdiv t g d a b) (effFdiv t g d a b) s

def execFsqrt (t : FTy) (g : Guard) (d : Dst) (a : HSrc) (s : State) : Host.Outcome State Fault Refusal :=
  runEff (.fsqrt t g d a) (effFsqrt t g d a) s

def execFrcp (t : FTy) (g : Guard) (d : Dst) (a : HSrc) (s : State) : Host.Outcome State Fault Refusal :=
  runEff (.frcp t g d a) (effFrcp t g d a) s

def execFrsq (t : FTy) (g : Guard) (d : Dst) (a : HSrc) (s : State) : Host.Outcome State Fault Refusal :=
  runEff (.frsq t g d a) (effFrsq t g d a) s

def execFexp2 (t : FTy) (g : Guard) (d : Dst) (a : HSrc) (s : State) : Host.Outcome State Fault Refusal :=
  runEff (.fexp2 t g d a) (effFexp2 t g d a) s

def execFlog2 (t : FTy) (g : Guard) (d : Dst) (a : HSrc) (s : State) : Host.Outcome State Fault Refusal :=
  runEff (.flog2 t g d a) (effFlog2 t g d a) s

def execFsin (t : FTy) (g : Guard) (d : Dst) (a : HSrc) (s : State) : Host.Outcome State Fault Refusal :=
  runEff (.fsin t g d a) (effFsin t g d a) s

def execFcos (t : FTy) (g : Guard) (d : Dst) (a : HSrc) (s : State) : Host.Outcome State Fault Refusal :=
  runEff (.fcos t g d a) (effFcos t g d a) s

def execFtanh (t : FTy) (g : Guard) (d : Dst) (a : HSrc) (s : State) : Host.Outcome State Fault Refusal :=
  runEff (.ftanh t g d a) (effFtanh t g d a) s

def execFcmp (t : FTy) (cond : FCond) (g : Guard) (p : Nat) (a : HSrc) (b : HSrc) (s : State) : Host.Outcome State Fault Refusal :=
  runEff (.fcmp t cond g p a b) (effFcmp t cond g p a b) s

def execFcls (t : FTy) (g : Guard) (p : Nat) (a : HSrc) (mask : Nat) (s : State) : Host.Outcome State Fault Refusal :=
  runEff (.fcls t g p a mask) (effFcls t g p a mask) s

def execFround (t : FTy) (mode : RndMode) (g : Guard) (d : Dst) (a : HSrc) (s : State) : Host.Outcome State Fault Refusal :=
  runEff (.fround t mode g d a) (effFround t mode g d a) s

def execFdot2 (t : FTy) (g : Guard) (d : Dst) (a : HSrc) (b : HSrc) (c : HSrc) (s : State) : Host.Outcome State Fault Refusal :=
  runEff (.fdot2 t g d a b c) (effFdot2 t g d a b c) s

end Sys2Proof.Machine
end

