-- ==== Sys2Proof/Machine/Masks.lean ====
section
/-! DEFINITION. Structured control (R151 to R154, R248, R249): what each instruction does to EXEC, the mask stack and the place where the wave goes on. -/

namespace Sys2Proof.Machine

/-- The mask-stack entry n (R152). -/
def Wave.ment (w : Wave) (n : Nat) : MEntry := mget {} w.stack n
def Wave.setMent (w : Wave) (n : Nat) (e : MEntry) : Wave := { w with stack := mset {} w.stack n e }

/-- A push (R153). -/
def Wave.push (w : Wave) (e : MEntry) : Wave := { (w.setMent w.depth e) with depth := w.depth + 1 }

/-- The lanes in which a predicate operand, or its complement, holds (R153). -/
def predMask (w : Wave) (neg : Bool) (p : Nat) : W32 := laneMask (fun l => predBit w p l != neg)

/-- The poison that a predicate operand brings in the lanes of EXEC (R396; log 20). -/
def predTrap (w : Wave) (p : Nat) : Option Trap := poisonTrap ((execLanes w).map (fun l => (l, predLV w 2 p l)))

def stackOvf : Trap := { cause := 0x10 }
def badStack : Trap := illop 0x0C 0

/-- if: the skip of R154 when no lane is left. -/
def effIf (neg : Bool) (p off : Nat) : Eff := fun w =>
  if w.depth = 32 then .error stackOvf
  else match predTrap w p with
    | some t => .error t
    | none =>
      let c := w.regs.exec &&& predMask w neg p
      let w := wrExec (w.push ⟨.ifK, w.regs.exec, c⟩) c
      .ok (w.skip (if c = 0 then 4 * off else 8))

def effElse (off : Nat) : Eff := fun w =>
  let e := w.ment (w.depth - 1)
  if w.depth = 0 || e.kind != .ifK then .error badStack
  else
    let m := e.saved &&& ~~~ e.aux
    let w := wrExec (w.setMent (w.depth - 1) { e with kind := .ifElse }) m
    .ok (w.skip (if m = 0 then 4 * off else 8))

def effEndif : Eff := fun w =>
  let e := w.ment (w.depth - 1)
  if w.depth = 0 || !(e.kind == .ifK || e.kind == .ifElse) then .error badStack
  else .ok (Wave.skip { (wrExec w e.saved) with depth := w.depth - 1 } 8)

def effLoop : Eff := fun w =>
  if w.depth = 32 then .error stackOvf else .ok ((w.push ⟨.loopK, w.regs.exec, 0⟩).skip 8)

/-- endloop: back to the body while a lane is left (R153, R249). -/
def effEndloop (off : Nat) : Eff := fun w =>
  let e := w.ment (w.depth - 1)
  if w.depth = 0 || e.kind != .loopK then .error badStack
  else
    let m := w.regs.exec ||| e.aux
    if m != 0 then .ok ((wrExec (w.setMent (w.depth - 1) { e with aux := 0 }) m).back (4 * off))
    else .ok (Wave.skip { (wrExec (w.setMent (w.depth - 1) { e with aux := 0 }) e.saved) with depth := w.depth - 1 } 8)

/-- The innermost loop entry (R153). -/
def innermost (w : Wave) : Nat → Option Nat
  | 0 => none
  | n + 1 => if (w.ment n).kind == .loopK then some n else innermost w n

/-- break and cont: the lanes leave the entries above the loop's; for cont they come back at endloop (R153). -/
def effLeave (again neg : Bool) (p : Nat) : Eff := fun w =>
  match innermost w w.depth with
  | none => .error badStack
  | some n =>
    match predTrap w p with
    | some t => .error t
    | none =>
      let l := w.regs.exec &&& predMask w neg p
      let w1 := (List.range (w.depth - (n + 1))).foldl (fun (x : Wave) k =>
        let e := x.ment (n + 1 + k)
        x.setMent (n + 1 + k) { e with saved := e.saved &&& ~~~ l }) w
      let w2 := if again then w1.setMent n { (w1.ment n) with aux := (w1.ment n).aux ||| l } else w1
      .ok ((wrExec w2 (w.regs.exec &&& ~~~ l)).skip 8)

/-- The effect of a structured control instruction, the place included. -/
def maskEff : Instr → Option Eff
  | .ifP n p o => some (effIf n p o)
  | .elseP o => some (effElse o)
  | .endif => some effEndif
  | .loop => some effLoop
  | .endloop o => some (effEndloop o)
  | .breakP n p => some (effLeave false n p)
  | .contP n p => some (effLeave true n p)
  | _ => none

end Sys2Proof.Machine
end

