-- ==== Sys2Proof/Machine/Pure.lean ====
section
/-! DEFINITION. The effect of every instruction of groups 1 to 5 by its constructor, as Graze executes the code of regions and variants apart from the wave's own issue (R367, R373, R376, R377). -/

namespace Sys2Proof.Machine

/-- The effect on a wave of an instruction that acts on the wave alone; bud is the register budget. -/
def pureEff (bud : Nat) : Instr → Option Eff
  | .nop => some (fun w => .ok w)
  | .cnop => some (fun w => .ok w)
  | .pair x y => some (effPair x y)
  | .sadd d a b => some (effSadd d a b)
  | .ssub d a b => some (effSsub d a b)
  | .smul d a b => some (effSmul d a b)
  | .smulh sg d a b => some (effSmulh sg d a b)
  | .sdiv sg d a b => some (effSdiv sg d a b)
  | .srem sg d a b => some (effSrem sg d a b)
  | .sand d a b => some (effSand d a b)
  | .sor d a b => some (effSor d a b)
  | .sxor d a b => some (effSxor d a b)
  | .sshl d a b => some (effSshl d a b)
  | .sshr d a b => some (effSshr d a b)
  | .ssar d a b => some (effSsar d a b)
  | .smin sg d a b => some (effSmin sg d a b)
  | .smax sg d a b => some (effSmax sg d a b)
  | .scmp sg cond p a b => some (effScmp sg cond p a b)
  | .smov d a => some (effSmov d a)
  | .sli d i => some (effSli d i)
  | .sclz d a => some (effSclz d a)
  | .spopc d a => some (effSpopc d a)
  | .sbfx sg d a pos len => some (effSbfx sg d a pos len)
  | .sbfi d a pos len => some (effSbfi d a pos len)
  | .sadr d base index scale => some (effSadr d base index scale)
  | .sext sg d a len => some (effSext sg d a len)
  | .pand g d a b => some (effPand g d a b)
  | .por g d a b => some (effPor g d a b)
  | .pxor g d a b => some (effPxor g d a b)
  | .pnot g d a => some (effPnot g d a)
  | .pmov g d a => some (effPmov g d a)
  | .pany g d a => some (effPany g d a)
  | .pall g d a => some (effPall g d a)
  | .pcnt g d a => some (effPcnt g d a)
  | .pfirst g d a => some (effPfirst g d a)
  | .pballot g d a => some (effPballot g d a)
  | .add t g d a b => some (effAdd t g d a b)
  | .sub t g d a b => some (effSub t g d a b)
  | .mul t g d a b => some (effMul t g d a b)
  | .mulh t sg g d a b => some (effMulh t sg g d a b)
  | .mad t g d a b c => some (effMad t g d a b c)
  | .div t sg g d a b => some (effDiv t sg g d a b)
  | .rem t sg g d a b => some (effRem t sg g d a b)
  | .min t sg g d a b => some (effMin t sg g d a b)
  | .max t sg g d a b => some (effMax t sg g d a b)
  | .abs t sg g d a => some (effAbs t sg g d a)
  | .and t g d a b => some (effAnd t g d a b)
  | .or t g d a b => some (effOr t g d a b)
  | .xor t g d a b => some (effXor t g d a b)
  | .not t g d a => some (effNot t g d a)
  | .shl t g d a b => some (effShl t g d a b)
  | .shr t g d a b => some (effShr t g d a b)
  | .sar t g d a b => some (effSar t g d a b)
  | .clz t g d a => some (effClz t g d a)
  | .popc t g d a => some (effPopc t g d a)
  | .bfx t sg g d a pos len => some (effBfx t sg g d a pos len)
  | .bfi t g d a pos len => some (effBfi t g d a pos len)
  | .sel t g d a b p => some (effSel t g d a b p)
  | .cmp t sg cond g p a b => some (effCmp t sg cond g p a b)
  | .mov t g d a => some (effMov t g d a)
  | .shfl t mode g d a b => some (effShfl t mode g d a b)
  | .bcast t g d a n => some (effBcast t g d a n)
  | .lred t sg op g d a => some (effLred t sg op g d a)
  | .lscan t sg op excl g d a => some (effLscan t sg op excl g d a)
  | .addSat t sg g d a b => some (effAddSat t sg g d a b)
  | .subSat t sg g d a b => some (effSubSat t sg g d a b)
  | .mulSat t sg g d a b => some (effMulSat t sg g d a b)
  | .fadd t g d a b => some (effFadd t g d a b)
  | .fsub t g d a b => some (effFsub t g d a b)
  | .fmul t g d a b => some (effFmul t g d a b)
  | .fma t g d a b c => some (effFma t g d a b c)
  | .fmin t g d a b => some (effFmin t g d a b)
  | .fmax t g d a b => some (effFmax t g d a b)
  | .fdiv t g d a b => some (effFdiv t g d a b)
  | .fsqrt t g d a => some (effFsqrt t g d a)
  | .frcp t g d a => some (effFrcp t g d a)
  | .frsq t g d a => some (effFrsq t g d a)
  | .fexp2 t g d a => some (effFexp2 t g d a)
  | .flog2 t g d a => some (effFlog2 t g d a)
  | .fsin t g d a => some (effFsin t g d a)
  | .fcos t g d a => some (effFcos t g d a)
  | .ftanh t g d a => some (effFtanh t g d a)
  | .fcmp t cond g p a b => some (effFcmp t cond g p a b)
  | .fcls t g p a mask => some (effFcls t g p a mask)
  | .fround t mode g d a => some (effFround t mode g d a)
  | .fdot2 t g d a b c => some (effFdot2 t g d a b c)
  | .cvt dst src g d a => some (effCvt dst src g d a)
  | .pack dst src g d a b => some (effPack dst src g d a b)
  | .packTile dst d f n => some (effPackTile bud dst d f n)
  | .unpk dst src g d a k => some (effUnpk dst src g d a k)
  | .qnt dst g d a sc => some (effQnt dst g d a sc)
  | .dqnt src g d a sc => some (effDqnt src g d a sc)
  | .csum kind g d a => some (effCsum kind g d a)
  | .chk kind g a b => some (effChk kind g a b)
  | .addU32Compact d a b => some (effCompact ⟨.addU32, d, a, some b⟩)
  | .subU32Compact d a b => some (effCompact ⟨.subU32, d, a, some b⟩)
  | .mulU32Compact d a b => some (effCompact ⟨.mulU32, d, a, some b⟩)
  | .madU32Compact d a b => some (effCompact ⟨.madU32, d, a, some b⟩)
  | .andU32Compact d a b => some (effCompact ⟨.andU32, d, a, some b⟩)
  | .orU32Compact d a b => some (effCompact ⟨.orU32, d, a, some b⟩)
  | .xorU32Compact d a b => some (effCompact ⟨.xorU32, d, a, some b⟩)
  | .shlU32Compact d a b => some (effCompact ⟨.shlU32, d, a, some b⟩)
  | .shrU32Compact d a b => some (effCompact ⟨.shrU32, d, a, some b⟩)
  | .sarI32Compact d a b => some (effCompact ⟨.sarI32, d, a, some b⟩)
  | .minI32Compact d a b => some (effCompact ⟨.minI32, d, a, some b⟩)
  | .maxI32Compact d a b => some (effCompact ⟨.maxI32, d, a, some b⟩)
  | .minU32Compact d a b => some (effCompact ⟨.minU32, d, a, some b⟩)
  | .maxU32Compact d a b => some (effCompact ⟨.maxU32, d, a, some b⟩)
  | .addSatI32Compact d a b => some (effCompact ⟨.addSatI32, d, a, some b⟩)
  | .subSatI32Compact d a b => some (effCompact ⟨.subSatI32, d, a, some b⟩)
  | .movU32Compact d a => some (effCompact ⟨.movU32, d, a, none⟩)
  | .notU32Compact d a => some (effCompact ⟨.notU32, d, a, none⟩)
  | .absI32Compact d a => some (effCompact ⟨.absI32, d, a, none⟩)
  | .clzU32Compact d a => some (effCompact ⟨.clzU32, d, a, none⟩)
  | .popcU32Compact d a => some (effCompact ⟨.popcU32, d, a, none⟩)
  | .mulhI32Compact d a b => some (effCompact ⟨.mulhI32, d, a, some b⟩)
  | .mulhU32Compact d a b => some (effCompact ⟨.mulhU32, d, a, some b⟩)
  | .addSatU32Compact d a b => some (effCompact ⟨.addSatU32, d, a, some b⟩)
  | .faddF32Compact d a b => some (effCompact ⟨.faddF32, d, a, some b⟩)
  | .fsubF32Compact d a b => some (effCompact ⟨.fsubF32, d, a, some b⟩)
  | .fmulF32Compact d a b => some (effCompact ⟨.fmulF32, d, a, some b⟩)
  | .fmaF32Compact d a b => some (effCompact ⟨.fmaF32, d, a, some b⟩)
  | .fminF32Compact d a b => some (effCompact ⟨.fminF32, d, a, some b⟩)
  | .fmaxF32Compact d a b => some (effCompact ⟨.fmaxF32, d, a, some b⟩)
  | .faddF16Compact d a b => some (effCompact ⟨.faddF16, d, a, some b⟩)
  | .fmulF16Compact d a b => some (effCompact ⟨.fmulF16, d, a, some b⟩)
  | .fmaF16Compact d a b => some (effCompact ⟨.fmaF16, d, a, some b⟩)
  | .faddBf16Compact d a b => some (effCompact ⟨.faddBf16, d, a, some b⟩)
  | .fmulBf16Compact d a b => some (effCompact ⟨.fmulBf16, d, a, some b⟩)
  | .fmaBf16Compact d a b => some (effCompact ⟨.fmaBf16, d, a, some b⟩)
  | .frcpF32Compact d a => some (effCompact ⟨.frcpF32, d, a, none⟩)
  | .frsqF32Compact d a => some (effCompact ⟨.frsqF32, d, a, none⟩)
  | .fexp2F32Compact d a => some (effCompact ⟨.fexp2F32, d, a, none⟩)
  | .flog2F32Compact d a => some (effCompact ⟨.flog2F32, d, a, none⟩)
  | .fsubF16Compact d a b => some (effCompact ⟨.fsubF16, d, a, some b⟩)
  | .fsubBf16Compact d a b => some (effCompact ⟨.fsubBf16, d, a, some b⟩)
  | .addU16Compact d a b => some (effCompact ⟨.addU16, d, a, some b⟩)
  | .subU16Compact d a b => some (effCompact ⟨.subU16, d, a, some b⟩)
  | .fminF16Compact d a b => some (effCompact ⟨.fminF16, d, a, some b⟩)
  | .fmaxF16Compact d a b => some (effCompact ⟨.fmaxF16, d, a, some b⟩)
  | .fminBf16Compact d a b => some (effCompact ⟨.fminBf16, d, a, some b⟩)
  | .fmaxBf16Compact d a b => some (effCompact ⟨.fmaxBf16, d, a, some b⟩)
  | .subSatU32Compact d a b => some (effCompact ⟨.subSatU32, d, a, some b⟩)
  | _ => none

end Sys2Proof.Machine
end

