-- ==== Sys2Proof/Machine/GrazeCore.lean ====
section
/-! DEFINITION. Graze (14): which regions are targets (R367, R368), what a region or a variant computes apart from its wave, the choice at each marker (R376), comparisons, promotion and culling (R377 to R384), taint buffers and the escape log (R380 to R382), the Graze queue (R385). -/

namespace Sys2Proof.Machine

/-! ## Code -/

/-- A parcel of a function's code, by the tables. -/
def State.parcelAt (s : State) (v va : Nat) : Option Nat :=
  match s.walk v (v57 va) with
  | some p => if canonical va && p.x then some (readN s.mem (p.phys va) 4) else none
  | none => none

/-- The instruction at an address with its length (R216, R217). -/
def State.instrAt (s : State) (v bud va : Nat) : Option (Instr × Nat) :=
  match s.parcelAt v va with
  | none => none
  | some p0 =>
    let n := classLength (p0 % 256)
    let w := (List.range (n / 4 - 1)).foldl (fun (x : Option Nat) k =>
      match x, s.parcelAt v (va + 4 * (k + 1)) with
      | some x, some p => some (x + p * 2 ^ (32 * (k + 1)))
      | _, _ => none) (some p0)
    match w with
    | some w => match decodeWord bud w with
      | .ok i => some (i, n)
      | _ => none
    | none => none

/-- Code with its byte offsets. -/
abbrev Code := List (Nat × Instr)

/-- From an address to the next marker: the code, the marker's offset and its live-in set. -/
def State.scan (s : State) (v bud start : Nat) : Nat → Nat → Code → Option (Code × Nat × Nat × Nat)
  | 0, _, _ => none
  | n + 1, off, acc =>
    match s.instrAt v bud (start + off) with
    | some (.region vl ol, _) => some (acc, off, vl, ol)
    | some (i, k) => s.scan v bud start n (off + k) (acc ++ [(off, i)])
    | none => none

/-- A Fold entry's code. -/
def decodeCode (bud : Nat) : Nat → Nat → List W32 → Option Code
  | 0, _, _ => none
  | _, _, [] => some []
  | n + 1, off, ws =>
    match decodeBytes bud (ws.flatMap (fun w => toBytes w.toNat 4)) with
    | (.ok i, k) => (decodeCode bud n (off + k) (ws.drop (k / 4))).map (fun c => (off, i) :: c)
    | _ => none

/-! ## What code reads and writes (R367, R368) -/

/-- The codes an instruction reads. -/
def instrReads (i : Instr) : List Nat :=
  let half := fun (h : Half) => srcRegs false h.a ++ (match h.b with | some b => srcRegs false b | none => []) ++ (if h.op.accum then dstRegs false h.d else [])
  match i with
  | .pair x y => half x ++ half y
  | i => match i.view with
    | some v => opdRegs v.a ++ opdRegs v.b ++ opdRegs v.c ++ (match v.guard with | some g => [1024 + g.p] | none => [])
        ++ (match i with | .bfi .. => opdRegs v.d | .csum .. => opdRegs v.d | .sbfi .. => opdRegs v.d | _ => [])
    | none => match i.compactHalf with
      | some h => half h
      | none => []

/-- Whether an instruction may stand in a target (R246, R282, R334, R366, R367). -/
def pureKind : Instr → Bool
  | .nop | .cnop | .ifP .. | .elseP _ | .endif | .loop | .endloop _ | .breakP .. | .contP .. => true
  | .shfl .. | .bcast .. | .lred .. | .lscan .. | .pany .. | .pall .. | .pcnt .. | .pfirst .. | .pballot .. => false
  | .packTile .. | .csum .. | .chk .. => false
  | .pair _ _ => true
  | i => match i.view with
    | some v => 1 ≤ v.op / 128 && v.op / 128 ≤ 5
    | none => i.compactHalf.isSome

/-- How much an instruction counts toward the 32 (R367). -/
def halves : Instr → Nat
  | .pair _ _ => 2
  | _ => 1

/-- A structured construct that is open, with the registers written on every path so far. -/
inductive Frame where
  | ifF (before : List Nat)
  | elseF (thenSet : List Nat)
  | loopF (exits : List (List Nat))
  deriving DecidableEq, Repr

/-- How a group 3 instruction first uses a live-in (R368): the width and the signedness of its type, and whether the register is a whole operand (0; of a 64-bit type a count, a position or a length, which one register holds, R286), or the lower (1) or the upper word (2) of a pair. -/
structure IntUse where
  width : Nat
  signed : Bool
  part : Nat := 0
  deriving DecidableEq, Repr

/-- The live-in analysis under way: written on every path, live-ins in order of first use with an integer use, registers written, open constructs. -/
structure Flow where
  done : List Nat := []
  ins : List (Nat × Option IntUse) := []
  outs : List Nat := []
  frames : List Frame := []
  ok : Bool := true
  deriving DecidableEq, Repr

def meet (a b : List Nat) : List Nat := a.filter (fun x => b.contains x)

/-- The registers written on every path that leaves the innermost open loop here. -/
def addExit (d : List Nat) : List Frame → List Frame
  | [] => []
  | .loopF e :: r => .loopF (d :: e) :: r
  | f :: r => f :: addExit d r

/-- The integer type of a restricted opcode (R230, R368): width and whether it is signed. -/
def ropUse (o : ROp) : Option IntUse :=
  match ropKind o with
  | .i32 => some { width := 32, signed := [ROp.sarI32, .minI32, .maxI32, .addSatI32, .subSatI32, .absI32, .mulhI32].contains o }
  | .i16 => some { width := 16, signed := o == .minI16 || o == .maxI16 }
  | _ => none

/-- The integer uses of an operand's registers by a type (R286, R368). -/
def opdUses (width : Nat) (sg : Bool) (o : Opd) : List (Nat × Option IntUse) :=
  match opdRegs o with
  | [c, d] => [(c, some { width, signed := sg, part := 1 }), (d, some { width, signed := sg, part := 2 })]
  | cs => cs.map (fun c => (c, some { width, signed := sg }))

/-- The registers an instruction reads, in order, with the integer type by which a group 3 instruction uses them (R368); sg is the AUX bit of its word (R232). -/
def typedReads (i : Instr) (sg : Bool) : List (Nat × Option IntUse) :=
  let half := fun (h : Half) => (srcRegs false h.a ++ (match h.b with | some b => srcRegs false b | none => []) ++ (if h.op.accum then dstRegs false h.d else [])).map (fun c => (c, ropUse h.op))
  match i with
  | .pair x y => half x ++ half y
  | i => match i.view with
    | some v =>
      if v.op / 128 = 3 then
        let use := opdUses (if v.op % 4 = 1 then 64 else if v.op % 4 = 2 then 16 else if v.op % 4 = 3 then 8 else 32) sg
        use v.a ++ use v.b ++ use v.c ++ (match i with | .bfi .. => use v.d | _ => []) ++ (match v.guard with | some g => [(1024 + g.p, none)] | none => [])
      else (instrReads i).map (fun c => (c, none))
    | none => match i.compactHalf with
      | some h => half h
      | none => []

def Flow.step (f : Flow) (i : Instr) (sg : Bool) : Flow :=
  let rs := (typedReads i sg).filter (fun x => !(328 ≤ x.1 && x.1 < 330) && x.1 != 1024)
  let f := rs.foldl (fun (f : Flow) x => if f.done.contains x.1 || f.ins.any (fun y => y.1 == x.1) then f else { f with ins := f.ins ++ [x] }) f
  let ds := instrDst i
  let guarded : Bool := match i.view with | some v => (match v.guard with | some g => g != ⟨0, false⟩ | none => false) | none => false
  let f := { f with outs := f.outs ++ (ds.filter (fun c => !f.outs.contains c)), done := if guarded then f.done else f.done ++ ds }
  match i, f.frames with
  | .ifP .., fr => { f with frames := .ifF f.done :: fr }
  | .elseP _, .ifF b :: fr => { f with frames := .elseF f.done :: fr, done := b }
  | .elseP _, _ => { f with ok := false }
  | .endif, .ifF b :: fr => { f with frames := fr, done := b }
  | .endif, .elseF t :: fr => { f with frames := fr, done := meet t f.done }
  | .endif, _ => { f with ok := false }
  | .loop, fr => { f with frames := .loopF [] :: fr }
  | .breakP .., fr => { f with frames := addExit f.done fr, ok := f.ok && fr.any (fun x => match x with | .loopF _ => true | _ => false) }
  | .contP .., fr => { f with ok := f.ok && fr.any (fun x => match x with | .loopF _ => true | _ => false) }
  | .endloop _, .loopF e :: fr => { f with frames := fr, done := match e with | [] => f.done | x :: r => r.foldl meet x }
  | .endloop _, _ => { f with ok := false }
  | _, _ => f

/-- Insertion into a rising list. -/
def sortCodes (xs : List Nat) : List Nat := xs.foldl nsAdd []

/-- A region as Graze sees it: live-ins and live-outs in rising register order (log 21). -/
structure RInfo where
  code : Code
  close : Nat
  vlive : Nat
  olive : Nat
  vin : List Nat
  sin : Option Nat
  pin : List Nat
  vout : List Nat
  pout : List Nat
  ints : List (Nat × IntUse)
  ok : Bool
  deriving DecidableEq, Repr

/-- The offset of the else, where one is asked for, or of the endif that matches an if behind which the code stands, n ifs deeper (R154, R248). -/
def matchIf (toElse : Bool) : Nat → Code → Option Nat
  | _, [] => none
  | n, (off, i) :: r =>
    match i with
    | .ifP .. => matchIf toElse (n + 1) r
    | .elseP _ => if toElse && n == 0 then some off else matchIf toElse n r
    | .endif => match n with
      | 0 => some off
      | n + 1 => matchIf toElse n r
    | _ => matchIf toElse n r

/-- The offset of the body of the loop that an endloop ends; the code before it stands last first (R153, R248). -/
def matchLoop : Nat → Code → Option Nat
  | _, [] => none
  | n, (off, i) :: r =>
    match i with
    | .endloop _ => matchLoop (n + 1) r
    | .loop => match n with
      | 0 => some (off + i.length)
      | n + 1 => matchLoop n r
    | _ => matchLoop n r

/-- Structured control balances (R367): every offset names the instruction that matches, so that no path leaves the code but at its end (R154, R249); the code before stands last first. -/
def jumpsIn (before : Code) : Code → Bool
  | [] => true
  | x :: r => (match x.2 with
      | .ifP _ _ o => matchIf true 0 r == some (x.1 + 4 * o)
      | .elseP o => matchIf false 0 r == some (x.1 + 4 * o)
      | .endloop o => decide (4 * o ≤ x.1) && matchLoop 0 before == some (x.1 - 4 * o)
      | _ => true) && jumpsIn (x :: before) r

/-- The region whose marker stands at pc (R367, R368). -/
def State.region (s : State) (v bud pc : Nat) : Option RInfo :=
  match s.scan v bud (pc + 8) 33 0 [] with
  | none => none
  | some (code, close, vl, ol) =>
    let f := code.foldl (fun f x => f.step x.2 (((s.parcelAt v (pc + 8 + x.1)).getD 0).testBit 12)) ({} : Flow)
    let ins := f.ins.map (·.1)
    let vin := sortCodes (ins.filter (fun c => c < 240 || (320 ≤ c && c < 328)))
    let sin := ins.filter (fun c => 256 ≤ c && c < 320)
    let pin := sortCodes ((ins.filter (fun c => 1024 < c)).map (· - 1024))
    let vout := sortCodes (f.outs.filter (fun c => (c < vl) || (320 ≤ c && c < 328 && ol.testBit (c - 320))))
    let pout := sortCodes ((f.outs.filter (fun c => 1024 < c)).map (· - 1024))
    some { code, close := (pc + 8 + close) % 2 ^ 64, vlive := vl, olive := ol, vin, sin := sin.head?, pin, vout, pout,
           ints := f.ins.filterMap (fun x => match x.2 with | some u => if vin.contains x.1 || sin.contains x.1 then some (x.1, u) else none | none => none),
           ok := f.ok && f.frames.isEmpty && code.all (fun x => pureKind x.2) && jumpsIn [] code
             && (code.map (fun x => halves x.2)).foldl (· + ·) 0 ≤ 32
             && !f.outs.any (fun c => 256 ≤ c && c < 320 || c == 330) && !ins.contains 330
             && vin.length ≤ 8 && sin.length ≤ 1 && pin.length ≤ 8 && vout.length ≤ 4 && pout.length ≤ 4 }

/-! ## Live values and pure runs -/

/-- A 32-bit register word of a lane by its code. -/
def regWord (r : Regs) (c l : Nat) : W32 := if c < 240 then mget 0 r.v (key c l) else mget 0 r.o (key (c - 320) l)
def setWord (r : Regs) (c l : Nat) (x : W32) : Regs :=
  if c < 240 then { r with v := mset 0 r.v (key c l) x } else { r with o := mset 0 r.o (key (c - 320) l) x }

/-- A lane's live values (R371). -/
def liveOf (r : Regs) (vs : List Nat) (sr : Option Nat) (ps : List Nat) (l : Nat) : GLive :=
  { v := vs.map (fun c => regWord r c l),
    s := match sr with | some c => mget 0 r.s (c - 256) | none => 0,
    p := (ps.zipIdx.map (fun x => cond (x.1 == 0 || mget false r.p (key x.1 l)) (2 ^ x.2) 0)).foldl (· + ·) 0 }

/-- The registers with a lane's live-ins. -/
def putLive (info : RInfo) (r : Regs) (l : Nat) (g : GLive) : Regs :=
  let r := (info.vin.zip g.v).foldl (fun r x => setWord r x.1 l x.2) r
  let r := match info.sin with | some c => { r with s := mset 0 r.s (c - 256) g.s } | none => r
  info.pin.zipIdx.foldl (fun (r : Regs) x => { r with p := mset false r.p (key x.1 l) (g.p.testBit x.2) }) r

/-- Code run on a wave until it leaves its end; none when it does not come to an end or faults. -/
def runPure (bud : Nat) (c : Code) (len : Nat) : Nat → Wave → Option Wave
  | 0, _ => none
  | n + 1, w =>
    match w.gz.choice with
    | .variant _ off =>
      if len ≤ off then some w
      else match c.find? (fun x => x.1 == off) with
        | none => none
        | some x =>
          match maskEff x.2 with
          | some e => match e w with
            | .ok w' => runPure bud c len n w'
            | .error _ => none
          | none => match pureEff bud x.2 with
            | some e => match e w with
              | .ok w' => runPure bud c len n ((w'.variantTaint x.2 w).skip x.2.length)
              | .error _ => none
            | none => none
    | _ => none

/-- The wave on which code is run apart: registers, modes and the lanes of EXEC; outs are the live-outs whose writes are noted. -/
def pureWave (r : Regs) (mask fm nm : W32) (outs : List Nat) : Wave :=
  { regs := { r with exec := mask, y := [] }, fmode := fm, nmode := nm, gz := { choice := .variant 0 0, outs := outs } }

/-- How many instructions a pure run may take: a comparison is abandoned after 4,096 cycles (R377). -/
def pureFuel : Nat := 4096
/-- How many a spot check's may take: it always completes (R379), so that no run which ends is cut off. -/
def spotFuel : Nat := 2 ^ 64

/-- The length of a code in bytes. -/
def codeLen (c : Code) : Nat := c.foldl (fun n x => max n (x.1 + x.2.length)) 0

/-! ## Settings and entries (R370, R375) -/

def State.gEnable (s : State) (v : Nat) : Bool := (s.hwN (gBase v + 0x0B) 1).testBit 0
def State.gThreshold (s : State) (v : Nat) : Nat := let n := s.hwN (gBase v + 0x0A) 1; 2 ^ (if n = 0 then 20 else n)
/-- WINDOW in cycles (R370); 1 µs is 1,400 cycles (R2). -/
def State.gWindow (s : State) (v : Nat) : Nat := let n := s.hwN (gBase v + 0x0C) 4; 1400 * (if n = 0 then 10000 else n)
def State.elWrite (s : State) (v : Nat) : Nat := s.hwN (gBase v + 0x18) 8

/-- The level at which a launch acts (R370, R374). -/
def State.gLevel (s : State) (v l : Nat) : Nat :=
  if s.gEnable v then ((s.launch l).map (·.graze)).getD 3 else 3

def State.modFolds (s : State) (v : Nat) (f : List Fold → List Fold) : State :=
  s.modVf v (fun x => { x with graze := { x.graze with folds := f x.graze.folds } })
def State.modFold (s : State) (v q : Nat) (f : Fold → Fold) : State := s.modFolds v (fun l => l.map (fun e => if e.seq == q then f e else e))
def State.fold (s : State) (v q : Nat) : Option Fold := (s.vf v).graze.folds.find? (fun e => e.seq == q)
/-- FoldLookup (R376). -/
def State.foldAt (s : State) (v pc : Nat) (fm nm : W32) : Option Fold :=
  (s.vf v).graze.folds.find? (fun e => e.st != .culled && e.pc == pc && e.fmode == fm && e.nmode == nm)

/-! ## The Graze queue (R385) -/

/-- A record written, held for space, or dropped (R385). -/
def State.gPost (s : State) (v : Nat) (bs : Nat → List Byte) : State :=
  let b := gBase v
  let lg := s.hwN (b + 9) 1
  let wr := s.hwN (b + 0x20) 8
  let rd := s.hwN (b + 0x28) 8
  let g := (s.vf v).graze
  let put := fun (s : State) (x : List Byte) =>
    match s.ringPut v (s.hwN (b + 0x10) 8 + 128 * (wr % 2 ^ lg)) x with
    | some s => (s.setHw (b + 0x20) (wr + 1) 8).modVf v (fun x => { x with graze := { x.graze with lost := false } })
    | none => s
  if lg < 4 || 12 < lg || s.hwN (b + 0x10) 8 = 0 then s
  else if g.held.isEmpty && wr - rd < 2 ^ lg then put s (bs (cond g.lost 4 0))
  else if g.held.length < 64 then s.modVf v (fun x => { x with graze := { x.graze with held := x.graze.held ++ [bs 0] } })
  else s.modVf v (fun x => { x with graze := { x.graze with lost := true } })

/-- A record with the LOST flag. -/
def markLost (bs : List Byte) : List Byte := bs.set 5 (bs.getD 5 0 ||| 4)

/-- A held record written when space appears, or discarded where its slot finds no translation (R448); the first one written after a record was dropped carries LOST (R385). -/
def State.gFlush (s : State) (v : Nat) : State :=
  let b := gBase v
  let lg := s.hwN (b + 9) 1
  let wr := s.hwN (b + 0x20) 8
  match (s.vf v).graze.held with
  | [] => s
  | x :: r =>
    if wr - s.hwN (b + 0x28) 8 < 2 ^ lg then
      match s.ringPut v (s.hwN (b + 0x10) 8 + 128 * (wr % 2 ^ lg)) (if (s.vf v).graze.lost then markLost x else x) with
      | some s => (s.setHw (b + 0x20) (wr + 1) 8).modVf v (fun y => { y with graze := { y.graze with held := r, lost := false } })
      | none => s.modVf v (fun y => { y with graze := { y.graze with held := r } })
    else s

/-- The words of a live value, padded. -/
def liveBytes (vs : List W32) (n : Nat) : List Byte := (List.range n).flatMap (fun i => toBytes (vs.getD i 0).toNat 4)

/-- A Graze queue record (R385); last is ELWRITE at the withdrawal, or FIRST for a promotion. -/
def gRecord (v : Nat) (f : Fold) (cause last ell : Nat) (flags : Nat) : List Byte :=
  let misv := f.mis.isSome && cause ≤ 1
  let m := f.mis.getD (0, {}, {}, {}, 0)
  let m : Nat × GLive × GLive × GLive × Nat := if misv then m else (0, {}, {}, {}, 0)
  let first := if 4096 ≤ f.agree && 4 ≤ f.units.length then f.first else last
  toBytes (v * 2 ^ 26 + f.seq) 4 ++ toBytes cause 1 ++ toBytes (flags + cond (last - first ≤ 2 ^ ell) 1 0 + cond misv 2 0) 1 ++ toBytes m.1 1 ++ toBytes f.ev 1
  ++ toBytes f.pc 8 ++ toBytes (if cause = 1 || cause = 4 then 0 else f.execs) 8 ++ toBytes first 8 ++ toBytes last 8
  ++ toBytes f.fmode.toNat 4 ++ toBytes f.nmode.toNat 4 ++ toBytes m.2.1.s.toNat 8 ++ toBytes m.2.1.p 1 ++ toBytes m.2.2.1.p 1 ++ toBytes m.2.2.2.1.p 1 ++ toBytes 0 1
  ++ toBytes m.2.2.2.2 4 ++ liveBytes m.2.1.v 8 ++ liveBytes m.2.2.1.v 4 ++ liveBytes m.2.2.2.1.v 4

/-! ## Culling and promotion (R378, R384) -/

/-- A variant culled: it is invalid on every core at once (log 22); the withdrawal record comes with CULL_WITHDRAWAL_RECORD. The region is barred, at most 1,024 bars (R369). -/
def State.cull (s : State) (v q cause : Nat) (mis : Option (Nat × GLive × GLive × GLive × Nat)) : State :=
  match s.fold v q with
  | none => s
  | some f =>
    if f.st == .culled then s
    else
      let s := s.modFold v q (fun f => { f with st := .culled, cause := cause, mis := mis })
      s.modVf v (fun x => { x with graze := { x.graze with bars := (if x.graze.bars.length < 1024 then x.graze.bars else x.graze.bars.drop 1) ++ [(f.pc, f.fmode, f.nmode)],
                                                            targets := x.graze.targets.filter (fun t => !(t.pc == f.pc && t.fmode == f.fmode && t.nmode == f.nmode)) } })

/-- What a completed comparison does (R378): the lowest lane that disagrees with its live values, or agreement; lvl is the launch's level when it began (R387). -/
def State.compared (s : State) (v q l stage uidx lvl : Nat) (mis : Option (Nat × GLive × GLive × GLive)) : State :=
  match s.fold v q with
  | none => s
  | some f =>
    let lid := ((s.launch l).map (fun x => x.launchid.toNat)).getD 0
    match mis with
    | some m => s.cull v q (if f.st == .promoted then 0 else 1) (some (m.1, m.2.1, m.2.2.1, m.2.2.2, lid))
    | none =>
      if f.st == .guarded && lvl ≤ 1 then
        let us := if f.units.contains (l, stage, uidx) then f.units else f.units ++ [(l, stage, uidx)]
        let f' := { f with agree := f.agree + 1, units := us }
        if 4096 ≤ f'.agree && 4 ≤ us.length then
          let f' := { f' with st := .promoted, first := s.elWrite v, perCore := [], execs := 0 }
          (s.modFold v q (fun _ => f')).gPost v (fun fl => gRecord v f' 4 f'.first (s.hwN (gBase v + 8) 1) fl)
        else s.modFold v q (fun _ => f')
      else s

/-- The lowest lane in which a variant's live-outs differ from the original's (R377). -/
def mismatch (info : RInfo) (entry orig var : Regs) (mask : W32) : Option (Nat × GLive × GLive × GLive) :=
  ((maskLanes mask).find? (fun l => liveOf orig info.vout none info.pout l != liveOf var info.vout none info.pout l)).map (fun l =>
    (l, liveOf entry info.vin info.sin info.pin l, liveOf orig info.vout none info.pout l, liveOf var info.vout none info.pout l))

/-- The variant run on the live-ins of an execution; none when it does not end (R377). -/
def Fold.run (f : Fold) (bud : Nat) (entry : Regs) (mask : W32) (fuel : Nat) : Option Regs :=
  match decodeCode bud 64 0 f.code with
  | some c => (runPure bud c (codeLen c) fuel (pureWave entry mask f.fmode f.nmode [])).map (·.regs)
  | none => none

/-! ## At a marker -/

/-- Whether a live-in of a lane is poisoned (R376). -/
def liveInPoisoned (w : Wave) (info : RInfo) (l : Nat) : Bool :=
  info.vin.any (fun c => if c < 240 then mget false w.poison.v (key c l) else mget false w.poison.o (key (c - 320) l))
  || info.pin.any (fun p => mget false w.poison.p (key p l)) || (match info.sin with | some c => mget false w.poison.s (c - 256) | none => false)

/-- The closing marker of the region that the wave executed (R371, R377, R379): a sample's live-outs, a comparison's results, a spot check. -/
def State.grazeClose (s : State) (id : Nat) : State :=
  let w := s.wave id
  match w.gz.entry with
  | none => s
  | some (pc, entry) =>
    let s0 := s.modWave id (fun w => { w with gz := { w.gz with choice := .original, entry := none, sample := none } })
    match s.region w.vf w.budget pc with
    | none => s0
    | some info =>
      if info.close != w.pc.toNat then s0
      else
        let s1 := match w.gz.sample with
          | some (t, l) =>
            let x := (liveOf entry info.vin info.sin info.pin l, liveOf w.regs info.vout none info.pout l)
            let bad := info.vout.any (fun c => if c < 240 then mget false w.poison.v (key c l) else mget false w.poison.o (key (c - 320) l))
              || info.pout.any (fun p => mget false w.poison.p (key p l)) || liveInPoisoned w info l
            if bad then s0
            else s0.modVf w.vf (fun f => { f with graze := { f.graze with targets := f.graze.targets.map (fun y => if y.key == t && y.samples.length < 512 then { y with samples := y.samples ++ [x] } else y) } })
          | none => s0
        match w.gz.choice with
        | .compare q => { s1 with hurdles := s1.hurdles.map (fun h => if h.ident == id && h.fold == q && h.closed == none then { h with result := w.regs, closed := some s1.cycle } else h) }
        | .spot q =>
          match s1.fold w.vf q, s1.unitOf id with
          | some f, some u =>
            match f.run f.bud entry w.gz.mask spotFuel with
            | some r => s1.compared w.vf q w.launch u.task.stage u.task.uidx (s1.gLevel w.vf w.launch) (mismatch info entry w.regs r w.gz.mask)
            | none => s1
          | _, _ => s1
        | _ => s1

/-- An entry into an eligible region counted, and the region made a target (R369). -/
def countEntry (g : GrazeF) (pc : Nat) (fm nm : W32) (bud now window thr ev : Nat) : GrazeF :=
  if g.bars.contains (pc, fm, nm) then g
  else
    let is := fun (t : GTarget) => t.key == (pc, fm, nm)
    let ts := if g.targets.any is then g.targets else g.targets ++ [{ pc := pc, fmode := fm, nmode := nm, bud := bud }]
    { g with targets := ts.map (fun t =>
        if is t && t.ev == none then
          let times := (t.times.filter (fun x => now < x + window)) ++ [now]
          if thr ≤ times.length then { t with ev := some ev, times := [] } else { t with times := times }
        else t) }

/-- The opening marker (R369, R371, R376): counting, sampling, and how the region will execute; the poison of a live-in whose load is still out is not seen here, and meets the instruction that consumes it (DEDUCED, log 142). The marker stands at pc. -/
def State.grazeOpen (s : State) (id pc : Nat) : State :=
  let w := s.wave id
  let v := w.vf
  let lvl := s.gLevel v w.launch
  if lvl = 3 then s
  else match s.region v w.budget pc with
  | none => s
  | some info =>
    if !info.ok then s
    else
      let s := s.modVf v (fun f => { f with graze := countEntry f.graze pc w.fmode w.nmode w.budget s.cycle (s.gWindow v) (s.gThreshold v) (if lvl = 0 then 0 else 1) })
      let ts := (s.vf v).graze.targets
      let lanes := maskLanes w.regs.exec
      let pick := Config.freeNat s.fresh
      let me := (pc, w.fmode, w.nmode)
      let wanted := ts.any (fun t => t.key == me && t.ev != none && t.samples.length < 512)
      let lane := lanes.getD (pick / 16 % (max 1 lanes.length)) 0
      let sample := if wanted && !lanes.isEmpty && pick % 16 == 0 && !liveInPoisoned w info lane then some (me, lane) else none
      let s := (s.tick).modWave id (fun w => { w with gz := { w.gz with entry := some (pc, w.regs), mask := w.regs.exec, sample := sample, wrote := [], again := false, since := s.fresh } })
      match s.foldAt v pc w.fmode w.nmode with
      | none => s
      | some f =>
        if lanes.any (fun l => liveInPoisoned w info l) then s
        else if f.st == .guarded || lvl == 2 || (lvl == 1 && f.ev == 0) then
          let c := coreOf id
          let q := id % 64 / 16
          if (s.hurdles.filter (fun h => h.core == c && h.quarter == q)).length < 4 && !s.shut c q then
            match s.unitOf id with
            | some u => State.modWave { s with hurdles := s.hurdles ++ [{ core := c, quarter := q, ident := id, fold := f.seq, launch := w.launch, stage := u.task.stage, uidx := u.task.uidx, entry := w.regs, mask := w.regs.exec, result := {}, closed := none, spot := false, level := lvl, since := s.fresh }] } id (fun w => { w with gz := { w.gz with choice := .compare f.seq } })
            | none => s
          else s
        else
          let n := mget 0 f.perCore (coreOf id) + 1
          let s := s.modFold v f.seq (fun f => { f with perCore := mset 0 f.perCore (coreOf id) n, execs := f.execs + 1 })
          if n % 256 = 0 || w.gz.again then s.modWave id (fun w => { w with gz := { w.gz with choice := .spot f.seq } })
          else s.modWave id (fun w => { w with gz := { w.gz with choice := .variant f.seq 0, outs := info.vout ++ info.pout.map (· + 1024) } })

/-- A variant has come to its end: the live-out lanes that it wrote are tainted, and the wave goes on at the closing marker with the Graze source buffer and the fresh mask of this execution (R380). -/
def State.grazeCommit (s : State) (id : Nat) : State :=
  let w := s.wave id
  match w.gz.choice, w.gz.entry with
  | .variant q _, some (pc, entry) =>
    match s.region w.vf w.budget pc with
    | some info =>
      let gz : GWave := { choice := .original, bufId := w.vf * 2 ^ 26 + q, buf := (maskLanes w.gz.mask).map (fun l => (l, liveOf entry info.vin info.sin info.pin l)), fresh := info.vout.zipIdx, bufAt := w.gz.since, bufIn := (info.vin, info.sin) }
      s.setWave id (w.gz.wrote.foldl (fun (w : Wave) x => w.taintLane x.1 x.2) { w with pc := BitVec.ofNat 64 info.close, gz := gz })
    | none => s
  | _, _ => s

/-! ## The escape log (R381, R382) -/

/-- The live-out word that a store's data is: one fresh word, or the lower of a fresh pair, of a lane of the buffer's execution (R382). -/
def Wave.direct (w : Wave) (lane : Nat) (data : List Nat) : Option Nat :=
  let at_ := fun (c : Nat) => (w.gz.fresh.find? (fun x => x.1 == c)).map (·.2)
  if !w.gz.buf.any (fun x => x.1 == lane) then none
  else match data with
    | [c] => at_ c
    | [c, d] => if d == c + 1 && (at_ d).isSome then at_ c else none
    | _ => none

/-- One entry: kind, address, size, lane, the register codes of the data where it is tainted, whether the address was tainted, whether the value came from an s register. -/
def State.escape (s : State) (id kind addr size lane : Nat) (data : List Nat) (addrT scalar : Bool) : State :=
  let w := s.wave id
  let b := gBase w.vf
  let lg := s.hwN (b + 8) 1
  let k := s.elWrite w.vf
  let plain := scalar || kind == 3
  let direct := if plain then none else w.direct lane data
  let g : GLive := if plain then {} else mget {} w.gz.buf lane
  let lid := ((s.launch w.launch).map (fun x => x.launchid.toNat)).getD 0
  let bs := toBytes w.gz.bufId 4 ++ toBytes lid 4 ++ toBytes addr 8 ++ toBytes size 2 ++ toBytes kind 1
    ++ toBytes ((match direct with | some i => 1 + 2 * i | none => 0) + cond addrT 8 0 + cond scalar 16 0) 1
    ++ toBytes (if plain then 0xFF else lane) 1 ++ toBytes g.p 1 ++ toBytes 0 2 ++ toBytes g.s.toNat 8 ++ liveBytes g.v 8
  if s.hwN b 8 = 0 || lg < 8 || 24 < lg then s
  else match s.ringPut w.vf (s.hwN b 8 + 64 * (k % 2 ^ lg)) bs id with
    | some s => s.setHw (b + 0x18) (k + 1) 8
    | none => s

end Sys2Proof.Machine
end

