-- ==== Sys2Proof/Machine/Context.lean ====
section
/-! DEFINITION. Moving an identity's records (R111), pre-emption and save mode (R169, R170, R429 to R432, R436), the context window (R433 to R435), restore mode (R437, R438). -/

namespace Sys2Proof.Machine

/-! ## Moving records (R111) -/

/-- Whether an identity is clean: no record names it and no entry forwards to it. -/
def State.clean (s : State) (z : Nat) : Bool :=
  !s.recs.any (fun x => (match x.2.wr with | some r => r.slot == z | none => false) || (match x.2.rd with | some r => r.slot == z | none => false))
  && !s.ids.any (fun x => x.2.fv && x.2.fwd == z)

/-- Steps 1 and 2 of R111 from identity y, whose first interval was i0, to a clean z: the marks and V are copied, so that the identity of a wave that has exited stays vacant, y forwards; step 3 follows with RECORD_REWRITE_COMPLETE. -/
def State.moveRecords (s : State) (y z i0 : Nat) : State :=
  let e := s.own y
  let s := s.setAll z { e with fv := false, flo := 0, fhi := 0, fwd := 0 }
  let s := s.setAll y { e with v := false, fv := true, fwd := z, flo := i0, fhi := e.cur }
  { s with rewrites := s.rewrites ++ [y] }

/-- Step 3: every record of the range names its new identity, and the range is cleared. Records on which no access can trap are freed (R79). -/
def State.rewriteRecords (s : State) (y : Nat) : State :=
  let e := s.own y
  let f := fun (r : Rec) => if r.slot == y && e.fv && e.flo ≤ r.interval && r.interval ≤ e.fhi then { r with slot := e.fwd } else r
  let s := { s with recs := s.recs.map (fun x => (x.1, { wr := x.2.wr.map f, rd := x.2.rd.map f })), rewrites := s.rewrites.filter (· != y) }
  let s := (List.range 4).foldl (fun s d => s.setEntry d y { (s.entry d y) with fv := false, flo := 0, fhi := 0, fwd := 0 }) s
  (List.range 4).foldl (fun (s : State) d => s.freeRecs d e.fwd) s

/-- PUBK raised to PUBD before a unit goes to another die (R111, R114). -/
def State.raiseK (s : State) (y : Nat) : State := s.raiseAll y 4 (s.own y).pubd

/-! ## Pre-emption -/

/-- The base of the save-area pool and the number of areas (R428). -/
def VFn.poolBase (f : VFn) : Nat := bits f.ctxpool.toNat 22 35 * 2 ^ 22
def VFn.poolSize (f : VFn) : Nat := 2 ^ min 12 (bits f.ctxpool.toNat 0 4)
def VFn.freeArea (f : VFn) : Option Nat := (List.range f.poolSize).find? (fun k => !f.areas.contains k)
/-- The routine's address in CTXSV or CTXRS. -/
def routine (r : W64) : W64 := BitVec.ofNat 64 (bits r.toNat 2 55 * 4)

/-- Whether a wave waits in bar, aalloc or svc (R169). -/
def Wave.keepsWait (w : Wave) : Bool := w.st == .waiting && (match w.wait with | .none => false | _ => true)
/-- Whether a rollback of the wave is deferred (R168). -/
def Wave.deferred (w : Wave) : Bool := (w.rgn.lead && !w.keepsWait) || w.rgn.spilled

/-- The pre-emption record of a stopped wave (R170). -/
def Wave.preRecord (w : Wave) : PreRec :=
  { lv := w.rgn.ldest.isSome, ldest := w.rgn.ldest.getD 0, olive := w.rgn.olive, vlive := w.rgn.vlive,
    wait := if w.keepsWait then w.wait else .none, halt := w.halt, rpc := if w.keepsWait then w.pc else w.rgn.rpc }

/-- Entry to save mode (R430): the v and o registers hold the live-ins and zero elsewhere, also of a wave stopped in its wait. -/
def enterSave (sv area : W64) (w : Wave) : Wave :=
  let ck := if w.keepsWait then w.checkpoint else w.rgn.ckpt
  let w1 := ((w.keepLive).zeroY).dropLatches
  { w1 with shadow := { ck := ck, fmode := w.fmode, tvec := w.tvec, tepc := w.tepc, tcause := w.tcause, tstat := w.tstat, level := w.level, clock := w.clock, seq := w.seq, pre := w.preRecord }
            mode := .save, st := .ready, wait := .none, depth := 0, stack := [], fmode := 0, fpend := none, nmode := 0, tstat := 0, level := 1, clock := 0,
            regs := { w1.regs with exec := 0xFFFFFFFF, p := [], s := [] }, taint := { w1.taint with p := [], s := [] }, poison := { w1.poison with p := [], s := [] },
            svarea := area, pc := sv, busy := [] }

/-- What the device keeps of a wave at its pre-emption (R383, R436): which live-in registers hold a tainted lane, the Graze source buffer and the fresh mask; the count and the length of an aalloc that waits; what a record names of the wave while its unit is saved out (R392). -/
def keepOf (w : Wave) : Wave :=
  { taint := { v := w.taint.v.filter (fun x => w.rgn.liveV (x.1 / 32)), o := w.taint.o.filter (fun x => w.rgn.liveO (x.1 / 32)), s := w.shadow.ck.ts, p := w.shadow.ck.tp },
    gz := { bufId := w.gz.bufId, buf := w.gz.buf, fresh := w.gz.fresh, again := w.gz.again }, base := w.base, budget := w.budget, vf := w.vf, widx := w.widx, launch := w.launch, svcreq := w.svcreq, rgn := w.rgn, int0 := w.int0, dies := w.dies, bkarm := w.bkarm, engi := w.engi, accN := w.accN,
    pc := w.shadow.pre.rpc, seq := w.shadow.seq, clock := w.shadow.clock }

/-- What is kept of a wave, with what has changed since its unit was pre-empted. -/
def keptNow (r : UnitR) (w : Wave) : Wave :=
  { ((r.kept.find? (fun x => x.widx == w.widx)).getD (keepOf w)) with svcreq := w.svcreq, bkarm := w.bkarm, int0 := w.int0, dies := w.dies, base := w.base }


/-- A pre-emption of a whole unit, if it can be taken (R429); otherwise the request stays. One that a deferral holds back is tried again at the end of the deferral (R168). -/
def State.tryPreempt (s : State) (u : Nat) : State :=
  match s.unit u with
  | none => s
  | some r =>
    let f := s.vf r.vf
    let ids := s.liveSlots u r
    let held := ids.any (fun id => (s.wave id).deferred)
    if !r.preReq || r.moving || r.area.isSome then s
    else if held || !f.ctxsv.getLsbD 0 || !f.ctxrs.getLsbD 0 then s.setUnit u (some { r with preDef := held })
    else match f.freeArea with
      | none => s.setUnit u (some { r with preDef := false })
      | some k =>
        let area : W64 := BitVec.ofNat 64 (f.poolBase + k * 0x400000)
        let s := s.modVf r.vf (fun f => { f with areas := f.areas ++ [k] })
        let s := ids.foldl (fun (s : State) id =>
          let s := if (s.wave id).keepsWait then s else s.rollback id
          s.modWave id (enterSave (routine f.ctxsv) area)) s
        let kept := ids.map (fun id => keepOf (s.wave id))
        let s := ids.foldl (fun (s : State) id => s.modWave id (fun w => { w with taint := {} })) s
        let wd := match r.accReq with | some (x, _) => ids.contains x | none => false
        let s := s.modUnit u (fun r => { r with preReq := false, preDef := false, area := some k, areaVa := area, gate := [], gone := r.gone, kept := kept, accReq := if wd then none else r.accReq })
        if wd then s.modCore (u / 16) (fun c => { c with accQ := c.accQ.filter (fun q => q.1 != u) }) else s

/-- The units of a launch whose cancel was held back while a routine ran (R431). -/
def State.cancelled (s : State) (l : Nat) : Bool := ((s.launch l).map (·.cnt.cancelled)).getD false

/-- Free parked identities for n waves (R111). -/
def State.parkedFree (s : State) (n : Nat) : Option (List Nat) :=
  let used := s.saved.flatMap (·.parked)
  let xs := ((List.range 3904).map (· + 12480)).filter (fun z => !used.contains z && s.clean z && !s.rewrites.contains z && !(s.own z).v && !s.purges.any (·.ident == z))
  if n ≤ xs.length then some (xs.take n) else none

/-- The release at .k of every wave of a unit that is saved without parked identities (R111), in steps 6 to 8 of the last exit: the lines of the unit store buffer drain, the marks advance, the changes are applied and a counter that wraps is purged; true when it is over. -/
def State.saveRelease (s : State) (id u : Nat) (r : UnitR) : State × Bool :=
  let ids := s.liveSlots u r
  let step := (s.wave id).step
  let go := fun (s : State) (n : Nat) => s.modWave id (fun w => { w with step := n })
  if step < 6 then
    (go { s with drains := s.drains ++ ((r.sb.filter (fun (e : SBEntry) => e.sp == Space.mem)).map (fun (e : SBEntry) => (e.ident, e.base))).eraseDups.map (fun (x : Nat × Nat) => (⟨x.1, u, x.2⟩ : Drain)) } 6, false)
  else if step = 6 then
    if s.drains.any (·.unit == u) || s.acks.any (·.unit == u) || s.reqs.any (fun q => r.slots.contains q.ident) then (s, false)
    else
      let s := r.slots.foldl (fun (s : State) y =>
        let e := s.own y
        if ids.contains y then s.sendAll y { (e.publish (s.relScope y 4) (e.cur + 1)) with cur := e.cur + 1 } else s.sendAll y (e.publish 4 e.cur)) s
      (go (s.modUnit u (fun r => { r with athome := [] })) 7, false)
  else if s.changes.any (fun c => r.slots.contains c.ident) then (s, false)
  else ids.foldl (fun (x : State × Bool) y => let z := x.1.syncEnd y; (z.1, x.2 && z.2)) (s, true)

/-- Whether the last exit in save mode can save the unit: the identities that its waves leave are not being rewritten (R111), or the release in place of the move is over. -/
def State.saveReady (s : State) (id u : Nat) (r : UnitR) : State × Bool :=
  if s.cancelled r.task.launch then (s, true)
  else if 6 ≤ (s.wave id).step then s.saveRelease id u r
  else match s.parkedFree r.slots.length with
    | some _ => (s, !r.slots.any (fun y => (s.own y).fv))
    | none => s.saveRelease id u r

/-- The last exit in save mode parks the unit (R436), or discards it when a cancel was held back: the records and interval state of every slot that the unit holds move to parked identities, also of waves that have exited, whose slots are the unit's until it ends (R112); slots, registers, scratchpad, banks and the store-buffer slot are scrubbed and freed. -/
def State.saveUnit (s : State) (u : Nat) : State :=
  match s.unit u with
  | none => s
  | some r =>
    if s.cancelled r.task.launch then s.cancelUnit u
    else
      let live := s.liveSlots u r
      let ids := r.slots
      let c := u / 16
      let ws := ids.map (fun id => if live.contains id then keptNow r (s.wave id) else { (s.wave id).left with regs := {}, poison := {} })
      let (s, parked) := match (if 6 ≤ (s.wave s.cur).step then none else s.parkedFree ids.length) with
        | some zs =>
          ((ids.zip zs).foldl (fun (s : State) (x : Nat × Nat) =>
            let s := { s with homes := mset 0 s.homes x.2 (dieOfCore c) }
            s.moveRecords x.1 x.2 (s.wave x.1).int0) s, zs)
        | none => (ids.foldl (fun (s : State) id => s.setAll id { (s.own id) with v := false }) s, [])
      let bs := r.acc.getD []
      let x := s.core c
      let taints := (x.accTaint.filter (fun (e : Nat × Bool) => bs.contains (e.1 / 8))).filterMap (fun (e : Nat × Bool) => (bs.idxOf? (e.1 / 8)).map (fun i => 8 * i + e.1 % 8))
      let sv : SavedUnit := { unit := { r with sb := [], acc := none, kept := [], handles := [], slots := [], gate := [] },
                              waves := ws, parked := parked, accTaint := taints, core := c, last := u }
      let s := (s.modCore c (fun x => (x.scrub bs).freeBanks bs)).zeroSpad c r.sbase r.sgran
      let s := { s with saved := s.saved ++ [sv] }
      (ids.foldl (fun (s : State) id => s.setWave id {}) s).setUnit u none

/-! ## The context window (R433 to R435) -/

/-- WAIT of R170. -/
def waitCode : WaitKind → Nat
  | .none => 0
  | .bar .u => 1
  | .bar .d => 2
  | .bar .k => 3
  | .aalloc => 4
  | .svc => 5
def waitOf (n : Nat) : WaitKind :=
  if n = 1 then .bar .u else if n = 2 then .bar .d else if n = 3 then .bar .k else if n = 4 then .aalloc else if n = 5 then .svc else .none

/-- A pre-emption record as 128 bits (R170). -/
def preBits (p : PreRec) : Nat :=
  cond p.lv (2 ^ 127) 0 + p.ldest % 1024 * 2 ^ 117 + p.olive % 256 * 2 ^ 104 + p.vlive % 256 * 2 ^ 96 + waitCode p.wait * 2 ^ 92 + cond p.halt (2 ^ 91) 0 + p.rpc.toNat % 2 ^ 57
def preOf (n : Nat) : PreRec :=
  { lv := n.testBit 127, ldest := bits n 117 10, olive := bits n 104 8, vlive := bits n 96 8, wait := waitOf (bits n 92 4), halt := n.testBit 91, rpc := BitVec.ofNat 64 (bits n 0 57) }

/-- A mask-stack entry as 128 bits (R152). -/
def mkCode : MKind → Nat
  | .unused => 0 | .ifK => 1 | .ifElse => 2 | .loopK => 3
def mkOf (n : Nat) : MKind := if n = 1 then .ifK else if n = 2 then .ifElse else if n = 3 then .loopK else .unused
def mentBits (e : MEntry) : Nat := mkCode e.kind * 2 ^ 64 + e.saved.toNat * 2 ^ 32 + e.aux.toNat
def mentOf (n : Nat) : MEntry := ⟨mkOf (bits n 64 2), BitVec.ofNat 32 (bits n 32 32), BitVec.ofNat 32 (bits n 0 32)⟩

/-- One 64-bit half of a number replaced. -/
def setHalf (n h v : Nat) : Nat := if h = 0 then n / 2 ^ 64 * 2 ^ 64 + v else n % 2 ^ 64 + v * 2 ^ 64

/-- A handle as 128 bits (R339). -/
def hsCode : HState → Nat
  | .free => 0 | .filling => 1 | .full => 2 | .draining => 3
def hsOf (n : Nat) : HState := if n = 1 then .filling else if n = 2 then .full else if n = 3 then .draining else .free
def handleBits (h : Handle) : Nat :=
  h.base * 2 ^ 108 + h.blen * 2 ^ 84 + h.pend * 2 ^ 60 + h.ncmd * 2 ^ 52 + h.ngate * 2 ^ 46 + cond h.bovr 16 0 + cond h.ovr 8 0 + cond h.err 4 0 + hsCode h.st
def handleOf (n : Nat) : Handle :=
  { base := bits n 108 20, blen := bits n 84 24, pend := bits n 60 24, ncmd := bits n 52 8, ngate := bits n 46 6, bovr := n.testBit 4, ovr := n.testBit 3, err := n.testBit 2, st := hsOf (bits n 0 2) }

/-- UNITINFO (R434). -/
def unitInfo (r : UnitR) : Nat :=
  cond r.nrst (2 ^ 31) 0 + ((r.acc.map (·.length)).getD 0) * 2 ^ 26 + r.m * 2 ^ 21 + r.sgran * 2 ^ 13 + r.task.budget * 2 ^ 5 + r.w
/-- The barrier state word (R434). -/
def barBits (b : BarSt) : Nat := b.level * 2 ^ 37 + cond b.sent (2 ^ 36) 0 + cond b.gen (2 ^ 35) 0 + b.mask * 2 ^ 19 + b.count
def barOf (n : Nat) : BarSt := { level := bits n 37 2, sent := n.testBit 36, gen := n.testBit 35, mask := bits n 19 16, count := bits n 0 5 }

/-- Two lanes of a register as one item. -/
def laneItem (m : SMap W32) (n k : Nat) : Nat := (mget 0 m (key n (2 * k))).toNat + 2 ^ 32 * (mget 0 m (key n (2 * k + 1))).toNat
def putLanes (m : SMap W32) (n k v : Nat) : SMap W32 :=
  mset 0 (mset 0 m (key n (2 * k)) (BitVec.ofNat 32 v)) (key n (2 * k + 1)) (BitVec.ofNat 32 (v / 2 ^ 32))

/-- A predicate's 32 lanes as one number. -/
def predItem (m : SMap Bool) (p : Nat) : Nat := allLanes.foldl (fun a l => if mget false m (key p l) then a + 2 ^ l else a) 0
def putPred (m : SMap Bool) (p v : Nat) : SMap Bool := allLanes.foldl (fun m l => mset false m (key p l) (v.testBit l)) m

/-- The physical word of a logical accumulator word of a unit (R70, R71). -/
def accWord (r : UnitR) (i : Nat) : Option Nat :=
  match r.acc with
  | some bs => if i / 32768 < bs.length then some (32768 * bs.getD (i / 32768) 0 + i % 32768) else none
  | none => none

/-- A word of a store-buffer entry (R435). -/
def sbWord (s : State) (e : SBEntry) (w : Nat) : Nat :=
  if w = 0 then e.va / 64 * 64 % 2 ^ 57 + (s.wave e.ident).widx * 4 + cond e.pub 2 0 + 1
  else if w = 1 then (List.range 64).foldl (fun a b => if mget none e.data b != none then a + 2 ^ b else a) 0
  else ofBytes ((List.range 8).map (fun b => ((mget none e.data (8 * (w - 2) + b)).getD 0)))

/-- What a context-window access comes to. -/
inductive CtxRes where
  | value (v : Nat)
  | wait
  | access
  deriving DecidableEq, Repr

/-- The item that CTXSEL selects, as rdsys of CTXDAT reads it (R433). -/
def State.ctxItem (s : State) (id : Nat) : CtxRes :=
  let w := s.wave id
  let k := bits w.ctxsel.toNat 24 8
  let i := bits w.ctxsel.toNat 0 24
  let sh := w.shadow
  match s.unit w.unit with
  | none => .access
  | some r =>
    if k = 1 then
      if 12 < i then .access
      else .value (([preBits sh.pre % 2 ^ 64, preBits sh.pre / 2 ^ 64, sh.ck.exec.toNat, sh.ck.depth, sh.fmode.toNat, sh.ck.nmode.toNat, sh.tvec.toNat, sh.tepc.toNat,
        sh.tcause.toNat, sh.tstat.toNat, sh.level, sh.clock, sh.seq.toNat] : List Nat).getD i 0)
    else if k = 2 then if 63 < i then .access else .value (mget 0 sh.ck.s i).toNat
    else if k = 3 then if 63 < i then .access else .value (mentBits (mget {} sh.ck.stack (i / 2)) / 2 ^ (64 * (i % 2)) % 2 ^ 64)
    else if k = 4 then if i < 1 || 127 < i then .access else .value (predItem sh.ck.p i)
    else if k = 5 then if 127 < i then .access else .value (laneItem w.regs.o (i / 16) (i % 16))
    else if k = 6 then if w.budget ≤ i / 16 then .access else .value (laneItem w.regs.v (i / 16) (i % 16))
    else if k = 8 then
      if i = 0 then .value (unitInfo r) else if i = 1 then .value r.accstat.toNat else if i = 2 then .value (barBits r.bar) else if i = 3 then .value r.stagec
      else if i = 4 then .value (if w.mode == .save then r.sb.length else r.sbCnt)
      else if 16 ≤ i && i ≤ 47 then .value (handleBits (State.handle r ((i - 16) / 2)) / 2 ^ (64 * (i % 2)) % 2 ^ 64)
      else .access
    else if k = 9 then
      if w.mode == .save then (match r.sb[i / 10]? with | some e => .value (sbWord s e (i % 10)) | none => .access)
      else if i / 10 < r.sbCnt then .value (mget 0 r.sbImg i).toNat else .access
    else if k = 10 then
      match accWord r (2 * i), accWord r (2 * i + 1) with
      | some a, some b => .value ((mget 0 (s.core (w.unit / 16)).acc a).toNat + 2 ^ 32 * (mget 0 (s.core (w.unit / 16)).acc b).toNat)
      | _, _ => .access
    else if k = 15 then
      if i != 0 then .access
      else if (s.liveSlots w.unit r).all (fun x => x == id || r.gate.contains (s.wave x).widx) then .value r.w else .wait
    else .access

/-- The gate's reading recorded (R433, item 0x0F). -/
def State.gateMark (s : State) (id : Nat) : State :=
  let w := s.wave id
  if bits w.ctxsel.toNat 24 8 = 15 then s.modUnit w.unit (fun r => { r with gate := nsAdd r.gate w.widx }) else s

/-- What a restored handle entry must satisfy (R434). -/
def handleOk (r : UnitR) (h : Handle) : Bool := h.ncmd == 0 && h.ngate == 0 && (h.blen == 0 || h.base + h.blen ≤ 4096 * r.sgran)

/-- NMODE with its reserved bits zero (R9, R209). -/
def nmodeOf (v : Nat) : W32 := BitVec.ofNat 32 v &&& 0xF81FFFFF

/-- A write of CTXDAT in restore mode (R433): none is an ACCESS; a latch that names a register written falls (R63); the store-buffer entry of word 9 is installed by installEntry. -/
def State.ctxPut (s : State) (id v : Nat) : Option State :=
  let w := s.wave id
  let k := bits w.ctxsel.toNat 24 8
  let i := bits w.ctxsel.toNat 0 24
  let sh := w.shadow
  let shadow := fun (f : Shadow) => some (s.setWave id { w with shadow := f })
  match s.unit w.unit with
  | none => none
  | some r =>
    if k = 1 then
      if 12 < i then none
      else shadow (if i = 0 then { sh with pre := preOf (setHalf (preBits sh.pre) 0 v) } else if i = 1 then { sh with pre := preOf (setHalf (preBits sh.pre) 1 v) }
        else if i = 2 then { sh with ck := { sh.ck with exec := BitVec.ofNat 32 v } } else if i = 3 then { sh with ck := { sh.ck with depth := min 32 (v % 64) } }
        else if i = 4 then { sh with fmode := BitVec.ofNat 32 (v % 256 / 2 * 2) } else if i = 5 then { sh with ck := { sh.ck with nmode := nmodeOf v } }
        else if i = 6 then { sh with tvec := BitVec.ofNat 64 (v % 2 ^ 57) } else if i = 7 then { sh with tepc := BitVec.ofNat 64 (v % 2 ^ 57) }
        else if i = 8 then { sh with tcause := BitVec.ofNat 64 (v % 2 ^ 28) } else if i = 9 then { sh with tstat := BitVec.ofNat 64 (v % 8) }
        else if i = 10 then { sh with level := v % 4 } else if i = 11 then { sh with clock := v } else { sh with seq := BitVec.ofNat 64 v })
    else if k = 2 then if 63 < i then none else shadow { sh with ck := { sh.ck with s := mset 0 sh.ck.s i (BitVec.ofNat 64 v) } }
    else if k = 3 then if 63 < i then none else shadow { sh with ck := { sh.ck with stack := mset {} sh.ck.stack (i / 2) (mentOf (setHalf (mentBits (mget {} sh.ck.stack (i / 2))) (i % 2) v)) } }
    else if k = 4 then if i < 1 || 127 < i then none else shadow { sh with ck := { sh.ck with p := putPred sh.ck.p i v } }
    else if k = 5 then if 127 < i then none else some (s.setWave id ({ w with regs := { w.regs with o := putLanes w.regs.o (i / 16) (i % 16) v } }.touch (320 + i / 16)))
    else if k = 6 then if w.budget ≤ i / 16 then none else some (s.setWave id ({ w with regs := { w.regs with v := putLanes w.regs.v (i / 16) (i % 16) v } }.touch (i / 16)))
    else if k = 8 then
      if i = 0 then some s
      else if i = 1 then some (s.setUnit w.unit (some { r with accstat := BitVec.ofNat 64 (v % 4) }))
      else if i = 2 then some (s.setUnit w.unit (some { r with bar := barOf v }))
      else if i = 3 then some (s.setUnit w.unit (some { r with stagec := v % 65536, stadv := r.stadv }))
      else if i = 4 then some (s.setUnit w.unit (some { r with sbCnt := min 1024 v }))
      else if 16 ≤ i && i ≤ 47 then
        let h0 := handleOf (setHalf (handleBits (State.handle r ((i - 16) / 2))) (i % 2) v)
        if i % 2 = 1 && !handleOk r h0 then none
        else
          let h := if i % 2 = 1 && h0.st == .draining then { h0 with st := .free, blen := 0 } else h0
          some (s.setUnit w.unit (some { r with handles := mset {} r.handles ((i - 16) / 2) h }))
      else none
    else if k = 9 then
      if i / 10 < r.sbCnt then some (s.setUnit w.unit (some { r with sbImg := mset 0 r.sbImg i (BitVec.ofNat 64 v) })) else none
    else if k = 10 then
      match accWord r (2 * i), accWord r (2 * i + 1) with
      | some a, some b => some (s.modCore (w.unit / 16) (fun x => { x with acc := mset 0 (mset 0 x.acc a (BitVec.ofNat 32 v)) b (BitVec.ofNat 32 (v / 2 ^ 32)) }))
      | _, _ => none
    else if k = 15 then if i = 0 then some s else none
    else none

/-- What installing a store-buffer entry needs next (R435). -/
inductive InstRes where
  | done (s : State)
  | fault (t : Trap)
  | miss (va : Nat)
  deriving DecidableEq, Repr

/-- The entry whose ten words have been written goes into the unit store buffer (R435); an index that no wave of the unit has ends in ACCESS (DESIGN CHOICE, log 125). -/
def State.installEntry (s : State) (id n : Nat) : InstRes :=
  let w := s.wave id
  match s.unit w.unit with
  | none => .fault { cause := 6 }
  | some r =>
    let wd := fun k => (mget 0 r.sbImg (10 * n + k)).toNat
    let va := bits (wd 0) 6 51 * 64
    let who := r.slots.find? (fun x => (s.wave x).widx == bits (wd 0) 2 4)
    let pub := (wd 0).testBit 1
    let acc : Trap := { cause := 6, addr := BitVec.ofNat 64 va }
    if !(wd 0).testBit 0 then .fault acc
    else match who with
    | none => .fault acc
    | some who => match s.xlate (coreOf id) w.vf 1 .write va with
      | .ok p _ =>
        if r.sb.any (fun e => e.ident == who && e.base == p / 64 * 64 && e.pub == pub) then .fault acc
        else
          let data := ((List.range 64).filter (fun b => (wd 1).testBit b)).map (fun b => (b, some (BitVec.ofNat 8 (wd (2 + b / 8) / 2 ^ (8 * (b % 8))))))
          .done (s.setUnit w.unit (some { r with sb := r.sb ++ [{ sp := .mem, base := p / 64 * 64, data := data, ident := who, pub := pub, va := va }] }))
      | .miss => .miss va
      | _ => .fault acc

/-! ## Restore mode -/

/-- Taint reinstated: every lane of a live-in register that held a tainted lane (R383). -/
def retaint (m : SMap Bool) : SMap Bool :=
  (m.map (fun x => x.1 / 32)).eraseDups.foldl (fun t n => allLanes.foldl (fun t l => mset false t (key n l) true) t) []

/-- A wave resumed from its shadow (R438): it enters the wait that its record names, an svc that firmware has answered meanwhile is complete, and the slot's last-page registers and latches are empty (R27, R63). -/
def resumeWave (barRel moved : Bool) (old : Wave) (w : Wave) : Wave :=
  let sh := w.shadow
  let again : Bool := sh.pre.wait == WaitKind.none
  let w := { (w.restore sh.ck) with
    fmode := sh.fmode, tvec := sh.tvec, tepc := sh.tepc, tcause := sh.tcause, tstat := sh.tstat, clock := sh.clock, seq := sh.seq, level := min sh.level 1,
    mode := .normal, inTret := false, fpend := none, lpr := [], pc := sh.pre.rpc, halt := sh.pre.halt, wait := if again then .none else sh.pre.wait, svcreq := w.svcreq,
    st := if again then .ready else .waiting, step := 0, int0 := if moved then old.int0 else w.int0, dies := if moved then old.dies else w.dies,
    rgn := { rpc := sh.pre.rpc, vlive := sh.pre.vlive, olive := sh.pre.olive, ldest := if sh.pre.lv then some sh.pre.ldest else none, lwide := old.rgn.lwide,
             led := old.rgn.led, opened := w.rgn.opened + 1, lead := !again, first := false }, engi := if sh.pre.wait == WaitKind.aalloc then old.engi else 0, accN := old.accN,
    gz := { bufId := old.gz.bufId, buf := old.gz.buf, fresh := old.gz.fresh, again := old.gz.again } }
  let w := { w with taint := { v := retaint old.taint.v, o := retaint old.taint.o, s := old.taint.s, p := old.taint.p } }
  let w := (w.zeroY).dropLatches
  let w := { w with rgn := { w.rgn with ckpt := w.checkpoint } }
  match sh.pre.wait with
  | .svc => if w.svcreq == none then w.finish (.svc 0x40) else w
  | .bar l => if barRel then w.finish (.bar l) else w
  | _ => w

/-- The saved unit that is being restored in a resident unit. -/
def State.savedIn (s : State) (u : Nat) : Option SavedUnit := s.saved.find? (fun x => x.back == some u)

/-- Whether the waves of a unit can leave restore mode: each has executed tret, and the slots are clean (R111, R438). -/
def State.canResume (s : State) (u : Nat) : Bool :=
  match s.unit u, s.savedIn u with
  | some r, some sv => (s.liveSlots u r).all (fun id => (s.wave id).inTret) && (sv.parked.isEmpty || r.slots.all s.clean) && !sv.parked.any (fun z => s.rewrites.contains z)
  | _, _ => false

/-- The request of a wave that waits in aalloc again, behind every request that waits (R169). -/
def State.requestAgain (s : State) (u id : Nat) : State :=
  let w := s.wave id
  if w.st == .waiting && w.wait == .aalloc then
    (s.modUnit u (fun r => { r with accReq := some (id, w.accN) })).modCore (u / 16) (fun x => { x with accQ := x.accQ ++ [(u, w.accN, id)] })
  else s

/-- The end of restore mode (R438): all waves of the unit resume together, or the unit ends by a cancel that was held back. -/
def State.resumeUnit (s : State) (u : Nat) : State :=
  match s.unit u, s.savedIn u with
  | some r, some sv =>
    if s.cancelled r.task.launch then s.cancelUnit u
    else
      let c := u / 16
      let live := s.liveSlots u r
      let s := r.slots.foldl (fun (s : State) id =>
        let k := sv.waves.findIdx (fun o => o.widx == (s.wave id).widx)
        let old := sv.waves.getD k {}
        let s := match sv.parked[k]? with
          | some z =>
            let s := if s.dieOf z != dieOfCore c then s.raiseK z else s
            s.moveRecords z id old.int0
          | none => s
        if live.contains id then s.modWave id (resumeWave r.barRel (sv.parked[k]?).isSome old) else s) s
      let bs := r.acc.getD []
      let s := s.modCore c (fun x => { x with accTaint := sv.accTaint.foldl (fun m t => mset false m (8 * bs.getD (t / 8) 0 + t % 8) true) x.accTaint })
      let s := s.setUnit u (some { r with area := none, gate := [], sbImg := [], sbCnt := 0, barRel := false, donor := false, bar := if r.barRel then { gen := !r.bar.gen } else r.bar })
      let s := (s.liveSlots u r).foldl (fun (s : State) id => s.requestAgain u id) s
      State.modVf { s with saved := s.saved.filter (fun x => x.back != some u) } r.vf (fun f => { f with areas := match r.area with | some a => f.areas.filter (· != a) | none => f.areas })
  | _, _ => s

end Sys2Proof.Machine
end

