-- ==== Sys2Proof/Machine/Control.lean ====
section
/-! DEFINITION. Group 0 but for the system registers: nop, the region marker, structured control, calls, the end of a wave, traps, spawn and yield (R151 to R168, R245 to R260). -/

namespace Sys2Proof.Machine

/-- Faults of control transfers. -/
def alignTrap : Trap := { cause := 0x04 }
def accessAt (a : W64) : Trap := { cause := 0x06, addr := a }
def privTrap (detail : Nat) : Trap := { cause := 0x02, detail := BitVec.ofNat 64 detail }

/-- A uniform 64-bit operand of kind U+ (R155, R220): a vector pair must hold one value in the active lanes; lane 0 stands in where no lane is active (R250). -/
def uniform (w : Wave) (field : Nat) (x : Src) : Except Trap LV :=
  match x with
  | .v n =>
    let xs := (execLanes w).map (fun l => (l, vLV w field true n l))
    match poisonTrap xs with
    | some t => .error t
    | none => match xs with
      | [] => .ok { (vLV w field true n 0) with poison := none }
      | y :: r =>
        if r.any (fun z => z.2.val != y.2.val) then .error { cause := 0x03, lanes := w.regs.exec, detail := BitVec.ofNat 64 field }
        else .ok ⟨y.2.val, none, xs.any (·.2.taint)⟩
  | x =>
    let y := scalarLV w field x
    match scalarTrap [y] with
    | some t => .error t
    | none => .ok y

/-- An instruction whose effect on the wave gives its next place too. -/
def runPlaced (i : Instr) (e : Eff) (s : State) : Host.Outcome State Fault Refusal :=
  match s.gate i with
  | .trap t => .next (s.trapCur t)
  | .stall => .next s.stall
  | .go =>
    match e (s.wave s.cur) with
    | .error t => .next (s.trapCur t)
    | .ok w => .next (s.setWave s.cur (w.complete i))

def execNop (s : State) : Host.Outcome State Fault Refusal := runEff .nop (fun w => .ok w) s

/-! ## The region marker (R164, R247) -/

/-- Steps 2 and 3 of R164 with the pending FMODE (R207): the restart point is the marker itself, and serial mode goes on only where the marker is the restart point of a replay (R95). -/
def openRegion (vlive olive : Nat) (w : Wave) : Wave :=
  let w1 := (w.zeroY).dropLatches
  let w1 := { w1 with fmode := w.fpend.getD w.fmode, fpend := none }
  { w1 with rgn := { rpc := w.pc, vlive := vlive, olive := olive, ckpt := w1.checkpoint, first := true,
                     serial := w.rgn.serial && w.rgn.replay, opened := w.rgn.opened + 1 } }

/-- The marker's steps in their order once the verdicts are in (R100, R164). -/
def State.marker (s : State) (vlive olive : Nat) : State :=
  let id := s.cur
  let pc := (s.wave id).pc
  let u := (s.wave id).unit
  let s := ((s.grazeClose id).commitStage1 id).modWave id (openRegion vlive olive)
  match s.unit u with
  | none => s
  | some r =>
    if s.cancelled r.task.launch then s.cancelUnit u
    else if r.moving then s.modWave id (fun w => { w with stopped := true, st := .waiting })
    else
      let s := if r.preReq then s.tryPreempt u else s
      if (s.wave id).mode != .normal then s
      else (s.modWave id (fun w => { (w.skip 8) with st := .ready, step := 0 })).grazeOpen id pc.toNat

def execRegion (vlive olive : Nat) (s : State) : Host.Outcome State Fault Refusal :=
  let w := s.wave s.cur
  gated (.region vlive olive) s
    (if w.ctl || w.mode != .normal then s.finishCur (.region vlive olive) (fun w => w)
     else if s.unverified s.cur then s.stall
     else s.marker vlive olive)

/-! ## Structured control (R153, R154, R248, R249) -/

def execIfP (neg : Bool) (p off : Nat) (s : State) : Host.Outcome State Fault Refusal := runPlaced (.ifP neg p off) (effIf neg p off) s
def execElseP (off : Nat) (s : State) : Host.Outcome State Fault Refusal := runPlaced (.elseP off) (effElse off) s
def execEndif (s : State) : Host.Outcome State Fault Refusal := runPlaced .endif effEndif s
def execLoop (s : State) : Host.Outcome State Fault Refusal := runPlaced .loop effLoop s
def execEndloop (off : Nat) (s : State) : Host.Outcome State Fault Refusal := runPlaced (.endloop off) (effEndloop off) s
def execBreakP (neg : Bool) (p : Nat) (s : State) : Host.Outcome State Fault Refusal := runPlaced (.breakP neg p) (effLeave false neg p) s
def execContP (neg : Bool) (p : Nat) (s : State) : Host.Outcome State Fault Refusal := runPlaced (.contP neg p) (effLeave true neg p) s

/-! ## Calls and returns (R250, R251) -/

/-- A transfer to t, with the return address in an s register for a call. -/
def jump (link : Option (Nat × Nat)) (t : Nat) (w : Wave) : Except Trap Wave :=
  if t % 4 ≠ 0 then .error alignTrap
  else if !canonical t then .error (accessAt (BitVec.ofNat 64 t))
  else
    let w' := match link with
      | some (d, n) => writeS d ⟨(w.pc.toNat + n) % 2 ^ 64, none, false⟩ w
      | none => w
    .ok { w' with pc := BitVec.ofNat 64 t }

def effCallRelative (d : Nat) (off : Int) : Eff := fun w =>
  jump (some (d, 8)) (wrap 64 ((w.pc.toNat : Int) + 4 * off)) w

/-- An indirect transfer; len is the length of the instruction. -/
def effIndirect (link : Option Nat) (len : Nat) (t : Src) : Eff := fun w =>
  match uniform w 2 t with
  | .error e => .error e
  | .ok x => jump (link.map (fun d => (d, len))) x.val (fill (some ⟨.i64, true, t⟩) none none w)

def execCallRelative (d : Nat) (off : Int) (s : State) : Host.Outcome State Fault Refusal := runPlaced (.callRelative d off) (effCallRelative d off) s
def execCallIndirect (d : Nat) (t : HSrc) (s : State) : Host.Outcome State Fault Refusal :=
  runPlaced (.callIndirect d t) (effIndirect (some d) (Instr.callIndirect d t).length t.src) s
def execRet (t : HSrc) (s : State) : Host.Outcome State Fault Refusal := runPlaced (.ret t) (effIndirect none (Instr.ret t).length t.src) s

/-! ## The end of a wave, of a unit and of a control program (R112, R175, R181) -/

/-- The completion scope of a launch (R119, R185). -/
def Launch.compScope (l : Launch) : Nat := l.scope + 1

/-- A unit has ended (R71, R112, R119, R176, R178): its banks and handles are free, the record of kind 0x03 is posted, the launch's counter falls. -/
def State.endUnit (s : State) (u : Nat) : State :=
  match s.unit u with
  | none => s
  | some r =>
    let sc := (((s.launch r.task.launch).getD {}).compScope)
    let bs := r.acc.getD []
    let s := s.modCore (u / 16) (fun x => { (x.freeBanks bs) with accQ := x.accQ.filter (fun q => q.1 != u) })
    let s := { s with ends := r.slots.foldl (fun m id => mset none m id (some (r.vf, (s.own id).cur, sc))) s.ends }
    let s := s.postEvent (u / 16) ⟨3, 0, s.source u, 0, BitVec.ofNat 64 (cond r.nrst 2 0)⟩
    ((r.slots.foldl (fun (s : State) id => s.modWave id Wave.left) (s.setUnit u none)).unitGone (u / 16)).lowerLaunch r.task.launch

/-- The release of R112 for a unit whose last wave exits: its lines drain, then the marks advance on every die. -/
def State.endRelease (s : State) (u : Nat) : State :=
  match s.unit u with
  | none => s
  | some r =>
    let id := s.cur
    let step := (s.wave id).step
    if step = 3 then
      if s.drains.any (·.unit == u) || s.acks.any (·.unit == u) || s.reqs.any (fun q => r.slots.contains q.ident) then s.stall
      else
        let sc := (((s.launch r.task.launch).getD {}).compScope)
        let s := r.slots.foldl (fun (s : State) y => let e := s.own y; s.sendAll y { (e.publish sc e.cur) with v := false }) s
        s.modWave id (fun w => { w with step := 4, st := .stalled })
    else if s.changes.any (fun c => r.slots.contains c.ident) then s.stall
    else s.endUnit u

/-- exit of a wave outside save mode (R181). -/
def State.exitWave (s : State) : State :=
  let id := s.cur
  let w := s.wave id
  let u := w.unit
  if 3 ≤ w.step then s.endRelease u
  else if w.step = 0 && (s.unverified id || w.cpc != 0 || w.ttc != 0) then s.stall
  else
    let s := if w.step = 0 then ((s.grazeClose id).commitStage1 id).modWave id (fun w => { w with step := 2, rgn := { w.rgn with lead := true }, loads := [], ldc := 0, busy := [] }) else s
    match s.releaseStep id 2 with
    | (s, false) => s.stall
    | (s, true) =>
      match s.syncEnd id with
      | (s, false) => s.stall
      | (s, true) =>
        match s.unit u with
        | none => s.vacate id
        | some r =>
          if (s.liveSlots u r).all (· == id) then
            let s := s.sendStatus id { (s.own id) with v := false }
            let s := { s with drains := s.drains ++ ((r.sb.filter (fun (e : SBEntry) => e.sp == Space.mem)).map (fun (e : SBEntry) => (e.ident, e.base))).eraseDups.map (fun (x : Nat × Nat) => (⟨x.1, u, x.2⟩ : Drain)) }
            s.modWave id (fun w => { w with step := 3, st := .stalled })
          else (s.vacate id).modUnit u (fun r => { r with gone := nsAdd r.gone w.widx, clocks := mset 0 r.clocks w.widx w.clock })

/-- exit of a control program: a release at the launch's completion scope, then the launch's counter falls (R175). -/
def State.exitCtl (s : State) : State :=
  let id := s.cur
  let l := (s.wave id).launch
  match s.releaseStep id (((s.launch l).getD {}).compScope) with
  | (s, false) => s.stall
  | (s, true) =>
    match s.syncEnd id with
    | (s, false) => s.stall
    | (s, true) => ((s.vacate id).modLaunch l (fun x => { x with ctl := 2 })).lowerLaunch l

/-- exit in save mode waits for the wave's accesses and for the verdicts of its claims (R95, R110); the unit is saved with its last wave (R436). A wave that has executed it is WAITING. -/
def State.exitSave (s : State) : State :=
  let id := s.cur
  let w := s.wave id
  match s.unit w.unit with
  | none => s
  | some r =>
    if w.cpc != 0 || w.ttc != 0 || w.ldc != 0 || s.unverified id then s.stall
    else
    let s := s.modWave id (fun w => { w with st := .waiting, wait := .none })
    if (s.liveSlots w.unit r).all (fun x => x == id || (s.wave x).st == .waiting) then
      match s.saveReady id w.unit r with
      | (s, true) => s.saveUnit w.unit
      | (s, false) => s.stall
    else s

def execExit (s : State) : Host.Outcome State Fault Refusal :=
  let w := s.wave s.cur
  gated .exit s (if w.ctl then s.exitCtl else if w.mode == .save then s.exitSave else s.exitWave)

/-! ## Traps (R253 to R256) -/

/-- Whether a trap or breakpoint goes to the wave's handler (R253 case 2). -/
def Wave.delivers (w : Wave) (bit : Nat) : Bool := !w.ctl && !w.tstat.getLsbD 0 && w.tvec.getLsbD bit

def execTrap (code : Nat) (s : State) : Host.Outcome State Fault Refusal :=
  gated (.trap code) s
    (if (s.wave s.cur).delivers 0 then s.modWave s.cur (fun w => (trapEnter 0x0E code w).complete (.trap code))
     else s.trapCur { cause := 0x0E, detail := BitVec.ofNat 64 code })

def execTret (s : State) : Host.Outcome State Fault Refusal :=
  let w := s.wave s.cur
  gated .tret s
    (if w.mode == .restore then
       let s := s.modWave s.cur (fun w => { w with inTret := true, st := .stalled })
       if s.canResume w.unit then s.resumeUnit w.unit else s
     else if w.level = 0 then s.trapCur (privTrap 0)
     else if w.tepc.toNat % 4 ≠ 0 then s.trapCur alignTrap
     else s.modWave s.cur (fun w => (trapReturn w).complete .tret))

def execBkpt (tag : Nat) (s : State) : Host.Outcome State Fault Refusal :=
  let w := s.wave s.cur
  gated (.bkpt tag) s
    (if w.bkarm then s.finishCur (.bkpt tag) (fun w => { w with halt := true })
     else if w.delivers 1 then
       if s.unverified s.cur then s.stall
       else (s.commitStage1 s.cur).modWave s.cur (fun w => (trapEnter 0x0D tag w).complete (.bkpt tag))
     else s.trapCur { cause := 0x0D, detail := BitVec.ofNat 64 tag })

/-! ## spawn and yield (R159, R160, R257, R258, R274) -/

/-- The next unit index of a stage (R159). -/
def Launch.takeIndex (l : Launch) (stage : Nat) : Launch × Nat :=
  let n := l.next.getD stage 0
  ({ l with next := l.next.set stage (n + 1) }, n)

/-- A child enqueued; a child of a cancelled launch is discarded and counts as ended (R179). -/
def State.spawnChild (s : State) (l : Nat) (stage depth budget prio : Nat) (t arg : W64) : State :=
  match s.launch l with
  | none => s
  | some x =>
    let (x, n) := x.takeIndex stage
    let s := s.setLaunch l (some { x with cnt := { x.cnt with count := x.cnt.count + 1 } })
    if x.cnt.cancelled then s.lowerLaunch l
    else { s with pend := s.pend ++ [{ launch := l, stage := stage, uidx := n, child := some (t, arg), depth := depth, budget := budget, prio := prio, relaunches := 0, taken := x.taken, avoid := none }] }

/-- The checks of spawn and its child (R257, R274). -/
def State.spawnFrom (s : State) (i : Instr) (t arg : LV) : State :=
  let w := s.wave s.cur
  let depth := match s.unitOf s.cur with | some r => r.task.depth | none => 0
  if t.val % 4 ≠ 0 then s.trapCur alignTrap
  else if !canonical t.val || (upper t.val && w.level < 3) then s.trapCur (accessAt (BitVec.ofNat 64 t.val))
  else if depth = 8 then s.trapCur { cause := 0x11 }
  else
    let s := match s.unitOf s.cur with
      | some r => s.spawnChild r.task.launch r.task.stage (depth + 1) r.task.budget w.base (BitVec.ofNat 64 t.val) (BitVec.ofNat 64 arg.val)
      | none =>
        let l := (s.launch w.launch).getD {}
        s.spawnChild w.launch 0 0 (12 * (l.stages.getD 0 {}).budget) l.prio (BitVec.ofNat 64 t.val) (BitVec.ofNat 64 arg.val)
    s.finishCur i (fun w => w)

def execSpawn (t arg : HSrc) (s : State) : Host.Outcome State Fault Refusal :=
  let w := s.wave s.cur
  gated (.spawn t arg) s
    (match uniform w 2 t.src, uniform w 3 arg.src with
     | .error e, _ => s.trapCur e
     | _, .error e => s.trapCur e
     | .ok x, .ok y => (s.modWave s.cur (fill (some ⟨.i64, true, t.src⟩) (some ⟨.i64, true, arg.src⟩) none)).spawnFrom (.spawn t arg) x y)

/-- yield: the quarter passes the wave over for a while; no effect on a control core (R258, R274). -/
def execYield (s : State) : Host.Outcome State Fault Refusal :=
  gated .yield s (s.finishCur .yield (fun w => if w.ctl then w else { w with yielded := some s.cycle }))

end Sys2Proof.Machine
end

