-- ==== Sys2Proof/Machine/System.lean ====
section
/-! DEFINITION. The system registers (R84, R268 to R271, R401, R403 to R405, R428), rdsys, wrsys, the context window's two forms, rdtime, rdid and svc (R259, R267, R272, R273). -/

namespace Sys2Proof.Machine

/-- A translation that the wave waits for (R38, R39). -/
def State.awaitWalk (s : State) (k : AccKind) (lanes : W32) (addrs : List (Nat × W64)) : State :=
  s.modWave s.cur (fun w => { w with st := .stalled, walk := some ⟨k, lanes, addrs⟩ })

/-! ## Reading -/

/-- A counter word (R178). -/
def Counter.word (c : Counter) : Nat := cond c.done (2 ^ 63) 0 + cond c.cancelled (2 ^ 62) 0 + c.count % 2 ^ 32

/-- VLTSTAT (R83, R84). -/
def State.vltstat (s : State) (c : Nat) : Nat :=
  let v := vaultOf c
  let m := (s.vault v).mult
  let hot := (([0, 1, 2] : List Nat).map (fun k => (s.core (c / 3 * 3 + k)).temp)).foldl max 0
  let code := if (s.core c).throttled then 3 else m
  (if m = 0 then 480 else if m = 1 then 460 else 420) * 2 ^ 32 + s.hwN 0x1510 1 * 2 ^ 24 + min 255 hot * 2 ^ 16 + code * 2 ^ 14 + v % 16 * 16 + v / 16 * 4

/-- Whether a wave is halted; in save and restore mode the bit stands in the record (R172, R430). -/
def Wave.haltBit (w : Wave) : Bool := if w.mode == .normal then w.halt else w.shadow.pre.halt

/-- A mask over the local slots of a core (R405). -/
def State.slotMask (s : State) (c : Nat) (f : Wave → Bool) : Nat :=
  ((List.range 64).map (fun k => if (s.wave (64 * c + k)).st != .empty && f (s.wave (64 * c + k)) then 2 ^ k else 0)).foldl (· + ·) 0

/-- Whether a logical core belongs to a function (R405). -/
def State.ownsCore (s : State) (v l : Nat) : Bool := decide (l < 192) && (s.core (s.phys l)).vf == some v

/-- The registers that a control core reads as 0 (R274). -/
def ctlZero (idx : Nat) : Bool := idx ≤ 4 || (0x10 ≤ idx && idx ≤ 0x13) || (0x100 ≤ idx && idx < 0x140)

/-- A system register as rdsys gives it, CTXDAT apart; none is PRIV (R267, R268). -/
def State.sysRead (s : State) (id idx : Nat) : Option Nat :=
  let w := s.wave id
  let c := coreOf id
  let f := s.vf w.vf
  let l := s.launch w.launch
  let level := fun (n : Nat) => decide (n ≤ w.level)
  if w.ctl && ctlZero idx then some 0
  else if idx = 0 then some (w.fpend.getD w.fmode).toNat
  else if idx = 1 then some w.nmode.toNat
  else if idx = 2 then some ((s.unit w.unit).map (·.accstat.toNat) |>.getD 0)
  else if idx = 3 then some w.depth
  else if idx = 4 then some w.level
  else if idx = 0x40 then some ((l.map (·.cnt.word)).getD 0)
  else if 0x41 ≤ idx && idx ≤ 0x43 then
    some (match l with
      | some x =>
        let i := if idx = 0x41 then x.graph else if idx = 0x42 then x.phase else x.job
        if i = 0 then 0 else (mget {} f.ctab i).word
      | none => 0)
  else if 0x100 ≤ idx && idx < 0x140 then some (mentBits (w.ment ((idx - 0x100) / 2)) / 2 ^ (64 * (idx % 2)) % 2 ^ 64)
  else if !level 1 then none
  else if idx = 0x10 then some w.tvec.toNat
  else if idx = 0x11 then some w.tepc.toNat
  else if idx = 0x12 then some w.tcause.toNat
  else if idx = 0x13 then some w.tstat.toNat
  else if idx = 0x14 then some f.dtvec.toNat
  else if idx = 0x15 then some f.ctxsv.toNat
  else if idx = 0x16 then some f.ctxrs.toNat
  else if idx = 0x17 then some f.ctxpool.toNat
  else if idx = 0x18 then (if w.mode == .normal then none else some (w.svarea.toNat % 2 ^ 57))
  else if idx = 0x19 then some (s.hwN (gBase w.vf + 0x28) 8)
  else if idx = 0x1A then (if w.mode == .normal then none else some w.ctxsel.toNat)
  else if idx = 0x20 then some (s.vltstat c)
  else if 0x80 ≤ idx && idx < 0x88 then some (mget 0 (s.core c).trcfg (idx - 0x80)).toNat
  else if 0x88 ≤ idx && idx < 0x90 then some (cond (s.core c).lent (2 ^ 63) 0 + (mget 0 (s.core c).trcnt (idx - 0x88)).toNat % 2 ^ 63)
  else if 0x10001 ≤ idx && idx ≤ 0x10FFF then some (mget {} f.ctab (idx - 0x10000)).word
  else if 0x20000 ≤ idx && idx < 0x20400 then
    let d := (idx - 0x20000) / 256
    let k := idx % 256 / 16
    s.bankRead w.vf d k (idx % 16)
  else if 0x30000 ≤ idx && idx < 0x300C0 then
    if s.ownsCore w.vf (idx - 0x30000) then some (s.slotMask (s.phys (idx - 0x30000)) Wave.haltBit) else none
  else if 0x30100 ≤ idx && idx < 0x301C0 then
    if s.ownsCore w.vf (idx - 0x30100) then some (s.slotMask (s.phys (idx - 0x30100)) (·.bkarm)) else none
  else none

/-! ## Writing -/

/-- GQREAD of a function: a value that would leave the queue's count negative or above its size is ignored; held records are written as space appears (R370, R385). -/
def State.putGqread (s : State) (v val : Nat) : State :=
  let b := gBase v
  let wr := s.hwN (b + 0x20) 8
  if wr < val || 2 ^ s.hwN (b + 9) 1 < wr - val then s
  else (List.range 64).foldl (fun (s : State) _ => s.gFlush v) (s.setHw (b + 0x28) val 8)

/-- TRCFG(k) (R403): only EVENT and EN are kept. -/
def State.putTrcfg (s : State) (c k val : Nat) : State :=
  s.modCore c (fun x => { x with trcfg := mset 0 x.trcfg k (BitVec.ofNat 64 (bits val 8 8 * 256 + val % 2)) })

/-- TRCNT(k) (R403): ignored while the hypervisor holds the unit. -/
def State.putTrcnt (s : State) (c k val : Nat) : State :=
  s.modCore c (fun x => if x.lent then x else { x with trcnt := mset 0 x.trcnt k (BitVec.ofNat 64 (val % 2 ^ 63)) })

/-- A change of every occupied slot of a core. -/
def State.overSlots (s : State) (c : Nat) (f : Nat → Wave → Wave) : State :=
  (List.range 64).foldl (fun (s : State) k => if (s.wave (64 * c + k)).st != .empty then s.modWave (64 * c + k) (f k) else s) s

/-- RUNHALT(c) and RUNBK(c) of a physical core (R405). -/
def State.putRunhalt (s : State) (c val : Nat) : State :=
  s.overSlots c (fun k w => if w.mode == .normal then { w with halt := val.testBit k } else { w with shadow := { w.shadow with pre := { w.shadow.pre with halt := val.testBit k } } })
def State.putRunbk (s : State) (c val : Nat) : State := s.overSlots c (fun k w => { w with bkarm := val.testBit k })

/-- wrsys, CTXDAT apart; none is PRIV (R267, R268). -/
def State.sysWrite (s : State) (id idx val : Nat) : Option State :=
  let w := s.wave id
  let c := coreOf id
  let put := fun (w : Wave) => some (s.setWave id w)
  let level := fun (n : Nat) => decide (n ≤ w.level)
  if w.ctl && ctlZero idx then some s
  else if idx = 0 then put { w with fpend := some (BitVec.ofNat 32 (val % 256 / 2 * 2)) }
  else if idx = 1 then put { w with nmode := nmodeOf val }
  else if idx = 2 then some (s.modUnit w.unit (fun r => { r with accstat := r.accstat &&& ~~~ BitVec.ofNat 64 val }))
  else if idx = 4 || (0x40 ≤ idx && idx ≤ 0x43) then some s
  else if !level 1 then none
  else if idx = 3 then put { w with depth := min 32 (val % 64) }
  else if 0x100 ≤ idx && idx < 0x140 then
    let e := (idx - 0x100) / 2
    put (w.setMent e (mentOf (setHalf (mentBits (w.ment e)) (idx % 2) val)))
  else if idx = 0x10 then put { w with tvec := BitVec.ofNat 64 (val % 2 ^ 57) }
  else if idx = 0x11 then put { w with tepc := BitVec.ofNat 64 (val % 2 ^ 57) }
  else if idx = 0x12 then put { w with tcause := BitVec.ofNat 64 (val % 2 ^ 28) }
  else if idx = 0x13 then put { w with tstat := BitVec.ofNat 64 (val % 8) }
  else if idx = 0x14 then (if level 2 then some (s.modVf w.vf (fun f => { f with dtvec := BitVec.ofNat 64 (val % 2 ^ 57) })) else none)
  else if idx = 0x15 then some (s.modVf w.vf (fun f => { f with ctxsv := BitVec.ofNat 64 (bits val 2 55 * 4 + val % 2) }))
  else if idx = 0x16 then some (s.modVf w.vf (fun f => { f with ctxrs := BitVec.ofNat 64 (bits val 2 55 * 4 + val % 2) }))
  else if idx = 0x17 then some (s.modVf w.vf (fun f => { f with ctxpool := BitVec.ofNat 64 (bits val 22 35 * 2 ^ 22 + min 12 (val % 16)) }))
  else if idx = 0x18 then (if w.mode == .normal then none else some s)
  else if idx = 0x19 then some (s.putGqread w.vf val)
  else if idx = 0x1A then (if w.mode == .normal then none else put { w with ctxsel := BitVec.ofNat 64 (val % 2 ^ 32) })
  else if idx = 0x20 then some s
  else if 0x80 ≤ idx && idx < 0x88 then some (s.putTrcfg c (idx - 0x80) val)
  else if 0x88 ≤ idx && idx < 0x90 then some (s.putTrcnt c (idx - 0x88) val)
  else if 0x10001 ≤ idx && idx ≤ 0x10FFF then
    some (s.modVf w.vf (fun f => { f with ctab := mset {} f.ctab (idx - 0x10000) ⟨val % 2 ^ 32 == 0, false, val % 2 ^ 32⟩ }))
  else if 0x20000 ≤ idx && idx < 0x20400 then (if idx % 16 < bankCount (idx % 256 / 16) then some s else none)
  else if 0x30000 ≤ idx && idx < 0x300C0 then
    if s.ownsCore w.vf (idx - 0x30000) then some (s.putRunhalt (s.phys (idx - 0x30000)) val) else none
  else if 0x30100 ≤ idx && idx < 0x301C0 then
    if s.ownsCore w.vf (idx - 0x30100) then some (s.putRunbk (s.phys (idx - 0x30100)) val) else none
  else none

/-! ## rdsys and wrsys (R267, R433) -/

/-- Whether an access of index 0x1B is one of the context window (R428). -/
def Wave.window (w : Wave) (idx : Nat) : Bool := idx == 0x1B && w.mode != .normal && decide (1 ≤ w.level)

/-- rdsys of the item that CTXSEL selects (R433). -/
def State.readItem (s : State) (i : Instr) (d : Nat) : State :=
  let s := s.gateMark s.cur
  match s.ctxItem s.cur with
  | .value v => s.finishCur i (writeS d ⟨v, none, false⟩)
  | .wait => s.stall
  | .access => s.trapCur { cause := 0x06 }

/-- wrsys of the item that CTXSEL selects, in restore mode; ignored in save mode (R433, R435). -/
def State.writeItem (s : State) (i : Instr) (v : Nat) : State :=
  let w := s.wave s.cur
  let k := bits w.ctxsel.toNat 24 8
  let n := bits w.ctxsel.toNat 0 24
  if w.mode != .restore then s.finishCur i (fun w => w)
  else match s.ctxPut s.cur v with
    | none => s.trapCur { cause := 0x06 }
    | some s' =>
      if k = 9 && n % 10 = 9 then
        match s'.installEntry s.cur (n / 10) with
        | .done s2 => s2.finishCur i (fun w => w)
        | .fault t => s.trapCur t
        | .miss va => s.awaitWalk .write 0 [(0, BitVec.ofNat 64 va)]
      else s'.finishCur i (fun w => w)

def execRdsys (d index : Nat) (s : State) : Host.Outcome State Fault Refusal :=
  gated (.rdsys d index) s
    (if (s.wave s.cur).window index then s.readItem (.rdsys d index) d
     else match s.sysRead s.cur index with
      | some v => (if 0x20000 ≤ index && index < 0x20400 then s.gather (s.wave s.cur).vf else s).finishCur (.rdsys d index) (writeS d ⟨v, none, false⟩)
      | none => s.trapCur (privTrap 0))

def execWrsys (a : Src) (index : Nat) (s : State) : Host.Outcome State Fault Refusal :=
  gated (.wrsys a index) s
    (match s.ueScalar [(2, a)] with
     | some t => s.trapCur t
     | none =>
       let s := s.modWave s.cur (fillScalars [(2, a)])
       if (s.wave s.cur).window index then s.writeItem (.wrsys a index) (s.sval a)
       else match s.sysWrite s.cur index (s.sval a) with
        | some s' => s'.finishCur (.wrsys a index) (fun w => w)
        | none => s.trapCur (privTrap 0))

/-- CTXDAT_READ: rdsys of CTXDAT (R433). -/
def execCtxdatRead (d : Nat) (s : State) : Host.Outcome State Fault Refusal := execRdsys d 0x1B s
/-- CTXDAT_WRITE: wrsys of CTXDAT (R433). -/
def execCtxdatWrite (a : Src) (s : State) : Host.Outcome State Fault Refusal := execWrsys a 0x1B s

/-- A register write of the current wave, apart from the instruction that makes it. -/
def State.regWrite (s : State) (idx val : Nat) : State :=
  match s.sysWrite s.cur idx val with
  | some s => s
  | none => s.trapCur (privTrap 0)

/-- GQRD_WRITE: GQREAD of a function (R370). -/
def execGqrdWrite (vf : Nat) (value : W64) (s : State) : Host.Outcome State Fault Refusal := .next (s.putGqread vf value.toNat)
/-- TRCFG_WRITE by the current wave (R403). -/
def execTrcfgWrite (k : Nat) (value : W64) (s : State) : Host.Outcome State Fault Refusal := .next (s.regWrite (0x80 + k % 8) value.toNat)
/-- RUNHALT_WRITE by the current wave (R405). -/
def execRunhaltWrite (c : Nat) (value : W64) (s : State) : Host.Outcome State Fault Refusal := .next (s.regWrite (0x30000 + c % 256) value.toNat)
/-- RUNBK_WRITE by the current wave (R405). -/
def execRunbkWrite (c : Nat) (value : W64) (s : State) : Host.Outcome State Fault Refusal := .next (s.regWrite (0x30100 + c % 256) value.toNat)

/-! ## rdtime and rdid (R272 to R274) -/

def execRdtime (d : Nat) (s : State) : Host.Outcome State Fault Refusal :=
  gated (.rdtime d) s (s.finishCur (.rdtime d) (fun w => writeS d ⟨w.clock % 2 ^ 64, none, false⟩ w))

/-- The identity that a selector names in a lane; none is PRIV (R273, R274). -/
def State.ident (s : State) (sel l : Nat) : Option Nat :=
  let id := s.cur
  let w := s.wave id
  let c := coreOf id
  let t := match s.unitOf id with | some r => (r.task.uidx, r.w, r.task.stage, r.task.depth) | none => (0, 0, 0, 0)
  if 11 ≤ sel && sel ≤ 12 && w.level < 1 then none
  else if 13 ≤ sel && sel ≤ 14 && w.level < 2 then none
  else if w.ctl && ((1 ≤ sel && sel ≤ 4) || (6 ≤ sel && sel ≤ 9)) then some 0
  else match sel with
    | 0 => some l
    | 1 => some w.widx
    | 2 => some t.1
    | 3 => some t.2.1
    | 4 => some t.2.2.1
    | 5 => some (s.logical c)
    | 6 => some (id % 64 / 16)
    | 7 => some (id % 64)
    | 8 => some (w.unit % 16)
    | 9 => some t.2.2.2
    | 10 => some ((s.launch w.launch).map (·.launchid.toNat) |>.getD 0)
    | 11 => some w.vf
    | 12 => some (dieOfCore c)
    | 13 => some c
    | 14 => some id
    | _ => none

def execRdid (d : Dst) (sel : Nat) (s : State) : Host.Outcome State Fault Refusal :=
  gated (.rdid d sel) s
    (match s.ident sel 0 with
     | none => s.trapCur (privTrap 0)
     | some v =>
       match d with
       | .s n => if sel = 0 then s.trapCur (illop 0x06 1) else s.finishCur (.rdid d sel) (writeS n ⟨v, none, false⟩)
       | d => s.finishCur (.rdid d sel) (fun w =>
           let xs := (execLanes w).map (fun l => (l, (⟨(s.ident sel l).getD 0, none, false⟩ : LV)))
           if xs.isEmpty then w else touchDst false d (xs.foldl (wrLane false d) w)))

/-! ## svc (R28, R259) -/

/-- The request block's line checked, the wave's entries of it drained, the request posted (R28, R259): for a block in a fabric window once the drain has been acknowledged, so that firmware reads and answers after it. -/
def State.postSvc (s : State) (code : Nat) : State :=
  let w := s.wave s.cur
  let s0 := mget 0 w.regs.s 0
  match s.xlate (coreOf s.cur) w.vf w.level .write (s0.toNat / 64 * 64) with
  | .access => s.trapCur (accessAt s0)
  | .priv => s.trapCur (accessAt s0)
  | .miss => s.awaitWalk .write 0 [(0, s0)]
  | .ok p _ =>
    if isFabric p && (s.drainLines s.cur).contains (p / 64 * 64) then
      ((s.modWave s.cur (fun w => { w with rgn := { w.rgn with lead := true } })).drainRange s.cur p (p + 64)).stall
    else if isFabric p && s.lineOut s.cur (p / 64 * 64) then s.stall
    else
    let n := s.fresh
    let s := (s.tick).drainRange s.cur p (p + 64)
    let s := s.modVf w.vf (fun f => { f with svcq := f.svcq ++ [⟨n, code, s0.toNat, p, false, 0, false⟩] })
    s.modWave s.cur (fun w => { w with st := .waiting, wait := .svc, svcreq := some n, rgn := { w.rgn with lead := true } })

def execSvc (code : Nat) (s : State) : Host.Outcome State Fault Refusal :=
  let w := s.wave s.cur
  gated (.svc code) s
    (if w.level < 1 || code < 0x40 || 0x43 < code then s.trapCur (privTrap code)
     else match s.ueScalar [(2, .s 0)] with
      | some t => s.trapCur t
      | none => s.postSvc code)

end Sys2Proof.Machine
end

