-- ==== Sys2Proof/Machine/Access.lean ====
section
/-! DEFINITION. What every access shares (R311 to R317): address formation, the checks of R313 in their order, range locks (R129 to R131), claims (R93), fabric requests (R17, R407 to R412), loads and stores on their way. -/

namespace Sys2Proof.Machine

/-- One lane of an access: its address as the program forms it (an offset in scratchpad), where it goes, whether its page has ATTR cached, whether the address was tainted. -/
structure Acc where
  lane : Nat
  va : Nat
  sp : Space
  pa : Nat
  cached : Bool
  taint : Bool
  deriving DecidableEq, Repr

/-- What translation and range give for all lanes (R313 step 3): the lanes that translated load their last-page registers, also where others miss (R24 step 4). -/
inductive Looked where
  | ok (xs : List Acc) (lpr : SMap (Option Page))
  | trap (t : Trap)
  | miss (lanes : W32) (addrs : List (Nat × W64)) (lpr : SMap (Option Page))
  deriving DecidableEq, Repr

/-! ## Addresses (R311) -/

/-- The sum of address and offset in a lane, with the marks of both; in scratchpad it is an exact integer. -/
def addrLV (w : Wave) (sp : Bool) (a c : Src) (l : Nat) : Int × LV :=
  let x := srcLV w 2 (if sp then .i32 else .i64) (!sp) a l
  let y := srcLV w 4 .i32 false c l
  let t := (x.val : Int) + toSigned 32 y.val
  (if sp then t else t % 2 ^ 64, LV.mix 0 x y)

/-- The lowest of some addresses. -/
def lowest (xs : List Nat) : Nat := xs.foldl min (xs.headD 0)

/-- A fault of some lanes with the lowest of their addresses; scalar accesses have no lane mask (R316). -/
def laneFault (cause : Nat) (vec : Bool) (xs : List (Nat × Nat)) : Trap :=
  { cause := cause, lanes := if vec then laneMask (fun l => xs.any (·.1 == l)) else 0, addr := BitVec.ofNat 64 (lowest (xs.map (·.2))) }

/-- Whether the page that a walk finds for an address that misses the TLB turns the access away, by its permissions or its fabric window (R17, R38 step 2). -/
def State.breaks (s : State) (c : Nat) (w : Wave) (k : AccKind) (va : Nat) : Bool :=
  match s.coreWalk c w.vf va with
  | some g => g.has w.vf va && (!g.allows w.level k || (isFabric (g.phys va) && !s.winOk w.vf (g.phys va)))
  | none => false

/-- Virtual addresses: alignment, then canonical form and permission, then translation (R24, R38). -/
def State.lookVirt (s : State) (id : Nat) (k : AccKind) (size : Nat) (vec : Bool) (xs : List (Nat × Nat × Bool)) : Looked :=
  let w := s.wave id
  let bad := xs.filter (fun x => x.2.1 % size != 0)
  if !bad.isEmpty then .trap (laneFault 0x04 vec (bad.map (fun x => (x.1, x.2.1))))
  else
    let rs := xs.map (fun x => (x, match (if vec then s.xlateLane (coreOf id) w k x.1 x.2.1 else s.xlate (coreOf id) w.vf w.level k x.2.1) with
      | .miss => if s.breaks (coreOf id) w k x.2.1 then .access else .miss
      | r => r))
    let at_ := fun (p : XR → Bool) => (rs.filter (fun x => p x.2)).map (fun x => (x.1.1, x.1.2.1))
    let acc := at_ (fun r => r == .access)
    let prv := at_ (fun r => r == .priv)
    let mis := at_ (fun r => r == .miss)
    let lpr := if vec then rs.foldl (fun m x => match x.2 with | .ok _ g => mset none m x.1.1 (some g) | _ => m) w.lpr else w.lpr
    if !acc.isEmpty then .trap (laneFault 0x06 vec acc)
    else if !prv.isEmpty then .trap (laneFault 0x02 vec prv)
    else if !mis.isEmpty then .miss (if vec then laneMask (fun l => mis.any (·.1 == l)) else 0) (xs.map (fun x => (x.1, BitVec.ofNat 64 x.2.1))) lpr
    else
      .ok (rs.filterMap (fun x => match x.2 with | .ok p g => some ⟨x.1.1, x.1.2.1, .mem, p, g.attr == 0, x.1.2.2⟩ | _ => none)) lpr

/-- Scratchpad offsets: alignment, then range (R67, R311). -/
def State.lookSpad (s : State) (id size : Nat) (vec : Bool) (xs : List (Nat × Int × Bool)) : Looked :=
  let w := s.wave id
  let r := (s.unit w.unit).getD { task := ⟨0, 0, 0, none, 0, 0, 0, 0, 0, none⟩ }
  let n := fun (x : Nat × Int × Bool) => (x.1, (x.2.1 % 2 ^ 64).toNat)
  let bad := xs.filter (fun x => x.2.1 % (size : Int) != 0)
  let out := xs.filter (fun x => x.2.1 < 0 || (4096 * r.sgran : Int) < x.2.1 + size)
  if !bad.isEmpty then .trap (laneFault 0x04 vec (bad.map n))
  else if !out.isEmpty then .trap (laneFault 0x06 vec (out.map n))
  else .ok (xs.map (fun x => ⟨x.1, x.2.1.toNat, .spad (coreOf id), r.spad0 + x.2.1.toNat, false, x.2.2⟩)) w.lpr

/-! ## Range locks (R131) -/

def spaceCode : Space → Nat
  | .mem => 0
  | .spad _ => 1

/-- The lowest entry that an access of n bytes conflicts with. -/
def Core.lockHit (x : Core) (space pa n : Nat) (write : Bool) : Option (Nat × Lock) :=
  x.locks.findSome? (fun e => match e.2 with
    | some l => if l.space == space && l.first ≤ (pa + n - 1) / 32 && pa / 32 ≤ l.last && (l.wl || write) then some (e.1, l) else none
    | none => none)

/-- MMLOCK of the lanes that conflict (R131). -/
def Core.lockTrap (x : Core) (size : Nat) (write vec : Bool) (xs : List (Nat × Nat × Nat × Nat)) : Option Trap :=
  let hit := xs.filterMap (fun a => (x.lockHit a.2.2.1 a.2.2.2 size write).map (fun h => (a.1, a.2.1, h)))
  match hit with
  | [] => none
  | h :: r =>
    let low := r.foldl (fun (m : Nat × Nat × Nat × Lock) y => if y.2.2.1 < m.2.2.1 then y else m) h
    let e := low.2.2
    some { (laneFault 0x09 vec ((h :: r).map (fun y => (y.1, y.2.1)))) with
           detail := BitVec.ofNat 64 (e.1 * 2 ^ 36 + e.2.owner * 2 ^ 28 + e.2.unit * 2 ^ 24 + e.2.space * 2 ^ 16 + cond e.2.wl 2 0 + cond write 1 0) }

/-- R313 steps 3 and 4 for the lanes of an access. -/
def State.look (s : State) (id : Nat) (sp : Bool) (k : AccKind) (size : Nat) (vec : Bool) (xs : List (Nat × Int × Bool)) : Looked :=
  let r := if sp then s.lookSpad id size vec xs else s.lookVirt id k size vec (xs.map (fun x => (x.1, x.2.1.toNat, x.2.2)))
  match r with
  | .ok ys m =>
    if (s.wave id).mode != .normal then .ok ys m
    else match (s.core (coreOf id)).lockTrap size (k == .write) vec (ys.map (fun a => (a.lane, a.va, spaceCode a.sp, a.pa))) with
      | some t => .trap t
      | none => .ok ys m
  | r => r

/-! ## Claims -/

/-- Whether an access lies in a buffer that a handle of its unit has bound: such buffers are not tracked, since the handles order them (R127, R133, R341). -/
def State.inBuffer (s : State) (id : Nat) (a : Acc) : Bool :=
  match a.sp, s.unitOf id with
  | .spad _, some r => (List.range 16).any (fun h => let x := State.handle r h; x.blen != 0 && r.spad0 + x.base ≤ a.pa && a.pa < r.spad0 + x.base + x.blen)
  | _, _ => false

/-- The claims of an access (R93): one for each granule of tracked memory, with its lanes and its lowest address. -/
def claimsOf (id interval op now : Nat) (k : ClaimKind) (vec : Bool) (xs : List Acc) : List Claim :=
  let t := xs.filter (fun a => tracked a.sp a.pa)
  ((t.map (fun a => granule a.sp a.pa)).eraseDups).map (fun g =>
    let mine := t.filter (fun a => granule a.sp a.pa == g)
    ⟨id, g, k, interval, if vec then laneMask (fun l => mine.any (·.lane == l)) else 0, op, BitVec.ofNat 64 (lowest (mine.map (·.va))), now⟩)

/-- The claims that an access of an identity makes: none in a bound handle buffer. -/
def State.claimsOf (s : State) (id interval op now : Nat) (k : ClaimKind) (vec : Bool) (xs : List Acc) : List Claim :=
  Machine.claimsOf id interval op now k vec (xs.filter (fun a => !s.inBuffer id a))

/-- Whether claims can be evaluated at once: there is room for their records, and the homes have applied the identity's status changes (R80, R91). -/
def State.claimReady (s : State) (cs : List Claim) : Bool :=
  cs.all (fun c => s.room c.gran && !s.changes.any (fun x => x.ident == c.ident && x.die == granDie c.gran))

/-- Claims sent; one that finds no room is a stall for space (R80, R401). -/
def State.sendClaims (s : State) (cs : List Claim) : State := cs.foldl (fun s c => (if s.room c.gran then s else s.bump (s.wave c.ident).vf (granDie c.gran) 1 3 1).sendClaim c) s

/-- In serial mode a claim that finds no room waits at its home, and the instruction with it (R80, R95). -/
def State.waitRoom (s : State) (cs : List Claim) : State :=
  if s.unverified s.cur || cs.any (fun c => s.changes.any (fun x => x.ident == c.ident && x.die == granDie c.gran)) then s.stall
  else ((s.tick).sendClaims (cs.map (fun c => { c with op := 1 }))).stall

/-! ## Fabric requests -/

/-- The held requests that may go now are sent, in their order (R412). -/
def State.unhold (s : State) : State :=
  (s.reqs.filter (·.held)).foldl (fun (s : State) q =>
    let before := s.reqs.takeWhile (fun x => x.id != q.id)
    if State.switchHeld { s with reqs := before } q.dst q.chan q.remote then s
    else
      let l := State.linkFor { s with reqs := before } q.dst q.remote
      let x := { q with held := false, link := l.getD 0, posted := s.cycle, fail := s.linkFail l (s.windowOf q.line).2.2 }
      State.countSent { s with reqs := s.reqs.map (fun y => if y.id == q.id then x else y) } x) s

/-- A line of the fabric window that the die's last-level cache, or for scalar loads the core's scalar cache, holds (R116). -/
def State.cachedLine (s : State) (id : Nat) (scalar : Bool) (line : Nat) : Option (List Byte) :=
  match (if scalar then mget none (s.core (coreOf id)).scache line else none) with
  | some b => some b
  | none => mget none (s.die (s.dieOf id)).fcache line

/-! ## Loads (R314, R316) -/

/-- The lines of the last-level cache that a free number says have been replaced before a load looks: no line is guaranteed to stay (R86). -/
def State.loseLines (s : State) (id : Nat) (lines : List Nat) : State :=
  s.modDie (s.dieOf id) (fun x =>
    let gone := fun (l : Nat) => lines.contains l && Config.freeNat (2 ^ 234 + 2 ^ 64 * s.fresh + l) % 2 == 1
    { x with fcache := x.fcache.filter (fun e => !gone e.1), fbad := x.fbad.filter (fun l => !gone l) })

/-- The lines whose copies a core's scalar cache holds (R116): tracked ones by the presence vectors of their homes, and those of fabric windows. -/
def State.scalarLines (s : State) (c : Nat) : List Nat := (s.present.filter (fun x => x.2.contains c)).map (·.1) ++ ((s.core c).scache).map (·.1)
/-- A copy leaves a core's scalar cache. -/
def State.dropScalar (s : State) (c line : Nat) : State :=
  State.modCore { s with present := mset [] s.present line ((mget [] s.present line).filter (· != c)) } c (fun x => { x with scache := mset none x.scache line none })
/-- Room for a line in a scalar cache of 64 KiB: where it is full a free number picks the line that goes (R86, R116). -/
def State.scalarRoom (s : State) (c line : Nat) : State :=
  let ls := s.scalarLines c
  if ls.contains line || ls.length < 1024 then s else match ls[Config.freeNat (2 ^ 236 + s.fresh) % ls.length]? with | some l => s.dropScalar c l | none => s
/-- The home of a tracked line notes that a core's scalar cache holds a copy (R116); what the copy holds is what the home holds, since no write is acknowledged before it falls (log 44). -/
def State.holdScalar (s : State) (c line : Nat) : State :=
  let s := s.scalarRoom c line
  { s with present := mset [] s.present line (nsAdd (mget [] s.present line) c) }

/-- The extension of a loaded element (R314). -/
def extend (size : Nat) (signed : Bool) (x : Nat) : Nat := if signed then wrap 32 (toSigned (8 * size) x) else x

/-- The bytes of a fabric line as a load sees them: the wave's own stores, the unit's published ones, then the line (R105). -/
def State.lineN (s : State) (id : Nat) (own : SMap (Option Byte)) (pa n : Nat) (line : List Byte) : Nat :=
  ofBytes ((List.range n).map (fun i =>
    match mget none own i with
    | some b => b
    | none =>
      match (match s.unitOf id with | some u => lastByte (u.sb.filter (fun e => e.pub && e.ident != id)) .mem (pa + i) | none => none) with
      | some b => b
      | none => line.getD (pa % 64 + i) 0))

/-- The value that a lane of a load takes at its home (R105, R396). -/
def State.take (s : State) (id size : Nat) (signed : Bool) (q : LoadReq) : LoadLane :=
  let bare := (List.range size).any (fun i => mget none q.own i == none)
  ⟨q.lane, BitVec.ofNat 64 (extend size signed (s.loadN id q.own q.sp q.addr size)), bare && s.poisoned q.sp q.addr size, q.taint⟩

/-- The value that a lane of a load of save or restore mode takes: its home's, past both store stages (R431, R396). -/
def State.takeHome (s : State) (size : Nat) (signed : Bool) (q : LoadReq) : LoadLane :=
  ⟨q.lane, BitVec.ofNat 64 (extend size signed (ofBytes ((List.range size).map (fun i => s.atHome q.sp (q.addr + i))))), s.poisoned q.sp q.addr size, q.taint⟩

/-- The requests of a load's lanes, with what the wave's own stores give them (R98). -/
def State.reqsOf (s : State) (id size : Nat) (xs : List Acc) : List LoadReq :=
  xs.map (fun a => ⟨a.lane, a.sp, a.pa, s.ownBytes id a.sp a.pa size, a.taint, a.va⟩)

/-- Whether a request is for the fabric. -/
def LoadReq.remote (q : LoadReq) : Bool := q.sp == .mem && isFabric q.addr

/-- The virtual address of a line that some requests want. -/
def vaOf (rs : List LoadReq) (p : Nat) : Nat := ((rs.find? (fun q => q.remote && q.addr / 64 * 64 == p)).map (fun q => q.va - q.addr % 64)).getD 0

/-- One lane of a load written to its register, with poison and taint (R87, R334). -/
def loadLane (dst size : Nat) (scalar : Bool) (w : Wave) (x : LoadLane) : Wave :=
  if scalar then
    let w := wrS w (dst - 256) x.value.toNat x.taint
    { w with poison := { w.poison with s := mset false w.poison.s (dst - 256) x.poison } }
  else if dst < 240 then
    let w := wrV w dst x.lane (x.value.toNat % 2 ^ 32) x.taint
    let w := if size = 8 then wrV w (dst + 1) x.lane (x.value.toNat / 2 ^ 32) x.taint else w
    if x.poison then
      let p := mset false w.poison.v (key dst x.lane) true
      { w with poison := { w.poison with v := if size = 8 then mset false p (key (dst + 1) x.lane) true else p } }
    else w
  else
    let n := dst - 320
    let w := wrO w n x.lane (x.value.toNat % 2 ^ 32) x.taint
    let w := if size = 8 then wrO w (n + 1) x.lane (x.value.toNat / 2 ^ 32) x.taint else w
    if x.poison then
      let p := mset false w.poison.o (key n x.lane) true
      { w with poison := { w.poison with o := if size = 8 then mset false p (key (n + 1) x.lane) true else p } }
    else w

/-- All lanes of a load written; the latches that name the destination fall (R63). -/
def writeLoad (dst size : Nat) (scalar : Bool) (xs : List LoadLane) (w : Wave) : Wave :=
  let w := xs.foldl (loadLane dst size scalar) w
  if xs.isEmpty then w else if size = 8 && !scalar then (w.touch dst).touch (dst + 1) else w.touch dst

/-- A load issued (R103, R314): in save and restore mode it is performed at its home at once, or asked of its endpoint (R431); in serial mode its claims are evaluated at once (R95); else the claims go out and each lane takes its value when its granule's claim is evaluated, or at once where the load makes no claim of that granule, in a bound buffer (R133, R341; log 123). -/
def State.issueLoad (s : State) (i : Instr) (f : Wave → Wave) (dst size : Nat) (signed scalar : Bool) (xs : List Acc) : State :=
  let id := s.cur
  let w := s.wave id
  let rs := s.reqsOf id size xs
  if xs.isEmpty then s.finishCur i f
  else if w.mode != .normal then
    let rs : List LoadReq := xs.map (fun a => ⟨a.lane, a.sp, a.pa, [], a.taint, a.va⟩)
    let far := rs.filter LoadReq.remote
    let got := (rs.filter (fun q => !q.remote)).map (s.takeHome size signed)
    if far.isEmpty then s.finishCur i (fun w => writeLoad dst size scalar got (f w))
    else if far.any (fun q => s.fabHeld q.addr) then s.stall
    else
      let op := s.fresh
      let s := ((far.map (fun q => q.addr / 64 * 64)).eraseDups).foldl (fun (s : State) p => s.fabSend id (.load op) p (vaOf far p) false []) s.tick
      s.finishCur i (fun w => let w := f w; { w with ldc := w.ldc + 1, loads := w.loads ++ [⟨op, dst, size, signed, scalar, far, got, w.rgn.opened, false, w.pc, true, false⟩] })
  else if 63 ≤ w.ldc then s.stall
  else if rs.any (fun q => q.remote && s.fabHeld q.addr) then s.stall
  else
    let op := s.fresh
    let cs := s.claimsOf id (s.interval id) op s.cycle .read (!scalar) xs
    if w.serial && !s.claimReady cs then s.waitRoom cs
    else
      let s := s.loseLines id (((rs.filter LoadReq.remote).map (fun q => q.addr / 64)).eraseDups)
      let (s, races) := if w.serial then (s.tick).claimNow cs else ((s.tick).sendClaims cs, [])
      if !races.isEmpty then s.trapCur (raceTrap races w.rgn.serial)
      else
        let hit := fun (q : LoadReq) => if xs.any (fun a => a.lane == q.lane && a.cached) then s.cachedLine id scalar (q.addr / 64) else none
        let free := fun (q : LoadReq) => w.serial || !cs.any (fun c => c.gran == granule q.sp q.addr)
        let now := rs.filter (fun q => if q.remote then (hit q).isSome else free q)
        let got := now.map (fun q => match (if q.remote then hit q else none) with
          | some l => (⟨q.lane, BitVec.ofNat 64 (extend size signed (s.lineN id q.own q.addr size l)), (s.die (s.dieOf id)).fbad.contains (q.addr / 64), q.taint⟩ : LoadLane)
          | none => s.take id size signed q)
        let rest := rs.filter (fun q => !(if q.remote then (hit q).isSome else free q))
        let lines := ((rest.filter LoadReq.remote).map (fun q => q.addr / 64 * 64)).eraseDups
        let s := if scalar then ((xs.filter (fun a => a.sp == .mem && !isFabric a.pa)).map (fun a => a.pa / 64)).eraseDups.foldl (fun (s : State) l => s.holdScalar (coreOf id) l) s else s
        let s := lines.foldl (fun (s : State) p => s.fabSend id (.load op) p (vaOf rest p) (xs.any (fun a => a.pa / 64 * 64 == p && a.cached)) []) s
        s.finishCur i (fun w =>
          let w := f w
          { w with ldc := w.ldc + 1, loads := w.loads ++ [⟨op, dst, size, signed, scalar, rest, got, w.rgn.opened, false, w.pc, false, false⟩] })

/-! ## Stores (R97 to R99, R315, R316) -/

/-- A lane of a store: its access, its bytes, the register codes of its data, whether its data lane is tainted (whether its address lane is, the access says), and the tainted s registers that the store consumes, with whether as its address. -/
structure StLane where
  acc : Acc
  bytes : List Byte
  codes : List Nat
  dataT : Bool
  scalars : List (Nat × Bool)
  deriving DecidableEq, Repr

/-- The tainted s registers among the sources of a store's addresses and of its data, with whether one is an address (R381, R382). -/
def sTaints (w : Wave) (addr data : List Src) : List (Nat × Bool) :=
  ((addr ++ data).filterMap (fun x => match x with
    | .s n => if mget false w.taint.s n then some n else none
    | _ => none)).eraseDups.map (fun n => (n, addr.contains (.s n)))

/-- The escape-log entries of a store: one for each lane that consumes a tainted lane value, in lane order, and one for each tainted s register, with the first lane's address (R381, R382; log 87). -/
def State.logStores (s : State) (xs : List StLane) : State :=
  let kind := fun (x : StLane) => if x.acc.sp == .mem then 0 else 1
  let s := xs.foldl (fun (s : State) x =>
    if x.dataT || x.acc.taint then s.escape s.cur (kind x) x.acc.va x.bytes.length x.acc.lane (if x.dataT then x.codes else []) x.acc.taint false else s) s
  match xs with
  | x :: _ => x.scalars.foldl (fun (s : State) y => s.escape s.cur (kind x) x.acc.va x.bytes.length 0xFF [] y.2 true) s
  | [] => s

/-- A store's bytes performed at once at the home or in the scratchpad (R431). -/
def State.storeHome (s : State) (x : StLane) : State :=
  match x.acc.sp with
  | .mem => s.maskWrite (x.acc.pa / 64 * 64) (layBytes [] (x.acc.pa % 64) x.bytes)
  | .spad c => s.stage2 0 { sp := .spad c, base := x.acc.pa / 32 * 32, data := layBytes [] (x.acc.pa % 32) x.bytes, ident := s.cur, pub := false }

/-- The entries that the lanes of a store make (R97). -/
def entriesOf (es : List SBEntry) (id : Nat) (xs : List StLane) : List SBEntry :=
  xs.foldl (fun es x => stage1Add es id x.acc.sp x.acc.pa x.acc.va x.bytes) es

/-- A store of the control core (R108): when its buffer is full the oldest entry is written through. -/
def State.ctlStore (s : State) (xs : List StLane) : State :=
  xs.foldl (fun (s : State) x =>
    let id := s.cur
    let es := (s.wave id).stage1
    let s :=
      if es.any (fun e => e.base == x.acc.pa / 64 * 64) || es.length < 64 then s
      else match es with
        | e :: r =>
          let s := if isFabric e.base then s.fabSend id .drain e.base e.va false (e.data.filterMap (fun b => b.2.map (fun v => (b.1, v)))) else s.maskWrite e.base e.data
          s.modWave id (fun w => { w with stage1 := r })
        | [] => s
    s.modWave id (fun w => { w with stage1 := stage1Add w.stage1 id x.acc.sp x.acc.pa x.acc.va x.bytes })) s

/-- The stores of an instruction of save or restore mode (R431): each line at its home at once, or sent to its endpoint. -/
def State.storesHome (s : State) (xs : List StLane) : State :=
  let far := fun (x : StLane) => x.acc.sp == .mem && isFabric x.acc.pa
  let s := (xs.filter (fun x => !far x)).foldl (fun (s : State) x => s.storeHome x) s
  (entriesOf [] s.cur (xs.filter far)).foldl (fun (s : State) e => s.fabSend s.cur .home e.base e.va false (e.data.filterMap (fun b => b.2.map (fun v => (b.1, v))))) s

/-- A store issued: the claims first, then the bytes into stage 1; a region that needs too many entries is spilled (R99). -/
def State.issueStore (s : State) (i : Instr) (f : Wave → Wave) (vec : Bool) (xs : List StLane) : State :=
  let id := s.cur
  let w := s.wave id
  if xs.isEmpty then s.finishCur i f
  else if w.mode != .normal then
    if xs.any (fun x => x.acc.sp == .mem && isFabric x.acc.pa && s.fabHeld x.acc.pa) then s.stall else (s.storesHome xs).finishCur i f
  else if 63 ≤ w.stc then s.stall
  else if !w.ctl && !w.rgn.spilled && 64 < (entriesOf w.stage1 id xs).length then
    if s.unverified id then s.stall
    else ((s.commitStage1 id).modWave id (fun w => { w with rgn := { w.rgn with spilled := true } })).stall
  else
    let op := s.fresh
    let cs := s.claimsOf id (s.interval id) op s.cycle .write vec (xs.map (·.acc))
    if w.serial && !s.claimReady cs then s.waitRoom cs
    else
      let (s, races) := if w.serial then (s.tick).claimNow cs else ((s.tick).sendClaims cs, [])
      if !races.isEmpty then s.trapCur (raceTrap races w.rgn.serial)
      else
        let s := s.logStores xs
        let s := if w.ctl then s.ctlStore xs
          else if w.rgn.spilled then (entriesOf [] id xs).foldl (fun (s : State) e => s.stage2 w.unit e) s
          else s.modWave id (fun w => { w with stage1 := entriesOf w.stage1 id xs })
        s.finishCur i (fun w => let w := f w; { w with stc := if w.serial || cs.isEmpty then w.stc else w.stc + 1 })

end Sys2Proof.Machine
end

