-- ==== Sys2Proof/Machine/Memory.lean ====
section
/-! DEFINITION. Loads, stores, prefetch, atomics, ldacq and strel (R314 to R323). -/

namespace Sys2Proof.Machine

/-- The element type of a memory operand of a size. -/
def dataKind (sz : MSz) : EKind := if sz == .b8 then .i64 else .i32

/-- UEPOISON of a list of lane operands behind the guard (R313 step 2). -/
def operandTrap (w : Wave) (g : Guard) (xs : List (Nat × LV)) : Option Trap :=
  match guardTrap w g with
  | some t => some t
  | none => poisonTrap xs

/-- The latches after a memory instruction has read its sources (R61). -/
def memFill (sp : Bool) (a : Src) (b : Option (EKind × Bool × Src)) (c : Option Src) (w : Wave) : Wave :=
  fill (some ⟨if sp then .i32 else .i64, !sp, a⟩) (b.map (fun x => ⟨x.1, x.2.1, x.2.2⟩)) (c.map (fun x => ⟨.i32, false, x⟩)) w

/-- A walk that is needed, a fault, or what comes after (R313 step 3). -/
def State.afterLook (s : State) (k : AccKind) (r : Looked) (f : State → List Acc → State) : State :=
  match r with
  | .trap t => s.trapCur t
  | .miss m a lpr => (s.modWave s.cur (fun w => { w with lpr := lpr })).awaitWalk k m a
  | .ok xs lpr => f (s.modWave s.cur (fun w => { w with lpr := lpr })) xs

/-! ## ld, st, sld, sst, prf -/

/-- A vector load (R314). -/
def State.vecLoad (s : State) (i : Instr) (sz : MSz) (signed sp : Bool) (g : Guard) (d : Dst) (a c : Src) : State :=
  let w := s.wave s.cur
  let xs := (active w g).map (fun l => (l, addrLV w sp a c l))
  match operandTrap w g (xs.map (fun x => (x.1, x.2.2))) with
  | some t => s.trapCur t
  | none =>
    s.afterLook .read (s.look s.cur sp .read (mszBytes sz) true (xs.map (fun x => (x.1, x.2.1, x.2.2.taint)))) (fun s ys =>
      s.issueLoad i (memFill sp a none (some c)) d.code (mszBytes sz) signed false ys)

def execLd (sz : MSz) (sp : Bool) (g : Guard) (d : Dst) (a c : HSrc) (s : State) : Host.Outcome State Fault Refusal :=
  gated (.ld sz sp g d a c) s (s.vecLoad (.ld sz sp g d a c) sz false sp g d a.src c.src)
def execLdSigned (sz : MSz) (sp : Bool) (g : Guard) (d : Dst) (a c : HSrc) (s : State) : Host.Outcome State Fault Refusal :=
  gated (.ldSigned sz sp g d a c) s (s.vecLoad (.ldSigned sz sp g d a c) sz true sp g d a.src c.src)

/-- The register codes of store data that may be fresh live-outs (R382). -/
def dataCodes (wide : Bool) : Src → List Nat
  | .v n => srcRegs wide (.v n)
  | .o n => srcRegs wide (.o n)
  | _ => []
def isSReg : Src → Bool
  | .s _ => true
  | _ => false

/-- The lanes of a vector store: the low bytes of the data in each (R315). -/
def stLanes (w : Wave) (sz : MSz) (a b : Src) (c : Option Src) (ys : List Acc) : List StLane :=
  let ss := sTaints w (a :: c.toList) [b]
  ys.map (fun y =>
    let v := srcLV w 3 (dataKind sz) (sz == .b8) b y.lane
    let lv := (!isSReg a && (srcLV w 2 .i64 (y.sp == .mem) a y.lane).taint) || (match c with | some c => !isSReg c && (srcLV w 4 .i32 false c y.lane).taint | none => false)
    ⟨{ y with taint := lv }, toBytes v.val (mszBytes sz), dataCodes (sz == .b8) b, v.taint && !isSReg b, ss⟩)

def execSt (sz : MSz) (sp : Bool) (g : Guard) (a b c : HSrc) (s : State) : Host.Outcome State Fault Refusal :=
  let i := Instr.st sz sp g a b c
  let w := s.wave s.cur
  let xs := (active w g).map (fun l => (l, addrLV w sp a.src c.src l))
  gated i s
    (match operandTrap w g (xs.map (fun x => (x.1, LV.mix 0 x.2.2 (srcLV w 3 (dataKind sz) (sz == .b8) b.src x.1)))) with
     | some t => s.trapCur t
     | none =>
       s.afterLook .write (s.look s.cur sp .write (mszBytes sz) true (xs.map (fun x => (x.1, x.2.1, x.2.2.taint)))) (fun s ys =>
         s.issueStore i (memFill sp a.src (some (dataKind sz, sz == .b8, b.src)) (some c.src)) true (stLanes w sz a.src b.src (some c.src) ys)))

/-- The one access of a scalar instruction (R316). -/
def scalarAddr (w : Wave) (sp : Bool) (a c : Src) : Int × LV := addrLV w sp a c 0

def execSld (sz : MSz) (sp : Bool) (d : Nat) (a c : Src) (s : State) : Host.Outcome State Fault Refusal :=
  let i := Instr.sld sz sp d a c
  let x := scalarAddr (s.wave s.cur) sp a c
  gated i s
    (match scalarTrap [x.2] with
     | some t => s.trapCur t
     | none =>
       s.afterLook .read (s.look s.cur sp .read (mszBytes sz) false [(0, x.1, x.2.taint)]) (fun s ys =>
         s.issueLoad i (memFill sp a none (some c)) (256 + d) (mszBytes sz) false true ys))

def execSst (sz : MSz) (sp : Bool) (a b c : Src) (s : State) : Host.Outcome State Fault Refusal :=
  let i := Instr.sst sz sp a b c
  let w := s.wave s.cur
  let x := scalarAddr w sp a c
  let v := scalarLV w 3 b
  gated i s
    (match scalarTrap [x.2, v] with
     | some t => s.trapCur t
     | none =>
       s.afterLook .write (s.look s.cur sp .write (mszBytes sz) false [(0, x.1, x.2.taint)]) (fun s ys =>
         s.issueStore i (memFill sp a (some (.i64, true, b)) (some c)) false
           (ys.map (fun y => ⟨{ y with taint := false }, toBytes v.val (mszBytes sz), [], false, sTaints w [a, c] [b]⟩))))

/-- prf (R317): a fabric-window line comes into the last-level cache of the die; nothing else of it is observable. A lane that fails a check is dropped. -/
def State.prefetch (s : State) (g : Guard) (a c : Src) : State :=
  let w := s.wave s.cur
  let xs := ((active w g).map (fun l => (l, addrLV w false a c l))).filter (fun x => x.2.2.poison == none)
  let ps := xs.filterMap (fun x => match s.xlateLane (coreOf s.cur) w .read x.1 x.2.1.toNat with
    | .ok p q => if q.attr == 0 && isFabric p && ((s.core (coreOf s.cur)).lockHit 0 p 1 false).isNone && !s.fabHeld p then some (p / 64 * 64) else none
    | _ => none)
  ps.eraseDups.foldl (fun (s : State) p => if (s.cachedLine s.cur false (p / 64)).isSome then s else s.fabSend s.cur .prefetch p 0 true []) s

def execPrf (sp : Bool) (g : Guard) (a c : HSrc) (s : State) : Host.Outcome State Fault Refusal :=
  gated (.prf sp g a c) s ((if sp then s else s.prefetch g a.src c.src).finishCur (.prf sp g a c) (memFill sp a.src none (some c.src)))

/-! ## What atom, cas, ldacq and strel share -/

/-- The number of the interval that a synchronising instruction has closed. -/
def State.closed (s : State) (id : Nat) : Nat := s.interval id - 1

/-- The instruction is in progress from here on (R168). -/
def State.begin (s : State) : State := s.modWave s.cur (fun w => { w with step := max w.step 2, rgn := { w.rgn with lead := true } })

/-- The tail of a synchronising instruction: an acquire at a scope, then the end of the interval's change (R109, R117). -/
def State.syncTail (s : State) (i : Instr) (acq : Option Nat) : State :=
  let s := match acq with | some sc => s.acquire s.cur sc | none => s
  match s.syncEnd s.cur with
  | (s, false) => s.stall
  | (s, true) => s.finishCur i (fun w => w)

/-- A destination written with old values (R318, R321); on the control core it may be an s register (R335). -/
def writeOld (d : Dst) (size : Nat) (xs : List LoadLane) (w : Wave) : Wave :=
  match d with
  | .s n => match xs with | x :: _ => loadLane (256 + n) size true w x | [] => w
  | .exec => w
  | d => writeLoad d.code size false xs w

/-- The lines of a synchronising instruction's accesses whose answers have all come: they are taken off the list. -/
def State.answered (s : State) (d : Dst) : Option State :=
  let w := s.wave s.cur
  match w.loads.find? (·.acq) with
  | none => none
  | some l => if l.reqs.isEmpty then some (s.modWave s.cur (fun w => { (writeOld d l.size l.got w) with loads := w.loads.filter (fun x => !x.acq), step := 4 })) else none

/-- The new value of an atomic (R318). -/
def atomNew (op : AtomOp) (size old b : Nat) : Nat :=
  let n := 8 * size
  match op with
  | .add => (old + b) % 2 ^ n
  | .min sg => iMin sg n old (b % 2 ^ n)
  | .max sg => iMax sg n old (b % 2 ^ n)
  | .and => old &&& b % 2 ^ n
  | .or => old ||| b % 2 ^ n
  | .xor => old ^^^ b % 2 ^ n
  | .exch => b % 2 ^ n

/-- One lane's access at its home (R320): the wave's own entries of the line drain first; the unit's published bytes count (log 17); new gives what is written. -/
def State.performLane (s : State) (size : Nat) (a : Acc) (new : Nat → Option Nat) : State × Nat :=
  let id := s.cur
  let u := s.bufferOf id
  match a.sp with
  | .mem =>
    let s := s.drainRange id a.pa (a.pa + size)
    let old := s.loadN id [] .mem a.pa size
    match new old with
    | some v => (s.performLine u [{ sp := .mem, base := a.pa / 64 * 64, data := layBytes [] (a.pa % 64) (toBytes v size), ident := 16384, pub := false }], old)
    | none => (s, old)
  | .spad c =>
    let old := s.loadN id [] (.spad c) a.pa size
    match new old with
    | some v => (s.stage2 u { sp := .spad c, base := a.pa / 32 * 32, data := layBytes [] (a.pa % 32) (toBytes v size), ident := id, pub := false }, old)
    | none => (s, old)

/-- The lanes that name one address as one request, which its home performs in lane order with nothing between (R320). -/
def joinOps (xs : List FabOp) : FabOp :=
  match xs with
  | [x] => x
  | .atomic o sz b :: r => .atomics o sz (b :: r.filterMap (fun x => match x with | .atomic _ _ c => some c | _ => none))
  | .cas sz c n :: r => .swaps sz ((c, n) :: r.filterMap (fun x => match x with | .cas _ d m => some (d, m) | _ => none))
  | _ => .read 0

/-- An atomic in its lanes: what is at home here is performed lane by lane, what is beyond the fabric is sent with its operator, its size and its operands, one request for each address, for the line's home to perform (R123, R320). -/
def State.performAtomic (s : State) (d : Dst) (size : Nat) (xs : List (Acc × (Nat → Option Nat) × FabOp)) : State :=
  let id := s.cur
  let op := s.fresh
  let here := xs.filter (fun x => !(x.1.sp == .mem && isFabric x.1.pa))
  let there := xs.filter (fun x => x.1.sp == .mem && isFabric x.1.pa)
  let r := here.foldl (fun (r : State × List LoadLane) x =>
    let (s, old) := r.1.performLane size x.1 x.2.1
    (s, r.2 ++ [⟨x.1.lane, BitVec.ofNat 64 old, false, x.1.taint⟩])) (s.tick, [])
  let s := ((there.map (·.1.pa)).eraseDups).foldl (fun (s : State) p => match there.filter (fun a => a.1.pa == p) with
    | a :: as => s.fabSendOp id (.atomic op a.1.lane) p a.1.va false [] (some (joinOps ((a :: as).map (·.2.2))))
    | [] => s) r.1
  if there.isEmpty then s.modWave id (fun w => { (writeOld d size r.2 w) with step := 4 })
  else s.modWave id (fun w => { w with step := 3, st := .stalled, loads := w.loads ++ [⟨op, d.code, size, false, false, there.map (fun a => ⟨a.1.lane, a.1.sp, a.1.pa, [], a.1.taint, a.1.va⟩), r.2, w.rgn.opened, true, w.pc, false, false⟩] })

/-- Whether a home line or scratchpad word of an atomic is poisoned (R320), and the detail that UEPOISON gives: the address field and the structure. -/
def State.targetTrap (s : State) (size : Nat) (xs : List Acc) : Option Trap :=
  match xs.filter (fun a => s.poisoned a.sp a.pa size) with
  | [] => none
  | a :: r => some { cause := 0x0A, lanes := laneMask (fun l => (a :: r).any (·.lane == l)), detail := BitVec.ofNat 64 (2 + 16 * (if a.sp == .mem then 7 else 5)) }

/-- The escape-log entries that a synchronising store writes when it issues (R381), before its release. -/
def State.logIssue (s : State) (xs : List StLane) : State := if (s.wave s.cur).step = 0 then s.logStores xs else s

/-- Atomics from their release to their end (R318 to R320): the release, the access under the interval it closed, the acquire. -/
def State.atomicSteps (s : State) (i : Instr) (sc : Nat) (d : Dst) (size : Nat) (lanes : List StLane) (xs : List (Acc × (Nat → Option Nat) × FabOp)) : State :=
  let id := s.cur
  match (s.logIssue lanes).begin.releaseStep id sc with
  | (s, false) => s.stall
  | (s, true) =>
    let cs := s.claimsOf id (s.closed id) 0 s.cycle .atomic true (xs.map (·.1))
    if !s.claimReady cs then s.waitRoom cs
    else if xs.any (fun x => x.1.sp == .mem && isFabric x.1.pa && s.fabHeld x.1.pa) then s.stall
    else if xs.any (fun x => x.1.sp == .mem && isFabric x.1.pa && (s.drainLines id).contains (x.1.pa / 64 * 64)) then
      (xs.foldl (fun (s : State) x => if x.1.sp == .mem && isFabric x.1.pa then s.drainRange id x.1.pa (x.1.pa + size) else s) s).stall
    else if xs.any (fun x => x.1.sp == .mem && isFabric x.1.pa && s.lineOut id (x.1.pa / 64 * 64)) then s.stall
    else
      let (s, races) := s.claimNow cs
      if !races.isEmpty then s.trapCur (raceTrap races false)
      else
        let s := s.performAtomic d size xs
        if (s.wave id).step = 4 then s.syncTail i (some sc) else s

/-- A read-modify-write instruction: its checks (R313, R320), then its steps. cmp is the destination that cas reads, op what a home beyond the fabric is asked. -/
def State.rmw (s : State) (i : Instr) (sz : MSz) (sp : Bool) (scope : Scope) (g : Guard) (d : Dst) (a b : Src) (cmp : Bool) (f : Nat → Nat → Nat → Option Nat) (op : Nat → Nat → FabOp) : State :=
  let w := s.wave s.cur
  let sc := scNum scope
  let size := mszBytes sz
  if w.step = 4 then s.syncTail i (some sc)
  else if w.step = 3 then
    match s.answered d with
    | some s => s.syncTail i (some sc)
    | none => s.stall
  else
    let dst := fun (l : Nat) => srcLV w 1 (dataKind sz) (sz == .b8) (dstSrc d) l
    let val := fun (l : Nat) => srcLV w 3 (dataKind sz) (sz == .b8) b l
    let xs := (active w g).map (fun l => (l, addrLV w sp a (.imm 0) l))
    match operandTrap w g (xs.map (fun x => (x.1, LV.mix 0 (LV.mix 0 x.2.2 (val x.1)) (if cmp then dst x.1 else ⟨0, none, false⟩)))) with
    | some t => s.trapCur t
    | none =>
      s.afterLook .write (s.look s.cur sp .write size true (xs.map (fun x => (x.1, x.2.1, x.2.2.taint)))) (fun s ys =>
        match s.targetTrap size ys with
        | some t => s.trapCur t
        | none =>
          let s := if w.step = 0 then s.modWave s.cur (memFill sp a (some (dataKind sz, sz == .b8, b)) none) else s
          s.atomicSteps i sc d size (stLanes w sz a b none ys) (ys.map (fun y => (y, f (val y.lane).val (dst y.lane).val, op (val y.lane).val (dst y.lane).val))))

def execAtom (op : AtomOp) (sz : MSz) (sp : Bool) (scope : Scope) (g : Guard) (d : Dst) (a b : HSrc) (s : State) : Host.Outcome State Fault Refusal :=
  gated (.atom op sz sp scope g d a b) s
    (s.rmw (.atom op sz sp scope g d a b) sz sp scope g d a.src b.src false (fun v _ old => some (atomNew op (mszBytes sz) old v)) (fun v _ => .atomic op sz (BitVec.ofNat 64 v)))

def execCas (sz : MSz) (sp : Bool) (scope : Scope) (g : Guard) (d : Dst) (a b : HSrc) (s : State) : Host.Outcome State Fault Refusal :=
  gated (.cas sz sp scope g d a b) s
    (s.rmw (.cas sz sp scope g d a b) sz sp scope g d a.src b.src true (fun v cmp old =>
      if old = cmp % 2 ^ (8 * mszBytes sz) then some (v % 2 ^ (8 * mszBytes sz)) else none)
      (fun v cmp => .cas sz (BitVec.ofNat 64 cmp) (BitVec.ofNat 64 v)))

/-! ## ldacq (R321) -/

/-- The interval of an acquire-type instruction closed (R89); a wrap makes it a release at .f first (R109). -/
def State.closeStep (s : State) : State × Bool :=
  let id := s.cur
  if (s.wave id).rel != .none || s.interval id = 0xFFFF then s.releaseStep id 1 else (s.closeInterval id, true)

/-- After the data: the interval closes, then the acquire. Step 5 says that it has closed. -/
def State.acqTail (s : State) (i : Instr) (sc : Nat) : State :=
  if (s.wave s.cur).step = 5 then s.syncTail i (some sc)
  else match s.closeStep with
    | (s, false) => s.stall
    | (s, true) => (s.modWave s.cur (fun w => { w with step := 5 })).syncTail i (some sc)

/-- The load of an ldacq, at its home and never from a cached copy (R321). -/
def State.acqLoad (s : State) (i : Instr) (sc : Nat) (d : Dst) (size : Nat) (ys : List Acc) : State :=
  let id := s.cur
  let cs := s.claimsOf id (s.interval id) 0 s.cycle .read true ys
  if !s.claimReady cs then (s.begin).waitRoom cs
  else if ys.any (fun a => a.sp == .mem && isFabric a.pa && s.fabHeld a.pa) then s.stall
  else
    let (s, races) := (s.begin).claimNow cs
    if !races.isEmpty then s.trapCur (raceTrap races false)
    else
      let op := s.fresh
      let rs := s.reqsOf id size ys
      let got := (rs.filter (fun q => !q.remote)).map (s.take id size false)
      let rest := rs.filter LoadReq.remote
      let s := ((rest.map (fun q => q.addr / 64 * 64)).eraseDups).foldl (fun (s : State) p => s.fabSend id (.load op) p (vaOf rest p) false []) s.tick
      if rest.isEmpty then (s.modWave id (fun w => { (writeOld d size got w) with step := 4 })).acqTail i sc
      else s.modWave id (fun w => { w with step := 3, st := .stalled, loads := w.loads ++ [⟨op, d.code, size, false, false, rest, got, w.rgn.opened, true, w.pc, false, false⟩] })

def execLdacq (sz : MSz) (sp : Bool) (scope : Scope) (g : Guard) (d : Dst) (a : HSrc) (s : State) : Host.Outcome State Fault Refusal :=
  let i := Instr.ldacq sz sp scope g d a
  let w := s.wave s.cur
  let xs := (active w g).map (fun l => (l, addrLV w sp a.src (.imm 0) l))
  gated i s
    (if 4 ≤ w.step then s.acqTail i (scNum scope)
     else if w.step = 3 then
       match s.answered d with
       | some s => s.acqTail i (scNum scope)
       | none => s.stall
     else match operandTrap w g (xs.map (fun x => (x.1, x.2.2))) with
      | some t => s.trapCur t
      | none =>
        s.afterLook .read (s.look s.cur sp .read (mszBytes sz) true (xs.map (fun x => (x.1, x.2.1, x.2.2.taint)))) (fun s ys =>
          (s.modWave s.cur (memFill sp a.src none none)).acqLoad i (scNum scope) d (mszBytes sz) ys))

/-! ## strel (R118, R321) -/

/-- Where the stores of a strel go after its release: to their homes from .d on; below, into stage 2, published at .u for .u; of the control core into its buffer. -/
def State.strelStores (s : State) (sc : Nat) (xs : List StLane) : State :=
  let id := s.cur
  let w := s.wave id
  if 3 ≤ sc then
    let mems := xs.filter (fun x => x.acc.sp == .mem)
    let s := (entriesOf [] id mems).foldl (fun (s : State) e =>
      if isFabric e.base then s.fabSend id .drain e.base e.va false (e.data.filterMap (fun b => b.2.map (fun v => (b.1, v))))
      else s.performLine (s.bufferOf id) [{ e with ident := 16384 }]) s
    (entriesOf [] id (xs.filter (fun x => x.acc.sp != .mem))).foldl (fun (s : State) e => s.stage2 w.unit e) s
  else if w.ctl then s.ctlStore xs
  else
    let s := (entriesOf [] id xs).foldl (fun (s : State) e => s.stage2 w.unit e) s
    if sc = 2 then s.modUnit w.unit (fun u => { u with sb := publishU u.sb id }) else s

/-- strel after its checks: the release, the claims under the interval it closed, the stores, the wait for the fabric's acknowledgements. -/
def State.strelSteps (s : State) (i : Instr) (sc : Nat) (xs : List StLane) : State :=
  let id := s.cur
  match (s.logIssue xs).begin.releaseStep id sc with
  | (s, false) => s.stall
  | (s, true) =>
    let cs := s.claimsOf id (s.closed id) 0 s.cycle .write true (xs.map (·.acc))
    if !s.claimReady cs then s.waitRoom cs
    else if xs.any (fun x => x.acc.sp == .mem && isFabric x.acc.pa && s.fabHeld x.acc.pa) then s.stall
    else
      let (s, races) := s.claimNow cs
      if !races.isEmpty then s.trapCur (raceTrap races false)
      else
        let s := (s.strelStores sc xs).modWave id (fun w => { w with step := 4 })
        if s.reqs.any (·.ident == id) then s.stall else s.syncTail i none

def execStrel (sz : MSz) (sp : Bool) (scope : Scope) (g : Guard) (a b : HSrc) (s : State) : Host.Outcome State Fault Refusal :=
  let i := Instr.strel sz sp scope g a b
  let w := s.wave s.cur
  let xs := (active w g).map (fun l => (l, addrLV w sp a.src (.imm 0) l))
  gated i s
    (if w.step = 4 then (if s.reqs.any (·.ident == s.cur) then s.stall else s.syncTail i none)
     else match operandTrap w g (xs.map (fun x => (x.1, LV.mix 0 x.2.2 (srcLV w 3 (dataKind sz) (sz == .b8) b.src x.1)))) with
      | some t => s.trapCur t
      | none =>
        s.afterLook .write (s.look s.cur sp .write (mszBytes sz) true (xs.map (fun x => (x.1, x.2.1, x.2.2.taint)))) (fun s ys =>
          let s := if w.step = 0 then s.modWave s.cur (memFill sp a.src (some (dataKind sz, sz == .b8, b.src)) none) else s
          s.strelSteps i (scNum scope) (stLanes w sz a.src b.src none ys)))

end Sys2Proof.Machine
end

