-- ==== Sys2Proof/Machine/Sync.lean ====
section
/-! DEFINITION. fence, rel, acq, the barriers, poll, wait, the bounded queues and cncl (R322 to R335, R198). -/

namespace Sys2Proof.Machine

/-! ## fence, rel, acq (R322, R323) -/

/-- A release at a scope, with the acquire of a fence behind it. -/
def State.releaseOp (s : State) (i : Instr) (sc : Nat) (acq : Option Nat) : State :=
  match (s.begin).releaseStep s.cur sc with
  | (s, false) => s.stall
  | (s, true) => s.syncTail i acq

def execFence (scope : Scope) (s : State) : Host.Outcome State Fault Refusal :=
  gated (.fence scope) s (s.releaseOp (.fence scope) (scNum scope) (some (scNum scope)))
def execRel (scope : Scope) (s : State) : Host.Outcome State Fault Refusal :=
  gated (.rel scope) s (s.releaseOp (.rel scope) (scNum scope) none)
def execAcq (scope : Scope) (s : State) : Host.Outcome State Fault Refusal :=
  gated (.acq scope) s ((s.begin).acqTail (.acq scope) (scNum scope))

/-! ## Barriers (R107, R161 to R163, R324) -/

/-- The levels of bar, 1 to 3. -/
def lvlNum : BarLvl → Nat
  | .u => 1 | .d => 2 | .k => 3

/-- Whether a barrier state takes an arrival at a level: the first arrival of a generation fixes it (R324). -/
def BarSt.takes (b : BarSt) (n : Nat) : Bool := b.count == 0 || b.level == n

/-- An arrival of a wave index (R163). -/
def BarSt.arrive (b : BarSt) (n widx : Nat) : BarSt := { b with count := b.count + 1, mask := b.mask + 2 ^ widx, level := n }

/-- The checks of a barrier (R162, R324). -/
def State.barTrap (s : State) (n : Nat) : Option Trap :=
  match s.unitOf s.cur with
  | none => none
  | some r =>
    let l := (s.launch r.task.launch).getD {}
    if 2 ≤ n && l.kind != 1 && !l.whole then some (illop 0x0F 0)
    else if !r.bar.takes n then some (illop 0x10 0)
    else none

/-- The wave arrives and waits. -/
def State.barArrive (s : State) (lvl : BarLvl) : State :=
  let id := s.cur
  let w := s.wave id
  let s := s.modUnit w.unit (fun r => { r with bar := r.bar.arrive (lvlNum lvl) w.widx })
  let s := s.modWave id (fun w => { w with st := .waiting, wait := .bar lvl, step := 0 })
  match s.unit w.unit with
  | some r => if s.cancelled r.task.launch then s.cancelUnit w.unit else s
  | none => s

def execBar (lvl : BarLvl) (s : State) : Host.Outcome State Fault Refusal :=
  gated (.bar lvl) s
    (match s.barTrap (lvlNum lvl) with
     | some t => s.trapCur t
     | none =>
       match (s.begin).releaseStep s.cur (lvlNum lvl + 1) with
       | (s, false) => s.stall
       | (s, true) => match s.syncEnd s.cur with
         | (s, false) => s.stall
         | (s, true) => s.barArrive lvl)

/-! ## wait (R325) -/

/-- Whether the counters of a wave are down to the four operands; the control core has no CPC and TTC (R335). -/
def Wave.within (w : Wave) (nl ns nc nt : Nat) : Bool :=
  w.ldc ≤ nl && w.stc ≤ ns && (w.ctl || (w.cpc ≤ nc && w.ttc ≤ nt))

/-- A cancel of a control program's launch is delivered at its poll, wait and evget (R175). -/
def State.ctlCancel (s : State) : Bool := (s.wave s.cur).ctl && s.cancelled (s.wave s.cur).launch

def execWait (nl ns nc nt : Nat) (s : State) : Host.Outcome State Fault Refusal :=
  gated (.wait nl ns nc nt) s
    (if s.ctlCancel then s.ctlEnd (coreOf s.cur)
     else if (s.wave s.cur).within nl ns nc nt then s.finishCur (.wait nl ns nc nt) (fun w => w)
     else s.stall)

/-! ## Poll back-off (R198) -/

/-- A failed poll: the priority falls, the wave is parked for 16·2^k cycles. -/
def Wave.failPoll (now : Nat) (w : Wave) : Wave :=
  { w with prio := w.prio - 1, fails := w.fails + 1, st := .parked, parkEnd := now + 16 * 2 ^ min w.fails 10 }

/-- A successful poll restores the base priority. -/
def Wave.passPoll (w : Wave) : Wave := { w with prio := w.base, fails := 0 }

/-! ## Bounded queues (R326 to R332) -/

/-- The queue that an operand names, of a pipeline launch (R326 reason 1). -/
def State.queueOf (s : State) (q : Nat) : Option BQueue :=
  match s.launch (s.wave s.cur).launch with
  | some l => if l.kind = 1 then l.queues[q]? else none
  | none => none

/-- A change of a queue of the wave's launch. -/
def State.modQueue (s : State) (q : Nat) (f : BQueue → BQueue) : State :=
  s.modLaunch (s.wave s.cur).launch (fun l => { l with queues := l.queues.modify q f })

/-- Free entries: what no qput has taken. -/
def BQueue.free (q : BQueue) : Nat := 2 ^ q.log2cap - q.ring.length
/-- The committed entries in front of the first that is not committed: those that a qget can take (R327). -/
def BQueue.ready (q : BQueue) : List QEnt := q.ring.takeWhile (·.owner.isNone)

/-- Where the entry with a number, the oldest being 0, starts in the ring, whose entries follow one another in the stacked SRAM (log 129); whether a word of it lies in a poisoned line (R87), and whether it covers a line (R396). -/
def BQueue.at (q : BQueue) (j : Nat) : Nat := (q.head + j) % 2 ^ q.log2cap * (4 * q.size4)
def BQueue.bad (q : BQueue) (j k : Nat) : Bool := q.badl.contains ((q.at j + 4 * k) / 64)
def BQueue.covers (q : BQueue) (j line : Nat) : Bool := decide (q.at j ≤ 64 * line ∧ 64 * line + 64 ≤ q.at j + 4 * q.size4)

/-- The number of lanes that a queue operation concerns (R326, R335). -/
def Wave.qLanes (w : Wave) : List Nat := if w.ctl then [0] else execLanes w

/-- The lanes in which a poll writes its result: those whose EXEC bit is set (R329). -/
def Wave.pollLanes (w : Wave) : List Nat := w.qLanes.filter (fun l => w.regs.exec.getLsbD l)

/-- QFAULT (R332). -/
def qfault (need stage q reason : Nat) : Trap :=
  { cause := 0x13, detail := BitVec.ofNat 64 (need * 2 ^ 24 + stage % 16 * 2 ^ 16 + q % 16 * 256 + reason) }

/-- The use of a queue that R326 tells apart. -/
inductive QUse where
  | put (r : Nat)
  | get (r : Nat)
  | poll (space : Bool)
  deriving DecidableEq, Repr

/-- The reasons of R326 in their order. -/
def State.queueTrap (s : State) (use : QUse) (q : Nat) : Except Trap BQueue :=
  let w := s.wave s.cur
  let n := w.qLanes.length
  let stage := match s.unitOf s.cur with | some r => r.task.stage | none => 0
  let pipe := match s.launch w.launch with | some l => l.kind == 1 | none => false
  let t := qfault n (if pipe then stage else 0) q
  match s.queueOf q with
  | none => .error (t 1)
  | some b =>
    let side := match use with
      | .put _ => stage == b.producer
      | .get _ => stage == b.consumer
      | .poll sp => w.ctl || stage == (if sp then b.producer else b.consumer)
    let fits := match use with
      | .put r => r + b.size4 ≤ w.budget
      | .get r => r + b.size4 ≤ w.budget
      | .poll _ => true
    if !side then .error (t 2) else if !fits then .error (t 3) else if 2 ^ b.log2cap < n then .error (t 4) else .ok b

/-- A pending cancel at a poll or a failed attempt (R180). -/
def State.pollCancel (s : State) : Option State :=
  let w := s.wave s.cur
  if !s.cancelled w.launch then none
  else if w.ctl then some (s.ctlEnd (coreOf s.cur))
  else if w.mode == .normal then some (s.cancelUnit w.unit)
  else none

/-- A failed attempt of qput or qget (R328): the instruction is tried again when the park ends. -/
def State.failAttempt (s : State) : State :=
  match s.pollCancel with
  | some s => s
  | none => (s.trace (coreOf s.cur) 8 1).modWave s.cur (Wave.failPoll s.cycle)

/-- poll with its queue known (R329). -/
def State.pollStep (s : State) (i : Instr) (space : Bool) (p : Nat) (q : Src) (b : BQueue) : State :=
  let w := s.wave s.cur
  let n := w.qLanes.length
  let ok := n ≤ (if space then b.free else b.ready.length)
  let put := fun (w : Wave) => writePred p (w.pollLanes.map (fun l => (l, ⟨cond ok 1 0, none, false⟩))) (fillScalars [(2, q)] w)
  if ok then s.finishCur i (fun w => (put w).passPoll)
  else (((s.trace (coreOf s.cur) 8 1).finishCur i put)).modWave s.cur (Wave.failPoll s.cycle)

def execPoll (space : Bool) (p : Nat) (q : Src) (s : State) : Host.Outcome State Fault Refusal :=
  gated (.poll space p q) s
    (match s.pollCancel with
     | some s => s
     | none =>
       match s.ueScalar [(2, q)] with
       | some t => s.trapCur t
       | none =>
         match s.queueTrap (.poll space) (s.sval q) with
         | .error t => s.trapCur t
         | .ok b => s.pollStep (.poll space p q) space p q b)

/-- The scope of a launch's queues (R187). -/
def State.queueScope (s : State) : Nat := (((s.launch (s.wave s.cur).launch).getD {}).compScope)

/-- The words of one lane of v(r) to v(r + k − 1), with their taint. -/
def laneWords (w : Wave) (r k l : Nat) : List (W32 × Bool) :=
  (List.range k).map (fun j => (mget 0 w.regs.v (key (r + j) l), mget false w.taint.v (key (r + j) l)))

/-- The entries of a qput committed in lane order (R327, R331); a write that covers a poisoned line clears it (R396). -/
def BQueue.commit (q : BQueue) (id : Nat) (data : List (List (W32 × Bool))) : BQueue :=
  let mine := (q.ring.zipIdx.filter (fun x => x.1.owner == some id)).map (·.2)
  { q with badl := q.badl.filter (fun line => !mine.any (fun j => q.covers j line)),
           ring := q.ring.zipIdx.map (fun x => match mine.idxOf? x.2 with
             | some k => { words := data.getD k [] }
             | none => x.1) }

/-- The escape-log entries of a qput (R381, R382): one for each lane with a tainted word; the lane's place numbers the entry. -/
def State.logQueue (s : State) (q r k : Nat) : State :=
  let w := s.wave s.cur
  (execLanes w).zipIdx.foldl (fun (s : State) x =>
    if (List.range k).any (fun j => mget false w.taint.v (key (r + j) x.1))
    then s.escape s.cur 2 (q * 2 ^ 32 + x.2) (4 * k) x.1 ((List.range k).map (fun j => r + j)) false false else s) s

/-- qput from its release to its end (R327). -/
def State.putSteps (s : State) (i : Instr) (q r : Nat) (b : BQueue) : State :=
  let id := s.cur
  match (s.begin).releaseStep id s.queueScope with
  | (s, false) => s.stall
  | (s, true) =>
    let w := s.wave id
    let s := s.modQueue q (fun x => x.commit id ((execLanes w).map (laneWords w r b.size4)))
    (s.modWave id (fun w => { w with step := 4 })).syncTail i none

/-- qput before its entries are taken (R326, R328, R331), when it issues and writes its escape-log entries (R328, R381); the ring of a cancelled launch has gone (R327), so that the attempt fails and takes the cancel (R180; DEDUCED, log 140). -/
def State.putTake (s : State) (i : Instr) (x : Src) (q r : Nat) (b : BQueue) : State :=
  let id := s.cur
  let w := s.wave id
  let ls := execLanes w
  match poisonTrap (ls.flatMap (fun l => (List.range b.size4).map (fun j => (l, vLV w 3 false (r + j) l)))) with
  | some t => s.trapCur t
  | none =>
    if (if s.cancelled w.launch then 0 else b.free) < ls.length then s.failAttempt
    else
      let s := s.modQueue q (fun b => { b with ring := b.ring ++ List.replicate ls.length { owner := some id } })
      ((s.logQueue q r b.size4).modWave id (fun w => (fillScalars [(2, x)] w).passPoll)).putSteps i q r b

def execQput (q : Src) (b : Nat) (s : State) : Host.Outcome State Fault Refusal :=
  gated (.qput q b) s
    (if (s.wave s.cur).step = 4 then s.syncTail (.qput q b) none
     else match s.ueScalar [(2, q)] with
      | some t => s.trapCur t
      | none =>
        match s.queueTrap (.put b) (s.sval q) with
        | .error t => s.trapCur t
        | .ok x => if 2 ≤ (s.wave s.cur).step then s.putSteps (.qput q b) (s.sval q) b x else s.putTake (.qput q b) q (s.sval q) b x)

/-- A word of a taken entry written to a register lane; one of a poisoned entry writes poison (R396). -/
def putWord (r l : Nat) (bad : Nat → Bool) (w : Wave) (y : (W32 × Bool) × Nat) : Wave :=
  let w := (wrV w (r + y.2) l y.1.1.toNat y.1.2).touch (r + y.2)
  { w with poison := { w.poison with v := mset false w.poison.v (key (r + y.2) l) (bad y.2) } }

/-- The entries that a qget took, written to their registers (R327, R331); no y register is written. -/
def writeEntries (r : Nat) (b : BQueue) (es : List (Nat × QEnt)) (w : Wave) : Wave :=
  es.zipIdx.foldl (fun (w : Wave) x => x.1.2.words.zipIdx.foldl (putWord r x.1.1 (b.bad x.2)) w)
    (w.unfresh (es.flatMap (fun x => (List.range x.2.words.length).map (fun j => r + j))))

/-- The acquire of a qget; the whole run of registers joins the live-in set (R166). -/
def State.getTail (s : State) (i : Instr) (size4 : Nat) : State :=
  let s := s.acqTail i s.queueScope
  if (s.wave s.cur).step = 0 then s.modWave s.cur (fun w => { w with rgn := { w.rgn with lwide := size4 } }) else s

/-- qget before its entries are taken. -/
def State.getTake (s : State) (i : Instr) (x : Src) (q r : Nat) (b : BQueue) : State :=
  let ls := execLanes (s.wave s.cur)
  if b.ready.length < ls.length then s.failAttempt
  else
    let es := ls.zip b.ring
    let s := (s.begin).modQueue q (fun b => { b with ring := b.ring.drop ls.length, head := (b.head + ls.length) % 2 ^ b.log2cap })
    (s.modWave s.cur (fun w => { (writeEntries r b es (fillScalars [(2, x)] w)).passPoll with step := 4 })).getTail i b.size4

def execQget (d : Nat) (q : Src) (s : State) : Host.Outcome State Fault Refusal :=
  gated (.qget d q) s
    (match s.ueScalar [(2, q)] with
     | some t => s.trapCur t
     | none =>
       match s.queueTrap (.get d) (s.sval q) with
       | .error t => s.trapCur t
       | .ok b => if 4 ≤ (s.wave s.cur).step then s.getTail (.qget d q) b.size4 else s.getTake (.qget d q) q (s.sval q) d b)

/-- The word of qprobe (R330). -/
def BQueue.word (b : BQueue) : Nat := b.size4 * 2 ^ 48 + b.log2cap * 2 ^ 40 + b.free * 2 ^ 17 + (b.ring.filter (·.owner.isNone)).length

def execQprobe (d : Nat) (q : Src) (s : State) : Host.Outcome State Fault Refusal :=
  gated (.qprobe d q) s
    (match s.ueScalar [(2, q)] with
     | some t => s.trapCur t
     | none =>
       match s.queueOf (s.sval q) with
       | none => match s.queueTrap (.poll false) (s.sval q) with
         | .error t => s.trapCur t
         | .ok _ => s
       | some b => s.finishCur (.qprobe d q) (fun w => writeS d ⟨b.word, none, false⟩ (fillScalars [(2, q)] w)))

/-! ## cncl (R333) -/

/-- The levels of a counter, 0 to 3. -/
def clvlNum : CLvl → Nat
  | .launch => 0 | .graph => 1 | .phase => 2 | .job => 3

def execCncl (lvl : CLvl) (s : State) : Host.Outcome State Fault Refusal :=
  gated (.cncl lvl) s ((s.finishCur (.cncl lvl) (fun w => w)).cancelLevel (s.wave s.cur).launch (clvlNum lvl))

end Sys2Proof.Machine
end

