-- ==== Sys2Proof/Machine/Tile.lean ====
section
/-! DEFINITION. What the engines read and compute, apart from the state: copy descriptors and the box they move (R345 to R347), rotated scratchpad rows (R69), format blocks and operand layouts (R358, R359), the tile product (R214), epilogue rows (R362, R363), collective descriptors and reductions (R351 to R353). -/

namespace Sys2Proof.Machine

/-! ## Issue faults (R337) -/

/-- A fault of a check at issue: cause, SOURCE, FIELD, OFFSET. -/
def engTrap (cause source field off : Nat) : Trap := { cause := cause, detail := BitVec.ofNat 64 (source * 2 ^ 12 + field * 256 + off) }

/-- The first failing check of a list of (failed, offset), which stand in increasing offset. -/
def firstBad (cause source : Nat) (xs : List (Bool × Nat)) : Option Trap :=
  (xs.find? (·.1)).map (fun x => engTrap cause source 0 x.2)

/-- Whether n bytes at o are all zero. -/
def zeroBytes (d : List Byte) (o n : Nat) : Bool := fld d o n == 0

/-! ## Rotation (R69) -/

/-- F of R69. -/
def rotF (code r : Nat) : Nat :=
  match code with
  | 0 => 0
  | 1 => r % 2 * 16
  | 2 => r % 4 * 8
  | 3 => r % 8 * 4
  | 4 => r % 16 * 2
  | 5 => r % 32
  | 6 => r / 2 % 32
  | _ => r / 4 % 32

/-- Offset(r, w) of R69. -/
def rotOff (base pitch code r w : Nat) : Nat := base + r * pitch + 4 * (w / 32 * 32 + Nat.xor (w % 32) (rotF code r))

/-- The bytes that a row of n bytes covers: a rotated row reaches to the end of its last 32-word block (R129). -/
def rowSpan (code n : Nat) : Nat := if code = 0 then n else (n + 127) / 128 * 128

/-! ## Copy descriptors (R345 to R347) -/

def cdNdim (d : List Byte) : Nat := fld d 0 1
def cdE (d : List Byte) : Nat := 2 ^ min 3 (fld d 1 1)
def cdSrcSp (d : List Byte) : Nat := bits (fld d 2 1) 0 2
def cdDstSp (d : List Byte) : Nat := bits (fld d 2 1) 2 2
def cdCode (d : List Byte) : Nat := bits (fld d 2 1) 4 3
def cdNotify (d : List Byte) : Bool := (fld d 3 1).testBit 0
def cdConv (d : List Byte) : Bool := (fld d 3 1).testBit 1
def cdCirc (d : List Byte) (k : Nat) : Bool := (fld d 4 1).testBit k
/-- SRC and DST: all 64 bits in memory, bits [31:0] in scratchpad. -/
def cdSrc (d : List Byte) : Nat := if cdSrcSp d = 0 then fld d 8 8 else fld d 8 4
def cdDst (d : List Byte) : Nat := if cdDstSp d = 0 then fld d 0x10 8 else fld d 0x10 4
def cdPitch (d : List Byte) : Nat := fld d 0x18 4
def cdHcount (d : List Byte) : Nat := fld d 0x1C 4
def cdFill (d : List Byte) : Nat := fld d 0x20 8
def cdExt (d : List Byte) (k : Nat) : Nat := fld d (0x28 + 4 * k) 4
def cdStride (d : List Byte) (k : Nat) : Int := if k = 0 then (cdE d : Int) else toSigned 64 (fld d (0x40 + 8 * (k - 1)) 8)
def cdStart (d : List Byte) (k : Nat) : Int := toSigned 32 (fld d (0x60 + 4 * k) 4)
def cdBox (d : List Byte) (k : Nat) : Nat := if k < cdNdim d then fld d (0x74 + 2 * k) 2 else 1
/-- The dimensions in use. -/
def cdDims (d : List Byte) : List Nat := List.range (min 5 (cdNdim d))
/-- The rows of the box. -/
def cdRows (d : List Byte) : Nat := cdBox d 1 * cdBox d 2 * cdBox d 3 * cdBox d 4

/-- Pass 1 of R337: ranges and reserved fields. filling tells a handle on which HCOUNT is ignored. -/
def copyPass1 (d : List Byte) (filling : Bool) : List (Bool × Nat) :=
  let n := cdNdim d
  let on := fun (k : Nat) => decide (k < n)
  [(!(1 ≤ n && n ≤ 5), 0), (3 < fld d 1 1, 1),
   (1 < cdSrcSp d || 2 < cdDstSp d || (fld d 2 1).testBit 7 || (cdDstSp d == 0 && cdCode d != 0), 2),
   (3 < fld d 3 1, 3), (31 < fld d 4 1, 4), (!zeroBytes d 5 3, 5),
   (!filling && !(1 ≤ cdHcount d && cdHcount d ≤ 0xFFFFFF), 0x1C)]
  ++ (List.range 5).map (fun k => (if on k then !(1 ≤ cdExt d k && cdExt d k < 2 ^ 31) else cdExt d k != 0, 0x28 + 4 * k))
  ++ [(!zeroBytes d 0x3C 4, 0x3C)]
  ++ (([1, 2, 3, 4] : List Nat).map (fun k => (!on k && fld d (0x40 + 8 * (k - 1)) 8 != 0, 0x40 + 8 * (k - 1))))
  ++ (List.range 5).map (fun k => (!on k && fld d (0x60 + 4 * k) 4 != 0, 0x60 + 4 * k))
  ++ (List.range 5).map (fun k => (if on k then fld d (0x74 + 2 * k) 2 == 0 else fld d (0x74 + 2 * k) 2 != 0, 0x74 + 2 * k))
  ++ [(!zeroBytes d 0x7E 2, 0x7E)]

/-- Pass 2 of R337: alignment (R347). -/
def copyPass2 (d : List Byte) : List (Bool × Nat) :=
  let sp := cdDstSp d != 0
  let a := if cdCode d != 0 then 128 else 4
  [(cdSrc d % cdE d != 0, 8), (sp && cdDst d % a != 0, 0x10), (sp && cdPitch d % a != 0, 0x18)]
  ++ (([1, 2, 3, 4] : List Nat).map (fun k => (fld d (0x40 + 8 * (k - 1)) 8 % cdE d != 0, 0x40 + 8 * (k - 1))))
  ++ [(sp && cdBox d 0 * cdE d % 4 != 0, 0x74)]

/-- The box outside its extent in a dimension that is not circular (R347). -/
def copyOutside (d : List Byte) : List (Bool × Nat) :=
  (cdDims d).map (fun k => (!cdConv d && !cdCirc d k && (cdStart d k < 0 || (cdExt d k : Int) < cdStart d k + cdBox d k), 0x60 + 4 * k))

/-- The coordinates that a dimension reaches inside its extent. -/
def coordSpan (d : List Byte) (k : Nat) : Option (Int × Int) :=
  let e : Int := cdExt d k
  let b : Int := cdBox d k
  if cdCirc d k then
    let s := cdStart d k % e
    if b < e && s + b ≤ e then some (s, s + b - 1) else some (0, e - 1)
  else
    let lo := max 0 (cdStart d k)
    let hi := min (e - 1) (cdStart d k + b - 1)
    if hi < lo then none else some (lo, hi)

/-- The bounding range of the source, end excluded; none where every element is a fill (R129). -/
def copySrc (d : List Byte) : Option (Int × Int) :=
  (cdDims d).foldl (fun (r : Option (Int × Int)) k => match r, coordSpan d k with
    | some (lo, hi), some (a, b) => some (lo + min (a * cdStride d k) (b * cdStride d k), hi + max (a * cdStride d k) (b * cdStride d k))
    | _, _ => none) (some ((cdSrc d : Int), (cdSrc d : Int) + cdE d))

/-- The bounding range of the destination, end excluded (R129). -/
def copyDst (d : List Byte) : Nat × Nat := (cdDst d, cdDst d + (cdRows d - 1) * cdPitch d + rowSpan (cdCode d) (cdBox d 0 * cdE d))

/-- Whether a range overlaps a bound buffer of the unit but for the handle h (R341). -/
def overlapsBuffer (r : UnitR) (h : Option Nat) (lo hi : Nat) : Bool :=
  (List.range 16).any (fun k => some k != h && (State.handle r k).blen != 0 && lo < (State.handle r k).base + (State.handle r k).blen && (State.handle r k).base < hi)

/-- The range checks of pass 3 (R341, R347) for a copy on handle h. A breach of the buffer that the copy itself would bind is charged to HCOUNT, as the table after R366 shows. -/
def copyRanges (r : UnitR) (h : Nat) (d : List Byte) : List (Bool × Nat) :=
  let cap := 4096 * r.sgran
  let x := State.handle r h
  let bound : Bool := x.st == .filling
  let dst := copyDst d
  let src := if cdSrcSp d = 1 then copySrc d else none
  let srcBad : Bool := match src with
    | some (lo, hi) => lo < 0 || (cap : Int) < hi || overlapsBuffer r none lo.toNat hi.toNat
    | none => false
  let dstBad : Bool := cdDstSp d != 0 && (cap < dst.2 || overlapsBuffer r (if cdDstSp d = 2 then some h else none) dst.1 dst.2
    || (cdDstSp d == 2 && bound && (x.blen == 0 || dst.1 < x.base || x.base + x.blen < dst.2)))
  let armBad : Bool := cdDstSp d == 2 && !bound && (cap < cdDst d + cdHcount d || cdDst d + cdHcount d < dst.2)
  [(srcBad, 8), (dstBad, 0x10), (armBad, 0x1C)]

/-- The checks of a copy descriptor in their three passes (R337). -/
def copyTrap (r : UnitR) (h : Nat) (d : List Byte) : Option Trap :=
  match firstBad 0x06 1 (copyPass1 d ((State.handle r h).st == .filling)) with
  | some t => some t
  | none => match firstBad 0x04 1 (copyPass2 d) with
    | some t => some t
    | none => match firstBad 0x06 1 (copyOutside d) with
      | some t => some t
      | none => firstBad 0x06 1 (copyRanges r h d)

/-- One element of a copy: its source address (none for a fill), its row, its byte in the row, whether it sets BOVR. -/
structure CElem where
  src : Option Int
  row : Nat
  off : Nat
  bovr : Bool
  deriving DecidableEq, Repr

/-- The coordinate of an element in a dimension. -/
def coord (d : List Byte) (k : Nat) (b : Nat) : Int := if cdCirc d k then (cdStart d k + b) % (cdExt d k : Int) else cdStart d k + b

/-- The digits of a row in the radices of the box (R346). -/
def rowDigits (d : List Byte) (r : Nat) : List Nat :=
  [r % cdBox d 1, r / cdBox d 1 % cdBox d 2, r / (cdBox d 1 * cdBox d 2) % cdBox d 3, r / (cdBox d 1 * cdBox d 2 * cdBox d 3)]

/-- Element b0 of row r (R346). -/
def copyElem (d : List Byte) (r b0 : Nat) : CElem :=
  let ds := rowDigits d r
  let cs := (cdDims d).map (fun k => (k, coord d k (if k = 0 then b0 else ds.getD (k - 1) 0)))
  let out := cs.filter (fun c => c.2 < 0 || (cdExt d c.1 : Int) ≤ c.2)
  { src := if out.isEmpty then some ((cdSrc d : Int) + (cs.map (fun c => c.2 * cdStride d c.1)).foldl (· + ·) 0) else none,
    row := r, off := cdE d * b0, bovr := out.any (fun c => c.1 + 1 == cdNdim d && (cdExt d c.1 : Int) ≤ c.2) }

/-- The elements of a copy in the order of R346. -/
def copyElems (d : List Byte) : List CElem := (List.range (cdRows d)).flatMap (fun r => (List.range (cdBox d 0)).map (copyElem d r))

/-- The destination address of byte y of row r: an address in memory, an offset in scratchpad. -/
def copyDest (d : List Byte) (r y : Nat) : Nat :=
  if cdDstSp d = 0 then (cdDst d + r * cdPitch d + y) % 2 ^ 64 else rotOff (cdDst d) (cdPitch d) (cdCode d) r (y / 4) + y % 4

/-! ## Format blocks and operands (R358, R359) -/

/-- The formats that a tile operand may have. -/
def tileFmt (n : Nat) : Bool := n == 8 || n == 9 || n == 10 || (12 ≤ n && n ≤ 15)
def fbK (d : List Byte) : Nat := 32 * fld d 4 2
def fbNotify (d : List Byte) : Bool := (fld d 6 1).testBit 0
def fbGate (d : List Byte) : Bool := (fld d 6 1).testBit 1
def fbScsp (d : List Byte) : Bool := (fld d 6 1).testBit 2
/-- The block length of operand A (0) or B (1); 0 for none. -/
def fbLen (d : List Byte) (side : Nat) : Nat := let n := fld d (2 + side) 1; if n = 1 then 16 else if n = 2 then 32 else 0
def fbFmt (d : List Byte) (side : Nat) : Fmt := Fmt.of (fld d side 1)
def fbScale (d : List Byte) (side : Nat) : Nat := fld d (8 + 8 * side) 8
/-- How many scales an operand has: 64 rows of K / L blocks. -/
def fbScales (d : List Byte) (side : Nat) : Nat := if fbLen d side = 0 then 0 else 64 * (fbK d / fbLen d side)
/-- Elements per word of an operand (R275). -/
def fbE (d : List Byte) (side : Nat) : Nat := 32 / (fbFmt d side).width

/-- The checks of a format block (R337, R358). -/
def fbTrap (r : UnitR) (d : List Byte) : Option Trap :=
  let blk := fun (side : Nat) => let b := fld d (2 + side) 1; let f := fld d side 1; decide (2 < b) || (b != 0 && (8 ≤ f && f ≤ 10 : Bool))
  match firstBad 0x06 2 [(!tileFmt (fld d 0 1), 0), (!tileFmt (fld d 1 1), 1), (blk 0, 2), (blk 1, 3), (!(1 ≤ fld d 4 2 && fld d 4 2 ≤ 32), 4),
      (7 < fld d 6 1, 6), (15 < fld d 7 1 || (!fbGate d && fld d 7 1 != 0), 7), (fld d 2 1 == 0 && fbScale d 0 != 0, 8), (fld d 3 1 == 0 && fbScale d 1 != 0, 0x10),
      (!zeroBytes d 0x18 40, 0x18)] with
  | some t => some t
  | none =>
    let out := fun (side : Nat) => fbScsp d && fbScales d side != 0 && 4096 * r.sgran < fbScale d side + fbScales d side
    firstBad 0x06 2 [(out 0, 8), (out 1, 0x10)]

/-- A scratchpad operand from its two registers: base, row pitch, tile pitch, code. -/
structure SpOp where
  base : Nat
  row : Nat
  tile : Nat
  code : Nat
  deriving DecidableEq, Repr

def spOp (x y : Nat) : SpOp := ⟨bits x 0 32, bits x 32 32, bits y 0 32, bits y 32 3⟩

/-- The end of a scratchpad operand's range (R129, R359). -/
def SpOp.stop (o : SpOp) (d : List Byte) (side : Nat) : Nat :=
  o.base + (fbK d / 32 - 1) * o.tile + 63 * o.row + rowSpan o.code (4 * (32 / fbE d side))

/-- The checks of a scratchpad operand (R357 check 4, R359). -/
def spOpTrap (r : UnitR) (d : List Byte) (side y : Nat) (o : SpOp) : Option Trap :=
  let a := if o.code = 0 then 4 else 128
  if 2 ^ 35 ≤ y then some (engTrap 0x06 0 (2 + side) 0)
  else if o.base % a ≠ 0 || o.row % a ≠ 0 || o.tile % a ≠ 0 then some (engTrap 0x04 0 (2 + side) 0)
  else if 4096 * r.sgran < o.stop d side then some (engTrap 0x06 0 (2 + side) 0)
  else none

/-- The word and the element in it of element k of row r, in a scratchpad operand. -/
def SpOp.place (o : SpOp) (d : List Byte) (side r k : Nat) : Nat × Nat :=
  let e := fbE d side
  (rotOff (o.base + k / 32 * o.tile) o.row o.code r (k % 32 / e), k % 32 % e)

/-- The register, lane and element of element k of row r, in a register operand. -/
def regPlace (d : List Byte) (side r k : Nat) : Nat × Nat × Nat :=
  let e := fbE d side
  (r / 32 * (fbK d / e) + k / e, r % 32, k % e)

/-! ## The tile product (R214) -/

/-- A 2^(s − 127) scaling; none for the NaN scale. -/
def e8Shift (s : Nat) : Option Int := if s = 255 then none else some ((s : Int) - 127)

/-- A run's sum: the scaled products in order, none where a product or a scale has no value. -/
def runSum (xs : List (Option FV)) : Option FV :=
  if xs.any (fun x => match x with | none => true | some y => y.isNan) then none
  else sumFV false (FV.fin false 0 0 :: xs.filterMap (fun x => x))

/-- An element product under its two scales. -/
def scaledProd (a b : FV) (sa sb : Nat) : Option FV :=
  match prodFV a b, e8Shift sa, e8Shift sb with
  | some p, some i, some j => some (p.scale (i + j))
  | _, _, _ => none

/-- MaxF32 as an exact value. -/
def maxF32 (s : Bool) : FV := .fin s (2 ^ 24 - 1) 104

/-- One run folded into the accumulator: the new encoding, whether it saturated, whether it is a NaN. -/
def foldRun (acc : Nat) (q : Option FV) : Nat × Bool × Bool :=
  match q with
  | none => (0x7FC00000, false, true)
  | some q =>
    let beyond := match q with
      | .fin s m e => (match cmpFV (.fin false m e) (maxF32 false) with | some .gt => some s | _ => none)
      | _ => none
    let q := match beyond with | some s => maxF32 s | none => q
    let a := toExact .fp32 false acc
    if a.isNan then (0x7FC00000, beyond.isSome, true)
    else match sumFV false [a, q] with
      | none => (0x7FC00000, beyond.isSome, true)
      | some x => (roundTo .fp32 .rne false false false x, beyond.isSome, false)

/-- One element of the tile over all its runs: elements of A and B by k, scales of A and B by k. -/
def tileElem (K acc : Nat) (a b : Nat → FV) (sa sb : Nat → Nat) : Nat × Bool × Bool :=
  (List.range (K / 32)).foldl (fun (x : Nat × Bool × Bool) j =>
    let q := runSum ((List.range 32).map (fun i => scaledProd (a (32 * j + i)) (b (32 * j + i)) (sa (32 * j + i)) (sb (32 * j + i))))
    let y := foldRun x.1 q
    (y.1, x.2.1 || y.2.1, x.2.2 || y.2.2)) (acc, false, false)

/-! ## Epilogues (R362, R363) -/

def edFmt (d : List Byte) : Fmt := Fmt.of (fld d 0 1)
def edSpace (d : List Byte) : Nat := fld d 1 1 % 4
def edCode (d : List Byte) : Nat := bits (fld d 1 1) 4 3
def edRelu (d : List Byte) : Bool := (fld d 2 1).testBit 0
def edClear (d : List Byte) : Bool := (fld d 2 1).testBit 1
def edNotify (d : List Byte) : Bool := (fld d 2 1).testBit 2
def edAlpha (d : List Byte) : Bool := (fld d 2 1).testBit 3
def edPitch (d : List Byte) : Nat := fld d 8 4
/-- The bytes of an output row. -/
def edRow (d : List Byte) : Nat := 64 * (edFmt d).width / 8
/-- The end of the output range. -/
def edStop (d : List Byte) (dst : Nat) : Nat := dst + 63 * edPitch d + rowSpan (if edSpace d = 0 then 0 else edCode d) (edRow d)

/-- The checks of an epilogue descriptor and its output (R337, R341, R362, R363). -/
def edTrap (r : UnitR) (d : List Byte) (dst : Nat) : Option Trap :=
  let f := fld d 0 1
  let a := if edCode d = 0 then 32 else 128
  match firstBad 0x06 3 [(!(f == 0 || tileFmt f), 0), (1 < edSpace d || bits (fld d 1 1) 2 2 != 0 || (fld d 1 1).testBit 7 || (edSpace d == 0 && edCode d != 0), 1),
      (15 < fld d 2 1, 2), (!zeroBytes d 3 1, 3), (!zeroBytes d 0x0C 52, 0x0C)] with
  | some t => some t
  | none =>
    if edPitch d % a ≠ 0 then some (engTrap 0x04 3 0 8)
    else if dst % a ≠ 0 then some (engTrap 0x04 0 3 0)
    else if edSpace d = 1 && (4096 * r.sgran < edStop d dst || overlapsBuffer r none dst (edStop d dst)) then some (engTrap 0x06 0 3 0)
    else none

/-- One output element (R363): the accumulator's encoding, the column. -/
def edElem (d : List Byte) (nmode : W32) (c n : Nat) : Nat :=
  let x := toExact .fp32 false c
  let x := if edAlpha d then (prodFV (toExact .fp32 false (fld d 4 4)) x).getD (.nan false quietBit) else x
  let x := if edRelu d && !x.isNan && (match cmpFV x (.fin false 0 0) with | some .gt => false | _ => true) then .fin false 0 0 else x
  if edFmt d == .fp32 then roundTo .fp32 .rne false false false x else narrowTo nmode (edFmt d) (n % 32) x

/-- The bytes of an output row from its 64 encodings (R275). -/
def packRow (w : Nat) (xs : List Nat) : List Byte :=
  toBytes (xs.reverse.foldl (fun a x => a * 2 ^ w + x % 2 ^ w) 0) (64 * w / 8)

/-! ## Collectives (R351 to R353) -/

def cgValid (g : Nat) : Bool := g.testBit 0
def cgRank (g : Nat) : Nat := bits g 44 10
def cgN (g : Nat) : Nat := bits g 54 11
def cgWin (g : Nat) : Nat := bits g 65 11
def cgBase (g : Nat) : Nat := bits g 76 36 * 2 ^ 21
def cgLen (g : Nat) : Nat := bits g 112 16 * 2 ^ 21
def clOp (d : List Byte) : Nat := fld d 0 1
def clType (d : List Byte) : Fmt := Fmt.of (fld d 1 1)
def clRed (d : List Byte) : Nat := fld d 2 1
def clNotify (d : List Byte) : Bool := (fld d 3 1).testBit 0
def clRoot (d : List Byte) : Nat := fld d 4 2
def clCount (d : List Byte) : Nat := fld d 8 4
def clSrc (d : List Byte) : Nat := fld d 0x10 8
def clDst (d : List Byte) : Nat := fld d 0x18 8
def clSize (d : List Byte) : Nat := (clType d).width / 8

/-- The bytes of a member's source and of its destination. -/
def clSrcLen (d : List Byte) (g : Nat) : Nat := clCount d * clSize d * (if clOp d = 3 then cgN g else 1)
def clDstLen (d : List Byte) (g : Nat) : Nat := clCount d * clSize d * (if clOp d = 1 then cgN g else 1)

/-- The checks of a collective descriptor, then of its group entry, then those over both (R337, R353). -/
def collTrap (d : List Byte) (g : Nat) : Option Trap :=
  let t := fld d 1 1
  match firstBad 0x06 4 [(3 < clOp d, 0), (!(t == 4 || t == 5 || t == 9 || t == 10), 1), (2 < clRed d || (clOp d ≤ 1 && clRed d != 0), 2), (1 < fld d 3 1, 3),
      (clOp d != 0 && clRoot d != 0, 4), (!zeroBytes d 6 2, 6), (!(1 ≤ clCount d && clCount d ≤ 2 ^ 24), 8), (!zeroBytes d 0x0C 4, 0x0C),
      (clSrc d % max 1 (clSize d) != 0, 0x10), (clDst d % max 1 (clSize d) != 0, 0x18), (!zeroBytes d 0x20 32, 0x20)] with
  | some t => some t
  | none =>
    match firstBad 0x06 5 [(!cgValid g || bits g 1 43 != 0, 0), (cgN g ≤ cgRank g, 5), (!(2 ≤ cgN g && cgN g ≤ 1024), 6), (2048 < cgWin g + cgN g, 8), (cgLen g == 0, 14)] with
    | some t => some t
    | none =>
      let out := fun (a n : Nat) => a < cgBase g || cgBase g + cgLen g < a + n
      firstBad 0x06 4 [(clOp d == 0 && cgN g ≤ clRoot d, 4), (out (clSrc d) (clSrcLen d g), 0x10), (out (clDst d) (clDstLen d g), 0x18)]

/-- The ranks and the byte range of their sources that a member reads. -/
def clReads (d : List Byte) (g : Nat) : List Nat × Nat × Nat :=
  let n := clCount d * clSize d
  if clOp d = 0 then ([clRoot d], 0, n)
  else if clOp d = 3 then (List.range (cgN g), cgRank g * n, n)
  else (List.range (cgN g), 0, n)

/-- The combination of two encodings (R353); BF16 is combined as FP32. -/
def clCombine (d : List Byte) (a b : Nat) : Nat :=
  match clType d with
  | .int32 => if clRed d = 0 then iAdd 32 a b else if clRed d = 1 then iMin true 32 a b else iMax true 32 a b
  | .uint32 => if clRed d = 0 then iAdd 32 a b else if clRed d = 1 then iMin false 32 a b else iMax false 32 a b
  | _ => if clRed d = 0 then fAdd 0 .fp32 a b else fMinMax (clRed d == 2) 0 .fp32 a b

/-- A list without its k-th entry. -/
def dropAt (xs : List Nat) (k : Nat) : List Nat := xs.take k ++ xs.drop (k + 1)

/-- The combination of all ranks in an order that is not fixed (R353): free numbers pick the two that are combined next. -/
def clTree (d : List Byte) (free : Nat) : Nat → List Nat → Nat
  | 0, xs => xs.headD 0
  | n + 1, xs =>
    if xs.length ≤ 1 then xs.headD 0
    else
      let i := Config.freeNat (free + 2 * n) % xs.length
      let a := xs.getD i 0
      let ys := dropAt xs i
      let j := Config.freeNat (free + 2 * n + 1) % ys.length
      clTree d free n (clCombine d a (ys.getD j 0) :: dropAt ys j)

/-- One element of the result: BF16 is widened exactly, combined and rounded once to nearest even. -/
def clElem (d : List Byte) (free : Nat) (xs : List Nat) : Nat :=
  if clOp d ≤ 1 then xs.headD 0
  else if clType d == .bf16 then
    roundTo .bf16 .rne false false false (toExact .fp32 false (clTree d free xs.length (xs.map (fun x => x * 2 ^ 16))))
  else clTree d free xs.length xs

end Sys2Proof.Machine
end

