-- ==== Sys2Proof/Machine/Engine.lean ====
section
/-! DEFINITION. Group 7 but for Graze: issuing a command (R336), its range locks (R129, R130), handles (R339 to R344), cpy, stadv, cpyc, mtask, aep, hwait, hrel, the accumulator instructions (R354 to R356), evget (R365). -/

namespace Sys2Proof.Machine

/-! ## The current wave's unit and commands -/

/-- The unit of the current wave. -/
def State.curUnit (s : State) : UnitR := (s.unitOf s.cur).getD { task := ⟨0, 0, 0, none, 0, 0, 0, 0, 0, none⟩ }


/-- A free entry of the copy slots or of the tile-task table (R336, R360). -/
def Core.freeSlot (x : Core) (tile : Bool) : Option Nat :=
  ((if tile then (List.range 32).map (· + 128) else List.range 128) : List Nat).find? (fun k => mget none x.cmds k == none)

/-- A wait for an engine's resource: a cancel ends it (R344). -/
def State.engWait (s : State) : State :=
  let w := s.wave s.cur
  if !w.ctl && s.cancelled w.launch then s.cancelUnit w.unit
  else s.modWave s.cur (fun w => { w with st := .stalled, step := 1 })

/-! ## Reading a descriptor (R336 step 1) -/

/-- A descriptor as read, or the state in which the wave waits or has trapped. -/
inductive Read where
  | ok (s : State) (bs : List Byte)
  | no (s : State)
  deriving DecidableEq, Repr

/-- A descriptor kept for the steps that follow. -/
def State.keep (s : State) (bs : List Byte) : Read := .ok (s.modWave s.cur (fun w => { w with eng := w.eng ++ [bs] })) bs

/-- n bytes at va read once, as a scalar load of the wave (R93, R131); a race rolls a wave back that is not in serial mode, which then replays in that mode (R95), and traps in one that is (R96). While the read waits the command has not issued, so that a cancel ends the wait (R336, R344). A line of the fabric window is fetched. tag fills in what a fault at this point says. -/
def State.readDesc (s : State) (i va n field : Nat) (tag : Trap → Trap) : Read :=
  let id := s.cur
  let w := s.wave id
  match w.eng[i]? with
  | some bs => .ok s bs
  | none =>
    match w.loads.find? (·.acq) with
    | some l =>
      if l.reqs.isEmpty then
        (s.modWave id (fun w => { w with loads := w.loads.filter (fun x => !x.acq) })).keep
          ((List.range (n / 8)).flatMap (fun k => toBytes (((l.got.find? (fun x => x.lane == k)).map (·.value.toNat)).getD 0) 8))
      else .no s.engWait
    | none =>
      match s.look id false .read 64 false ((List.range (n / 64)).map (fun k => (k, ((va + 64 * k) % 2 ^ 64 : Nat), false))) with
      | .trap t => .no (s.trapCur (tag t))
      | .miss m a _ => .no (s.awaitWalk .read m a)
      | .ok xs _ =>
        let cs := s.claimsOf id (s.interval id) 0 s.cycle .read false xs
        if !s.claimReady cs then .no (s.waitRoom cs).engWait
        else if xs.any (fun a => isFabric a.pa && s.fabHeld a.pa) then .no s.engWait
        else
          let (s, races) := s.claimNow cs
          if !races.isEmpty then .no (if (s.wave id).serial then s.trapCur (raceTrap races w.rgn.serial) else s.replay id)
          else
            let rs := s.reqsOf id 8 (xs.flatMap (fun a => (List.range 8).map (fun j => { a with lane := 8 * a.lane + j, pa := a.pa + 8 * j, va := a.va + 8 * j })))
            let got := (rs.filter (fun q => !q.remote)).map (s.take id 8 false)
            if got.any (·.poison) then .no (s.trapCur { cause := 0x0A, detail := BitVec.ofNat 64 (field + 16 * 7) })
            else
              let rest := rs.filter LoadReq.remote
              if rest.isEmpty then s.keep (got.flatMap (fun x => toBytes x.value.toNat 8))
              else
                let op := s.fresh
                let s := ((rest.map (fun q => q.addr / 64 * 64)).eraseDups).foldl (fun (s : State) p => s.fabSend id (.load op) p (vaOf rest p) false []) s.tick
                .no (s.modWave id (fun w => { w with step := 1, st := .stalled, loads := w.loads ++ [⟨op, 0, 8, false, false, rest, got, w.rgn.opened, true, w.pc, false, false⟩] }))

/-! ## Translating and locking (R129, R130) -/

/-- A part still to be translated. -/
def Part.isOpen (p : Part) : Bool := p.phys == none && p.cause == 0

/-- The bytes from a physical address to the end of its fabric window (R17); no other address has such an end. -/
def State.windowLeft (s : State) (p : Nat) : Nat := if isFabric p then bits (s.winEntry (bits p 40 11)) 76 40 * 4096 - bits p 0 40 else 2 ^ 57

/-- A translation from the core TLB or, where tab is set, from the page tables: the lock count of a schedule entry is checked before a command exists whose misses the engines would resolve (R337, R350). -/
def State.xlateTab (s : State) (tab : Bool) (c vf level : Nat) (k : AccKind) (va : Nat) : XR :=
  match s.xlate c vf level k va, (if tab then s.walk vf va else none) with
  | .miss, some g => (s.modCore c (fun x => { x with tlb := [g] })).xlate c vf level k va
  | r, _ => r

/-- A range translated as far as the TLB allows: a page that may not be accessed keeps its cause (R129), and a fabric window ends where its LENGTH says (R17). A part in the upper half below maker level has the cause ACCESS too, since no rule names PRIV for a command (DEDUCED, log 109). -/
def State.xlateParts (s : State) (tab : Bool) (c vf level : Nat) (write : Bool) : Nat → Nat → Nat → List Part
  | 0, va, len => [⟨va, len, none, 0, write, 0⟩]
  | fuel + 1, va, len =>
    if len = 0 then []
    else match s.xlateTab tab c vf level (if write then .write else .read) (va % 2 ^ 64) with
      | .ok p g =>
        let n := min (min len (g.base + g.size - v57 va)) (s.windowLeft p)
        ⟨va, n, some p, 0, write, 0⟩ :: s.xlateParts tab c vf level write fuel (va + n) (len - n)
      | .miss => [⟨va, len, none, 0, write, 0⟩]
      | _ =>
        let n := min len (4096 - va % 4096)
        ⟨va, n, none, 6, write, 0⟩ :: s.xlateParts tab c vf level write fuel (va + n) (len - n)

/-- Parts of one range that continue one another physically made one (R129). -/
def mergeParts (ps : List Part) : List Part :=
  ps.foldl (fun acc p => match acc.getLast?, p.phys with
    | some q, some x =>
      if q.phys == some (x - q.len) && q.len ≤ x && q.va + q.len == p.va && q.write == p.write && q.rng == p.rng then acc.dropLast ++ [{ q with len := q.len + p.len }] else acc ++ [p]
    | _, _ => acc ++ [p]) []

/-- A command's parts, further translated. -/
def State.resolveAll (s : State) (c : Nat) (x : Cmd) (tab : Bool := false) : List Part :=
  mergeParts (x.parts.flatMap (fun p => if p.isOpen then (s.xlateParts tab c x.vf x.level p.write (p.len / 4096 + 2) p.va p.len).map (fun q => { q with rng := p.rng }) else [p]))

/-- A memory range of a command, from two exact addresses. -/
def memPart (lo hi : Int) (write : Bool) : Part := ⟨(lo % 2 ^ 64).toNat, (hi - lo).toNat, none, 0, write, 0⟩
/-- A range in the core's scratchpad array or in accumulator memory. -/
def lockRange (space lo hi : Nat) (write : Bool) : Nat × Nat × Nat × Bool := (space, lo / 32, (hi - 1) / 32, write)

/-- The lock entries of a command: those apart from memory, and one for each translated part, rounded to 64 bytes. -/
def Cmd.locks (x : Cmd) : List (Nat × Nat × Nat × Bool) :=
  x.fixed ++ x.parts.filterMap (fun p => p.phys.map (fun a => (0, a / 64 * 2, (a + p.len - 1) / 64 * 2 + 1, p.write)))

/-- A command's entries put into the table; none while too few are free. -/
def Core.enter (x : Core) (owner unit : Nat) (ls : List (Nat × Nat × Nat × Bool)) : Option Core :=
  let x := x.unlock owner
  let free := (List.range 64).filter (fun i => mget none x.locks i == none)
  if free.length < ls.length then none
  else some { x with locks := (free.zip ls).foldl (fun m e => mset none m e.1 (some ⟨e.2.2.1, e.2.2.2.1, owner, unit % 16, e.2.1, e.2.2.2.2⟩)) x.locks }

/-- Whether two entries conflict (R130). -/
def Lock.conflicts (a b : Lock) : Bool := a.space == b.space && a.first ≤ b.last && b.first ≤ a.last && (a.wl || b.wl)

/-- Whether a command's entries conflict with those of an earlier command of the core, one that has issued before it (R130). -/
def Core.blocked (x : Core) (k : Nat) : Bool :=
  let own := x.locks.filterMap (fun e => match e.2 with | some l => if l.owner == k then some l else none | none => none)
  match mget none x.cmds k with
  | none => false
  | some c => x.locks.any (fun e => match e.2 with
    | some l => l.owner != k && own.any (fun o => o.conflicts l) && (match mget none x.cmds l.owner with | some d => decide (1 ≤ d.phase) && decide (d.order < c.order) | none => false)
    | none => false)

/-- Whether a command that has waited for a conflict has to let earlier ones that wait in this way start first (R130). -/
def Core.heldBack (x : Core) (k : Nat) (c : Cmd) : Bool :=
  c.waited && x.cmds.any (fun e => match e.2 with
    | some d => decide (d.order < c.order) && d.phase == 1 && d.waited && (d.kind != .tile || x.blocked e.1) && e.1 != k
    | none => false)

/-! ## Handles (R340) -/

/-- Whether a gated task bound to a fill waits in the table. -/
def Core.gatedOn (x : Core) (u h fill : Nat) : Bool :=
  x.cmds.any (fun e => match e.2 with | some c => c.unit == u && c.gate == some (h, fill) && c.phase < 2 | none => false)

/-- A draining handle with nothing left on it becomes FREE. -/
def State.settle (s : State) (u h : Nat) : State :=
  match s.unit u with
  | none => s
  | some r =>
    let x := State.handle r h
    if x.st == .draining && x.ncmd == 0 && x.ngate == 0 && !(s.core (u / 16)).gatedOn u h x.fill then
      s.setUnit u (some { r with handles := mset {} r.handles h { x with st := .free, blen := 0 } })
    else s

/-- A change of a handle, and what follows from it. -/
def State.modHandle (s : State) (u h : Nat) (f : Handle → Handle) : State :=
  (s.modUnit u (fun r => { r with handles := mset {} r.handles h (f (State.handle r h)) })).settle u h

/-- A copy on the handle starts: it is armed when FREE, and counts one more command (R340). -/
def Handle.copyStarts (count : Nat) (buf : Option (Nat × Nat)) (h : Handle) : Handle :=
  if h.st == .free then
    { h with st := .filling, pend := count, ovr := false, err := false, bovr := false, ncmd := h.ncmd + 1, fill := h.fill + 1,
             base := (buf.map (·.1)).getD 0, blen := (buf.map (·.2)).getD 0 }
  else { h with ncmd := h.ncmd + 1 }

/-! ## Steps 4 and 5 of R336 -/

/-- The lines of the fabric window that a range of physical parts covers. -/
def partLines (ps : List Part) : List Nat :=
  ((ps.filter (fun p => !p.write)).flatMap (fun p => match p.phys with
    | some a => if isFabric a then (List.range ((a + p.len - 1) / 64 - a / 64 + 1)).map (fun k => (a / 64 + k) * 64) else []
    | none => [])).eraseDups

/-- The fabric lines that a command reads: of its source parts, or of its peers' sources through their windows (R353). -/
def Cmd.remoteLines (x : Cmd) : List Nat :=
  match x.kind with
  | .coll =>
    let g := x.args.getD 0 0
    let r := clReads x.desc g
    ((r.1.filter (· != cgRank g)).flatMap (fun k =>
      let a := 2 ^ 51 + (cgWin g + k) * 2 ^ 40 + (clSrc x.desc - cgBase g) + r.2.1
      (List.range ((a + r.2.2 - 1) / 64 - a / 64 + 1)).map (fun j => (a / 64 + j) * 64))).eraseDups
  | .copy => partLines x.parts
  | _ => []

/-- A command that starts in a cycle. When the first and the last of the members of a collective joined, this one being neither before the first nor after the last, and whether their descriptors agree, other packages decide: these are free values (R353; log 117). -/
def Cmd.started (x : Cmd) (now n err : Nat) : Cmd :=
  let y := { x with phase := 2, since := now, err := err }
  if x.kind == .coll then { y with first := min now (Config.freeNat (2 ^ 240 + n)), join := max now (Config.freeNat (2 ^ 241 + n)), odd := Config.freeNat (2 ^ 242 + n) % 2 == 1 } else y

/-- A command started: its fabric reads go out (R128, R132); it waits for that while an earlier request has to come first (R412) and while a line of its wave is on its way there (R128). -/
def State.startCmd (s : State) (c k : Nat) : State :=
  match s.cmd c k with
  | none => s
  | some x =>
    let ls := x.remoteLines
    if ls.any (fun p => s.fabHeld p || s.lineOut x.ident p) then s
    else
      let bad := x.kind == .coll && ls.any (fun p => !s.winOk x.vf p)
      let n := s.fresh
      let s := (if x.kind == .coll then s.tick else s).setCmd c k (some (x.started s.cycle n (if bad then 6 else x.err)))
      if bad then s else ls.foldl (fun (s : State) p => s.fabSend x.ident (.cmd c k) p 0 false []) s

/-- How a command arms its handle: the count and the buffer (R340, R341, R353). -/
def Cmd.arming (x : Cmd) : Option (Nat × Option (Nat × Nat)) :=
  match x.kind with
  | .copy => some (cdHcount x.desc, if cdDstSp x.desc = 2 then some (cdDst x.desc, cdHcount x.desc) else none)
  | .coll => some (clDstLen x.desc (x.args.getD 0 0), none)
  | _ => none

/-- The physical number of a tile. -/
def UnitR.tileOf (r : UnitR) (t : Nat) : Nat := (accWord r (t / 4)).getD 0 / 4096

/-- The escape-log entries of a tainted tile's epilogue, one for each row (R366, R381, R382); of an epilogue taint says whether the register of its output address was tainted. -/
def State.logRows (s : State) (x : Cmd) : State :=
  (List.range 64).foldl (fun (s : State) m => s.escape x.ident 3 (x.args.getD 1 0 + m * edPitch x.desc) (edRow x.desc) 0xFF [] x.taint false) s

/-- Whether a tile is tainted for a command that issues now: by its bit and by what the commands that issued earlier and have not been carried out yet do to it (R366). -/
def State.tileTainted (s : State) (c p : Nat) : Bool :=
  let xs := ((s.core c).cmds.filterMap (·.2)).filter (fun (x : Cmd) => (x.phase == 1 || x.phase == 2) && (x.kind == .tile || x.kind == .aep) && (s.unit x.unit).map (fun r => r.tileOf (x.args.getD 0 0)) == some p)
  let cl := xs.filter (fun x => x.kind == .aep && edClear x.desc)
  let soiled := fun (n : Nat) => xs.any (fun x => x.kind == .tile && x.taint && n ≤ x.order)
  if cl.isEmpty then mget false (s.core c).accTaint p || soiled 0 else soiled (cl.foldl (fun n x => max n x.order) 0)

/-- An epilogue writes its entries when it issues (R381): one for each row of a tainted tile, and one for a tainted s register that gives its output address, with the address of the first row (log 87). -/
def State.logTile (s : State) (c : Nat) (x : Cmd) : State :=
  if x.kind == .aep then
    let s := if (match s.unit x.unit with | some r => s.tileTainted c (r.tileOf (x.args.getD 0 0)) | none => false) then s.logRows x else s
    if x.taint then s.escape x.ident 3 (x.args.getD 1 0) (edRow x.desc) 0xFF [] true true else s
  else s

/-- Step 5: the counter rises, the sequence number advances, the overlapping lines of the wave drain (R128), the handle counts the copy, the rows of a tainted tile are logged, the command starts unless it has to wait. -/
def State.issueCmd (s : State) (c k : Nat) (x : Cmd) : State :=
  let id := s.cur
  let tile := x.kind == .tile || x.kind == .aep
  let s := s.modWave id (fun w => { w with seq := w.seq + 1, cpc := if tile then w.cpc else w.cpc + 1, ttc := if tile then w.ttc + 1 else w.ttc })
  let s := (x.parts.filter (fun p => !p.write)).foldl (fun (s : State) p => match p.phys with
    | some a => s.drainRange id a (a + p.len)
    | none => s) s
  let s := if x.kind == .coll then x.remoteLines.foldl (fun (s : State) a => s.drainRange id a (a + 64)) s else s
  let s := match x.arming with
    | some (n, b) => s.modHandle x.unit x.handle (Handle.copyStarts n b)
    | none => s
  let s := s.logTile c x
  let x := { x with phase := 1, seq := (s.wave id).seq, order := s.fresh }
  let s := s.tick.setCmd c k (some x)
  let b := (s.core c).blocked k
  let s := s.setCmd c k (some { x with waited := b })
  if x.kind == .tile || b then s else s.startCmd c k

/-- The command of the current wave that is entering its locks. -/
def State.entering (s : State) : Option (Nat × Cmd) :=
  (s.core (coreOf s.cur)).cmds.findSome? (fun e => match e.2 with
    | some x => if x.ident == s.cur && x.phase == 0 then some (e.1, x) else none
    | none => none)

/-- Step 4, tried again until every range is translated and locked; more than 64 entries are the fault bad (R129, R337). fin is what follows step 5. -/
def State.enterStep (s : State) (bad : Trap) (fin : State → State) : State :=
  let c := coreOf s.cur
  match s.entering with
  | none => s.stall
  | some (k, x) =>
    let x := { x with parts := s.resolveAll c x }
    let s := s.setCmd c k (some x)
    if 64 < x.locks.length then ((s.modCore c (fun y => (y.unlock k).advanceGen k)).setCmd c k none).trapCur bad
    else match (s.core c).enter k x.unit x.locks with
      | none => s.stall
      | some y =>
        let s := s.setCore c y
        if x.parts.any Part.isOpen then s.stall else fin (s.issueCmd c k x)

/-- A command put into its table: from here on it is in progress (R336). -/
def State.beginCmd (s : State) (k : Nat) (x : Cmd) (bad : Trap) (fin : State → State) : State :=
  let s := (s.tick).setCmd (coreOf s.cur) k (some { x with order := s.fresh })
  (s.modWave s.cur (fun w => { w with step := 2, rgn := { w.rgn with lead := true } })).enterStep bad fin

/-- A command of the current wave without what its kind adds. -/
def State.newCmd (s : State) (kind : CmdKind) (h : Nat) (d : List Byte) : Cmd :=
  let w := s.wave s.cur
  { kind := kind, ident := s.cur, widx := w.widx, unit := w.unit, vf := w.vf, level := w.level, interval := s.interval s.cur, pc := w.pc, seq := w.seq,
    handle := h, desc := d, args := [], order := 0 }

/-- The first operand fault of a list of checks (R337, SOURCE 0): cause, field. -/
def operandFault (xs : List (Bool × Nat × Nat)) : Option Trap := (xs.find? (·.1)).map (fun x => engTrap x.2.1 0 x.2.2 0)

/-! ## cpy (R345 to R348) -/

/-- Whether a copy on a handle has to wait for a slot, for its counter or for the handle (R336 step 3, R340). -/
def State.copyBusy (s : State) (h : Nat) (onlyFree : Bool) : Bool :=
  let x := State.handle s.curUnit h
  ((s.core (coreOf s.cur)).freeSlot false).isNone || 15 ≤ (s.wave s.cur).cpc || x.st == .full || x.st == .draining || (onlyFree && x.st != .free)

/-- The command of a checked copy. -/
def State.copyCmd (s : State) (h : Nat) (d : List Byte) : Cmd :=
  let r := s.curUnit
  let src := copySrc d
  let dst := copyDst d
  { (s.newCmd .copy h d) with
    fixed := (match src with | some (lo, hi) => if cdSrcSp d = 1 then [lockRange 1 (r.spad0 + lo.toNat) (r.spad0 + hi.toNat) false] else [] | none => [])
      ++ (if cdDstSp d = 0 then [] else [lockRange 1 (r.spad0 + dst.1) (r.spad0 + dst.2) true]),
    parts := (match src with | some (lo, hi) => if cdSrcSp d = 0 then [memPart lo hi false] else [] | none => [])
      ++ (if cdDstSp d = 0 then [memPart dst.1 dst.2 true] else []) }

/-- cpy from step 2 of R336. -/
def State.copyIssue (s : State) (h : Nat) (d : List Byte) (fin : State → State) : State :=
  match copyTrap s.curUnit h d with
  | some t => s.trapCur t
  | none =>
    if s.copyBusy h false then s.engWait
    else match (s.core (coreOf s.cur)).freeSlot false with
      | none => s.engWait
      | some k => s.beginCmd k (s.copyCmd h d) (engTrap 0x06 1 0 0) fin

def execCpy (h desc : Src) (s : State) : Host.Outcome State Fault Refusal :=
  let i := Instr.cpy h desc
  let fin := fun (s : State) => s.finishCur i (fillScalars [(2, h), (3, desc)])
  gated i s
    (if (s.wave s.cur).step = 2 then s.enterStep (engTrap 0x06 1 0 0) fin
     else match s.ueScalar [(2, h), (3, desc)] with
      | some t => s.trapCur t
      | none => match operandFault [(15 < s.sval h, 0x06, 2), (s.sval desc % 64 != 0, 0x04, 3)] with
        | some t => s.trapCur t
        | none => match s.readDesc 0 (s.sval desc) 128 3 (fun t => t) with
          | .no s => s
          | .ok s d => s.copyIssue (s.sval h) d fin)

/-! ## stadv (R349, R350) -/

/-- The entries that an advance selects, with their numbers. -/
def selectSched (tab : List SchedE) (a b : Nat) (first : Bool) : List (Nat × SchedE) :=
  (tab.zipIdx.map (fun x => (x.2, x.1))).filter (fun x => (a < x.2.step && x.2.step ≤ b) || (first && x.2.step == 0))

/-- A fault of an entry in the first loop of R350. -/
def schedTag (n : Nat) (t : Trap) : Trap := if t.cause = 4 || t.cause = 6 then { t with detail := BitVec.ofNat 64 (6 * 2 ^ 12 + n) } else t

/-- The first loop: every descriptor is read and checked, once; the lock count as far as pages are mapped, since a page that still has to be asked for shows its place only when the entry's copy enters its locks (R337, R129; DEDUCED, log 130). An entry whose descriptor has been kept has been checked. -/
def State.readAll (s : State) : List (Nat × Nat × SchedE) → Read
  | [] => .ok s []
  | (i, n, e) :: r =>
    if i < (s.wave s.cur).eng.length then s.readAll r
    else if e.desc.toNat % 64 ≠ 0 then .no (s.trapCur (schedTag n { cause := 4 }))
    else match s.readDesc i e.desc.toNat 128 0 (schedTag n) with
      | .no s => .no s
      | .ok s d =>
        match copyTrap s.curUnit e.handle d with
        | some t => .no (s.trapCur (schedTag n t))
        | none =>
          let x := s.copyCmd e.handle d
          if 64 < ({ x with parts := s.resolveAll (coreOf s.cur) x true } : Cmd).locks.length then .no (s.trapCur (schedTag n (engTrap 0x06 1 0 0))) else s.readAll r

/-- The entries that a stadv replays and the counter's new value, laid down when the instruction starts (R350). -/
def State.schedPlan (s : State) (n : Nat) : List (Nat × SchedE) × Nat :=
  let w := s.wave s.cur
  let tab := ((s.launch w.launch).getD {}).sched
  match w.sched with
  | some (ns, b) => (ns.filterMap (fun k => (tab[k]?).map (fun e => (k, e))), b)
  | none =>
    let r := s.curUnit
    let b := min (r.stagec + n) 65535
    (selectSched tab r.stagec b (!r.stadv), b)

/-- An entry's copy issued. -/
def State.schedNext (s : State) : State := s.modWave s.cur (fun w => { w with engi := w.engi + 1, st := .stalled })

/-- The second loop, one entry at a time; a wait counts as not yet issued for a cancel (R344), while a rollback is deferred once an entry has been issued (R350). -/
def State.schedStep (s : State) (i : Instr) (L : List (Nat × SchedE)) (b : Nat) : State :=
  let w := s.wave s.cur
  match L[w.engi]? with
  | none =>
    let s := s.modUnit w.unit (fun r => { r with stagec := b, stadv := true })
    s.finishCur i (fun w => w)
  | some e =>
    if s.copyBusy e.2.handle false then s.engWait
    else match (s.core (coreOf s.cur)).freeSlot false with
      | none => s.engWait
      | some k => s.beginCmd k (s.copyCmd e.2.handle (w.eng.getD w.engi [])) (schedTag e.1 (engTrap 0x06 1 0 0)) State.schedNext

def execStadv (n : Nat) (s : State) : Host.Outcome State Fault Refusal :=
  let i := Instr.stadv n
  let w := s.wave s.cur
  let (L, b) := s.schedPlan n
  let s' := s.modWave s.cur (fun w => { w with sched := some (L.map (·.1), b) })
  gated i s
    (if w.step = 2 then
       if s.entering.isSome then s.enterStep (schedTag ((L[w.engi]?.map (·.1)).getD 0) (engTrap 0x06 1 0 0)) State.schedNext
       else s.schedStep i L b
     else match s'.readAll (L.zipIdx.map (fun x => (x.2, x.1))) with
      | .no s => s
      | .ok s _ => s.schedStep i L b)

/-! ## cpyc (R351 to R353) -/

/-- The group table entry of a function (R351). -/
def State.groupEntry (s : State) (vf g : Nat) : Nat := s.hwN (0x1010000 + 4096 * vf + 16 * g) 16

/-- The command of a checked collective copy. -/
def State.collCmd (s : State) (h : Nat) (d : List Byte) (g : Nat) : Cmd :=
  let r := clReads d g
  let own := r.1.contains (cgRank g)
  { (s.newCmd .coll h d) with
    args := [g],
    parts := (if own then [memPart (clSrc d + r.2.1) (clSrc d + r.2.1 + r.2.2) false] else []) ++ [memPart (clDst d) (clDst d + clDstLen d g) true] }

def execCpyc (h desc grp : Src) (s : State) : Host.Outcome State Fault Refusal :=
  let i := Instr.cpyc h desc grp
  let fin := fun (s : State) => s.finishCur i (fillScalars [(2, h), (3, desc), (4, grp)])
  gated i s
    (if (s.wave s.cur).step = 2 then s.enterStep (engTrap 0x06 4 0 0) fin
     else match s.ueScalar [(2, h), (3, desc), (4, grp)] with
      | some t => s.trapCur t
      | none => match operandFault [(15 < s.sval h, 0x06, 2), (255 < s.sval grp, 0x06, 4), (s.sval desc % 64 != 0, 0x04, 3)] with
        | some t => s.trapCur t
        | none => match s.readDesc 0 (s.sval desc) 64 3 (fun t => t) with
          | .no s => s
          | .ok s d =>
            let g := s.groupEntry (s.wave s.cur).vf (s.sval grp)
            match collTrap d g with
            | some t => s.trapCur t
            | none =>
              if s.copyBusy (s.sval h) true then s.engWait
              else match (s.core (coreOf s.cur)).freeSlot false with
                | none => s.engWait
                | some k => s.beginCmd k (s.collCmd (s.sval h) d g) (engTrap 0x06 4 0 0) fin)

/-! ## hwait and hrel (R342, R343) -/

def execHwait (full : Bool) (p : Nat) (h : Src) (s : State) : Host.Outcome State Fault Refusal :=
  gated (.hwait full p h) s
    (match s.ueScalar [(2, h)] with
     | some t => s.trapCur t
     | none =>
       if 15 < s.sval h then s.trapCur (engTrap 0x06 0 2 0)
       else
         let x := State.handle s.curUnit (s.sval h)
         let ok : Bool := if full then x.st == .full || x.st == .draining else x.st == .free
         if ok then s.finishCur (.hwait full p h) (fun w => writePred p ((execLanes w).map (fun l => (l, ⟨cond (full && (x.ovr || x.err)) 1 0, none, false⟩))) (fillScalars [(2, h)] w))
         else s.engWait)

/-- The unit and handle that hrel names: its own, or on the control core a resident unit of the core (R343). -/
def State.hrelTarget (s : State) (v : Nat) : Option (Nat × Nat) :=
  let w := s.wave s.cur
  if w.ctl then
    let u := 16 * coreOf s.cur + bits v 4 4
    if v < 256 && (s.unit u).isSome then some (u, v % 16) else none
  else if v ≤ 15 then some (w.unit, v) else none

def execHrel (h : Src) (s : State) : Host.Outcome State Fault Refusal :=
  gated (.hrel h) s
    (match s.ueScalar [(2, h)] with
     | some t => s.trapCur t
     | none => match s.hrelTarget (s.sval h) with
      | none => s.trapCur (engTrap 0x06 0 2 0)
      | some (u, k) =>
        match s.unit u with
        | none => s.trapCur (engTrap 0x06 0 2 0)
        | some r =>
          if (State.handle r k).st == .full then
            (s.finishCur (.hrel h) (fillScalars [(2, h)])).modHandle u k (fun x => { x with st := .draining })
          else s.engWait)

/-! ## Accumulator memory (R70 to R72, R354 to R356) -/

/-- ACCBANK with its detail (R390). -/
def accTrap (d : Nat) : Trap := { cause := 0x12, detail := BitVec.ofNat 64 d }

/-- The bytes of a unit's allocation; none is 0. -/
def UnitR.accBytes (r : UnitR) : Nat := ((r.acc.map (·.length)).getD 0) * 0x20000
/-- The physical accumulator address of a logical one. -/
def UnitR.accPhys (r : UnitR) (a : Nat) : Nat := 4 * (accWord r (a / 4)).getD 0 + a % 4

/-- The free banks of a core. -/
def Core.bankFree (x : Core) : List Nat := (List.range 16).filter (fun b => mget none x.banks b == none)

/-- The oldest waiting request granted with zeroed banks, if enough are free (R71 rules 2 and 5); the wave goes on behind its aalloc, whose length engi keeps. -/
def State.grant (s : State) (c : Nat) : State :=
  match (s.core c).accQ with
  | [] => s
  | (u, n, id) :: rest =>
    let bs := (s.core c).bankFree.take n
    if bs.length < n then s
    else
      let s := s.modCore c (fun x =>
        let x := x.scrub bs
        { x with accQ := rest, banks := bs.foldl (fun m b => mset none m b (some (u % 16))) x.banks })
      let s := s.modUnit u (fun r => { r with acc := some bs, accReq := none })
      s.finishAt id (.aalloc (if (s.wave id).engi = 12 then .lit 0 else .imm n)) (fun w => w)

def execAalloc (n : Src) (s : State) : Host.Outcome State Fault Refusal :=
  gated (.aalloc n) s
    (match s.ueScalar [(2, n)] with
     | some t => s.trapCur t
     | none =>
       let w := s.wave s.cur
       let r := s.curUnit
       let k := s.sval n
       let c := coreOf s.cur
       if r.acc.isSome || r.accReq.isSome then s.trapCur (accTrap 0)
       else if k = 0 || r.m < k then s.trapCur (accTrap 1)
       else
         let s := s.modUnit w.unit (fun r => { r with accReq := some (s.cur, k) })
         let s := s.modCore c (fun x => { x with accQ := x.accQ ++ [(w.unit, k, s.cur)] })
         let s := s.modWave s.cur (fun w => { (fillScalars [(2, n)] w) with st := .waiting, wait := .aalloc, engi := Instr.length (.aalloc n), accN := k, rgn := { w.rgn with lead := w.mode == .normal } })
         if (s.core c).accQ.length = 1 && k ≤ (s.core c).bankFree.length then s.grant c
         else if w.mode == .normal && s.cancelled w.launch then s.cancelUnit w.unit
         else s)

def execAfree (s : State) : Host.Outcome State Fault Refusal :=
  gated .afree s
    (let w := s.wave s.cur
     let r := s.curUnit
     match r.acc with
     | none => s.trapCur (accTrap 2)
     | some bs =>
       if (s.core (coreOf s.cur)).cmds.any (fun e => match e.2 with | some x => x.unit == w.unit && (x.kind == .tile || x.kind == .aep) | none => false)
          || (s.liveSlots w.unit r).any (fun id => (s.wave id).loads.any (·.acc)) then s.engWait
       else
         let s := (s.modCore (coreOf s.cur) (fun x => x.freeBanks bs)).modUnit w.unit (fun r => { r with acc := none })
         s.finishCur .afree (fun w => w))

/-- The logical address of ald and ast in a lane, with the marks of its operands (R355). -/
def accAddr (w : Wave) (a c : Src) (l : Nat) : Int × LV := addrLV w true a c l

/-- The checks of ald and ast after poison, in the order of R355. -/
def State.accCheck (s : State) (write : Bool) (xs : List (Nat × Int)) : Option Trap :=
  let r := s.curUnit
  let n := fun (x : Nat × Int) => (x.1, (x.2 % 2 ^ 64).toNat)
  let mis := xs.filter (fun x => x.2 % 4 != 0)
  let out := xs.filter (fun x => x.2 < 0 || (r.accBytes : Int) < x.2 + 4)
  if !mis.isEmpty then some (laneFault 0x04 true (mis.map n))
  else if !out.isEmpty then some { (laneFault 0x12 true (out.map n)) with detail := 3 }
  else (s.core (coreOf s.cur)).lockTrap 4 write true (xs.map (fun x => (x.1, x.2.toNat, 2, r.accPhys x.2.toNat)))

def execAld (g : Guard) (d : Dst) (a c : HSrc) (s : State) : Host.Outcome State Fault Refusal :=
  let i := Instr.ald g d a c
  let w := s.wave s.cur
  let xs := (active w g).map (fun l => (l, accAddr w a.src c.src l))
  gated i s
    (match operandTrap w g (xs.map (fun x => (x.1, x.2.2))) with
     | some t => s.trapCur t
     | none => match s.accCheck false (xs.map (fun x => (x.1, x.2.1))) with
      | some t => s.trapCur t
      | none =>
        if xs.isEmpty then s.finishCur i (memFill true a.src none (some c.src))
        else if 63 ≤ w.ldc then s.stall
        else
          let r := s.curUnit
          let x := s.core (coreOf s.cur)
          let got := xs.map (fun y =>
            let p := (accWord r (y.2.1.toNat / 4)).getD 0
            (⟨y.1, BitVec.ofNat 64 (mget 0 x.acc p).toNat, mget false x.accPoison p, mget false x.accTaint (p / 4096) || y.2.2.taint⟩ : LoadLane))
          let op := s.fresh
          (s.tick).finishCur i (fun w =>
            let w := memFill true a.src none (some c.src) w
            { w with ldc := w.ldc + 1, loads := w.loads ++ [⟨op, d.code, 4, false, false, [], got, 0, false, w.pc, false, true⟩] }))

/-- A word of accumulator memory written; its poison is cleared. -/
def Core.putAcc (x : Core) (p : Nat) (v : W32) : Core := { x with acc := mset 0 x.acc p v, accPoison := mset false x.accPoison p false }

def execAst (g : Guard) (a b c : HSrc) (s : State) : Host.Outcome State Fault Refusal :=
  let i := Instr.ast g a b c
  let w := s.wave s.cur
  let dat := fun (l : Nat) => srcLV w 3 .i32 false b.src l
  let xs := (active w g).map (fun l => (l, accAddr w a.src c.src l))
  gated i s
    (match operandTrap w g (xs.map (fun x => (x.1, LV.mix 0 x.2.2 (dat x.1)))) with
     | some t => s.trapCur t
     | none => match s.accCheck true (xs.map (fun x => (x.1, x.2.1))) with
      | some t => s.trapCur t
      | none =>
        let r := s.curUnit
        let s := xs.foldl (fun (s : State) x =>
          let at_ := (!isSReg a.src && (srcLV w 2 .i32 false a.src x.1).taint) || (!isSReg c.src && (srcLV w 4 .i32 false c.src x.1).taint)
          let dt := (dat x.1).taint && !isSReg b.src
          if at_ || dt then s.escape s.cur 4 x.2.1.toNat 4 x.1 (if dt then dataCodes false b.src else []) at_ false else s) s
        let s := match xs with
          | x :: _ => (sTaints w [a.src, c.src] [b.src]).foldl (fun (s : State) (y : Nat × Bool) => s.escape s.cur 4 x.2.1.toNat 4 0xFF [] y.2 true) s
          | [] => s
        let s := s.modCore (coreOf s.cur) (fun y => xs.foldl (fun (y : Core) x => y.putAcc ((accWord r (x.2.1.toNat / 4)).getD 0) (BitVec.ofNat 32 (dat x.1).val)) y)
        s.finishCur i (memFill true a.src (some (.i32, false, b.src)) (some c.src)))

/-- A tile operand's address checked: alignment with the field that the detail names (0 for azero), then the allocation (R356, R357). -/
def tileTrap (r : UnitR) (t field : Nat) : Option Trap :=
  if t % 0x4000 ≠ 0 then some (engTrap 0x04 0 field 0)
  else if r.accBytes < t + 0x4000 then some (accTrap 3)
  else none

/-- The 4,096 words of a tile of the unit zeroed, with its marks (R356, R366). -/
def Core.zeroTile (x : Core) (p : Nat) : Core :=
  { x with acc := x.acc.filter (fun e => e.1 / 4096 != p), accPoison := x.accPoison.filter (fun e => e.1 / 4096 != p), accTaint := mset false x.accTaint p false }

def execAzero (t : Src) (s : State) : Host.Outcome State Fault Refusal :=
  gated (.azero t) s
    (match s.ueScalar [(2, t)] with
     | some e => s.trapCur e
     | none =>
       let r := s.curUnit
       let a := s.sval t
       match tileTrap r a 0 with
       | some e => s.trapCur e
       | none => match (s.core (coreOf s.cur)).lockTrap 0x4000 true false [(0, a, 2, r.accPhys a)] with
        | some e => s.trapCur e
        | none => (s.modCore (coreOf s.cur) (fun x => x.zeroTile (r.tileOf a))).finishCur (.azero t) (fillScalars [(2, t)]))

/-! ## mtask (R357 to R360) -/

/-- The registers that a tile operand uses. -/
def topRegs (w : Wave) (d : List Byte) (side : Nat) : TOp → Option Trap × SMap W32 × Bool
  | .s _ => (none, [], false)
  | .v n =>
    let k := 2 * (fbK d / fbE d side)
    if w.budget < n + k then (some (illop 0x09 (2 + side)), [], false)
    else
      let xs := (List.range k).flatMap (fun j => allLanes.map (fun l => (j, l)))
      let bad := xs.filter (fun x => mget false w.poison.v (key (n + x.1) x.2))
      (match bad with
        | [] => none
        | _ => some { cause := 0x0A, lanes := laneMask (fun l => bad.any (·.2 == l)), detail := BitVec.ofNat 64 (2 + side) },
       xs.foldl (fun m x => mset 0 m (8192 * side + key x.1 x.2) (mget 0 w.regs.v (key (n + x.1) x.2))) [],
       xs.any (fun x => mget false w.taint.v (key (n + x.1) x.2)))

/-- The scratchpad operand that a tile operand names. -/
def State.topSpad (s : State) : TOp → Option (Nat × Nat)
  | .s n => some ((mget 0 (s.wave s.cur).regs.s n).toNat, (mget 0 (s.wave s.cur).regs.s (n + 1)).toNat)
  | .v _ => none

/-- The scalar registers of a tile operand. -/
def topScalars (field : Nat) : TOp → List (Nat × Src)
  | .s n => [(field, .s n), (field, .s (n + 1))]
  | .v _ => []

/-- The first trap of a list. -/
def firstTrap (xs : List (Option Trap)) : Option Trap := xs.findSome? (fun x => x)

/-- Checks 2 to 4 of R357. -/
def State.taskTrap (s : State) (d : List Byte) (a b : TOp) : Option Trap :=
  let w := s.wave s.cur
  let r := s.curUnit
  let ra := (topRegs w d 0 a).1
  let rb := (topRegs w d 1 b).1
  let isBudget := fun (t : Option Trap) => match t with | some t => if t.cause = 1 then some t else none | none => none
  let sp := fun (side : Nat) (o : TOp) => match s.topSpad o with | some (x, y) => spOpTrap r d side y (spOp x y) | none => none
  firstTrap [isBudget ra, isBudget rb, ra, rb, sp 0 a, sp 1 b]

/-- The fill that gates a task (R360). -/
def gateOf (r : UnitR) (d : List Byte) : Option (Nat × Nat) :=
  if fbGate d then
    let h := fld d 7 1
    let x := State.handle r h
    some (h, if x.st == .free then x.fill + 1 else x.fill)
  else none

/-- The command of a checked tile task: args hold the tile, then for each operand whether it lies in scratchpad and its two registers. -/
def State.taskCmd (s : State) (t : Nat) (a b : TOp) (d : List Byte) : Cmd :=
  let w := s.wave s.cur
  let r := s.curUnit
  let ra := topRegs w d 0 a
  let rb := topRegs w d 1 b
  let opArgs := fun (o : TOp) => match s.topSpad o with | some (x, y) => [1, x, y] | none => [0, 0, 0]
  let spLock := fun (side : Nat) (o : TOp) => match s.topSpad o with
    | some (x, y) => [lockRange 1 (r.spad0 + (spOp x y).base) (r.spad0 + (spOp x y).stop d side) false]
    | none => []
  let sides := ([0, 1] : List Nat).filter (fun k => fbScales d k != 0)
  { (s.newCmd .tile 0 d) with
    args := t :: opArgs a ++ opArgs b, regs := ra.2.1 ++ rb.2.1, taint := ra.2.2 || rb.2.2, gate := gateOf r d,
    fixed := spLock 0 a ++ spLock 1 b ++ [lockRange 2 (r.accPhys t) (r.accPhys t + 0x4000) true]
      ++ (if fbScsp d then sides.map (fun k => lockRange 1 (r.spad0 + fbScale d k) (r.spad0 + fbScale d k + fbScales d k) false) else []),
    parts := if fbScsp d then [] else sides.map (fun k => { memPart (fbScale d k) (fbScale d k + fbScales d k) false with rng := k }) }

def execMtask (t : Src) (a b : TOp) (fb : Src) (s : State) : Host.Outcome State Fault Refusal :=
  let i := Instr.mtask t a b fb
  let fin := fun (s : State) => s.finishCur i (fillScalars [(4, fb)])
  gated i s
    (if (s.wave s.cur).step = 2 then s.enterStep (engTrap 0x06 2 0 0) fin
     else match s.ueScalar ([(1, t), (4, fb)] ++ topScalars 2 a ++ topScalars 3 b) with
      | some e => s.trapCur e
      | none =>
        match firstTrap [tileTrap s.curUnit (s.sval t) 1, operandFault [(s.sval fb % 64 != 0, 0x04, 4)]] with
        | some e => s.trapCur e
        | none => match s.readDesc 0 (s.sval fb) 64 4 (fun t => t) with
          | .no s => s
          | .ok s d => match firstTrap [fbTrap s.curUnit d, s.taskTrap d a b] with
            | some e => s.trapCur e
            | none =>
              if 15 ≤ (s.wave s.cur).ttc then s.engWait
              else match (s.core (coreOf s.cur)).freeSlot true with
                | none => s.engWait
                | some k => s.beginCmd k (s.taskCmd (s.sval t) a b d) (engTrap 0x06 2 0 0) fin)

/-! ## aep (R362, R363) -/

/-- The command of a checked epilogue; taint says whether the register of its output address is tainted. -/
def State.aepCmd (s : State) (t dst : Nat) (taint : Bool) (d : List Byte) : Cmd :=
  let r := s.curUnit
  { (s.newCmd .aep 0 d) with
    args := [t, dst], nmode := (s.wave s.cur).nmode, taint := taint,
    fixed := lockRange 2 (r.accPhys t) (r.accPhys t + 0x4000) (edClear d) :: (if edSpace d = 1 then [lockRange 1 (r.spad0 + dst) (r.spad0 + edStop d dst) true] else []),
    parts := if edSpace d = 0 then [memPart dst (edStop d dst) true] else [] }

/-- PH one further (R213). -/
def advancePh (w : Wave) : Wave := { w with nmode := BitVec.ofNat 32 (w.nmode.toNat % 2 ^ 27 + (nmPh w.nmode + 1) % 32 * 2 ^ 27) }

def execAep (t dst ed : Src) (s : State) : Host.Outcome State Fault Refusal :=
  let i := Instr.aep t dst ed
  let fin := fun (s : State) => s.finishCur i (fun w => advancePh (fillScalars [(2, t), (3, dst), (4, ed)] w))
  gated i s
    (if (s.wave s.cur).step = 2 then s.enterStep (engTrap 0x06 3 0 0) fin
     else match s.ueScalar [(2, t), (3, dst), (4, ed)] with
      | some e => s.trapCur e
      | none =>
        match firstTrap [tileTrap s.curUnit (s.sval t) 2, operandFault [(s.sval dst % 32 != 0, 0x04, 3), (s.sval ed % 64 != 0, 0x04, 4)]] with
        | some e => s.trapCur e
        | none => match s.readDesc 0 (s.sval ed) 64 4 (fun t => t) with
          | .no s => s
          | .ok s d => match edTrap s.curUnit d (s.sval dst) with
            | some e => s.trapCur e
            | none =>
              if 15 ≤ (s.wave s.cur).ttc then s.engWait
              else match (s.core (coreOf s.cur)).freeSlot true with
                | none => s.engWait
                | some k => s.beginCmd k (s.aepCmd (s.sval t) (s.sval dst) (!(sTaints (s.wave s.cur) [dst] []).isEmpty) d) (engTrap 0x06 3 0 0) fin)

/-! ## evget (R365) -/

/-- The two halves of a record (R176). -/
def EvRec.low (r : EvRec) : Nat := r.kind % 256 + r.status % 256 * 2 ^ 8 + r.source % 65536 * 2 ^ 16 + r.seq % 2 ^ 32 * 2 ^ 32

def execEvget (d : Nat) (s : State) : Host.Outcome State Fault Refusal :=
  let w := s.wave s.cur
  gated (.evget d) s
    (if !w.ctl && w.level < 1 then s.trapCur (privTrap 0)
     else if s.ctlCancel then s.ctlEnd (coreOf s.cur)
     else match (s.core (coreOf s.cur)).evq with
      | [] => s.engWait
      | r :: rest =>
        (s.modCore (coreOf s.cur) (fun x => { x with evq := rest })).finishCur (.evget d)
          (fun w => writeS (d + 1) ⟨r.data.toNat, none, false⟩ (writeS d ⟨r.low, none, false⟩ w)))

end Sys2Proof.Machine
end

