-- ==== Sys2Proof/Machine/Xlate.lean ====
section
/-! DEFINITION. Translation misses and the firmware behind them: walks (R19, R25), the decision of a missing page (R39 to R44, R50), page requests and their answers (R42 to R48), the requests of svc (R28 to R33, R451), invalidation sweeps (R18, R34 to R37). -/

namespace Sys2Proof.Machine

/-! ## Reservations and pages -/

/-- The reservation that contains an address. -/
def VFn.resvAt (f : VFn) (va : Nat) : Option Resv := f.resvs.find? (fun r => r.base ≤ v57 va && v57 va < r.base + r.len)
/-- The start of the page of a SIZE code that contains an address. -/
def pageOf (va size : Nat) : Nat := v57 va / pageBytes size * pageBytes size
/-- The page that a lane names: its reservation's, or a 4 KiB page where there is none. -/
def VFn.namedPage (f : VFn) (va : Nat) : Nat := pageOf va ((f.resvAt va).map (·.psize) |>.getD 0)
/-- Whether a resident page is pinned. -/
def VFn.pinned (f : VFn) (x : Nat × Nat × Nat) : Bool := ((f.resvAt x.1).map (fun r => r.perm.testBit 3)).getD false
/-- The evictable pages (R44); a page of a fabric window is a resident page like any other (DEDUCED, log 100). -/
def VFn.evictable (f : VFn) (named : List Nat) : Nat := (f.resident.filter (fun x => !f.pinned x && !named.contains x.1)).length
/-- The pool-state word of FRAMEX (R44). -/
def VFn.poolWord (f : VFn) (held size : Nat) : Nat :=
  min 65535 (f.resident.filter f.pinned).length * 2 ^ 48 + min 65535 f.resident.length * 2 ^ 32 + min 32 held * 2 ^ 24 + size * 2 ^ 16
/-- The frame of a page of a fabric window (R17). -/
def Resv.windowFrame (r : Resv) (page : Nat) : Nat := 2 ^ 51 + r.window * 2 ^ 40 + r.woffset + (page - r.base)
/-- The leaf bits of a reservation's page. -/
def Resv.leaf (r : Resv) (v : Nat) : Nat := leafBits v r.perm r.psize r.attr (r.kind == 3)

/-! ## Page requests (R42, R46) -/

/-- The entry of an outstanding request for a page (R41). -/
def VFn.requestFor (f : VFn) (page : Nat) : Option Nat := (List.range 256).find? (fun k => (mget {} f.preqs k).live && (mget {} f.preqs k).vpage == page)
/-- A free entry. -/
def VFn.freeRequest (f : VFn) : Option Nat := (List.range 256).find? (fun k => !(mget {} f.preqs k).live)
/-- The page-request timeout in cycles (R46, R2): set in µs and held between 1 ms and 10 s, 100 ms where it is not set (DESIGN CHOICE, log 101). -/
def State.pageTimeout (s : State) (v : Nat) : Nat := let n := s.hwN (0x1100000 + 8 * v) 8; 1400 * (if n = 0 then 100000 else max 1000 (min 10000000 n))

/-- A request posted in entry k (R42): the message and the entry, with the grant for the frame of a HOSTDATA request (R48). After a bank switch it may have to wait (R412). -/
def State.postPage (s : State) (v k size page frame : Nat) (host : Bool) (pc seq : W64) : State :=
  let e := mget {} (s.vf v).preqs k
  let bs := toBytes (e.gen * 256 + k) 2 ++ toBytes v 1 ++ toBytes (if host then 1 else 2) 1 ++ toBytes size 4 ++ toBytes page 8 ++ toBytes (if host then frame else 0) 8
    ++ toBytes pc.toNat 8 ++ toBytes seq.toNat 8 ++ toBytes 0 24
  let held := s.pageHeld (s.hostNode v)
  let s := s.modVf v (fun f =>
    { f with preqs := mset {} f.preqs k { live := true, gen := e.gen, hostdata := host, vpage := page, psize := size, frame := if host then frame else 0, posted := s.cycle, msg := some bs } })
  if held then s else s.sendPage v k bs

/-! ## The decision of a missing page (R40, R41, R44) -/

/-- What firmware comes to for a page: mapped, ACCESS, FRAMEX with its detail word, a request to wait for, or no free entry to request with. -/
inductive Fate where
  | mapped
  | access
  | framex (word : Nat)
  | asked (k : Nat)
  | full
  deriving DecidableEq, Repr

/-- The shortage rule (R44). -/
def State.shortage (s : State) (v page size : Nat) (named : List Nat) (pc seq : W64) : State × Fate :=
  let f := s.vf v
  if f.evictable named = 0 then (s, .framex (f.poolWord named.length size))
  else match f.freeRequest with
    | some k => (s.postPage v k size page 0 false pc seq, .asked k)
    | none => (s, .full)

/-- One page decided, at an address that did not translate; named are the pages that the instruction names. A page that is resident and does not translate has a malformed leaf: ACCESS (R22). The frame of a KIND 3 page comes from local stacked DRAM (DEDUCED, log 102). -/
def State.decidePage (s : State) (v va : Nat) (named : List Nat) (pc seq : W64) : State × Fate :=
  let f := s.vf v
  match f.resvAt va with
  | none => (s, .access)
  | some r =>
    let page := pageOf va r.psize
    match f.requestFor page with
    | some k => (s, .asked k)
    | none =>
      if f.resident.any (fun x => x.1 == page) then (s, .access)
      else if r.kind = 2 then (s.mapPage v page r.psize (r.windowFrame page) (r.leaf v), .mapped)
      else match f.poolFrame (r.kind == 1) r.psize with
        | none => s.shortage v page r.psize named pc seq
        | some a =>
          if r.kind = 3 then
            match f.freeRequest with
            | some k => ((s.modVf v (fun f => f.poolTake a)).postPage v k r.psize page a true pc seq, .asked k)
            | none => (s, .full)
          else ((s.modVf v (fun f => f.poolTake a)).mapPage v page r.psize a (r.leaf v), .mapped)

/-- A wave joined to an entry (R41). -/
def State.joinWave (s : State) (v k id : Nat) : State :=
  s.modVf v (fun f => { f with preqs := mset {} f.preqs k { (mget {} f.preqs k) with joined := nsAdd (mget {} f.preqs k).joined id } })
/-- A command joined to an entry. -/
def State.joinCmd (s : State) (v k c n : Nat) : State :=
  s.modVf v (fun f => { f with preqs := mset {} f.preqs k { (mget {} f.preqs k) with cmds := (mget {} f.preqs k).cmds ++ [(c, n)] } })

/-! ## TRANSLATION_WALK (R19, R38 to R44, R49) -/

/-- The lanes whose address lies on a page that missed; a scalar access and a fetch have none. -/
def WalkReq.lanesOn (r : WalkReq) (f : VFn) (pages : List Nat) : W32 :=
  if r.lanes = 0 then 0 else laneMask (fun l => r.lanes.getLsbD l && r.addrs.any (fun a => a.1 == l && pages.contains (f.namedPage a.2.toNat)))

/-- The lowest of the addresses on some pages. -/
def WalkReq.lowOn (r : WalkReq) (f : VFn) (pages : List Nat) : W64 :=
  BitVec.ofNat 64 (lowest ((r.addrs.filter (fun a => (r.lanes == 0 || r.lanes.getLsbD a.1) && pages.contains (f.namedPage a.2.toNat))).map (fun a => a.2.toNat)))

/-- Whether a page that a walk has found turns away a missing lane: its permission, or a fabric window that the function may not use there (R17, R38 step 2). -/
def State.walkBreaks (s : State) (w : Wave) (r : WalkReq) (g : Page) : Bool :=
  r.addrs.any (fun a => (r.lanes == 0 || r.lanes.getLsbD a.1) && g.has w.vf a.2.toNat
    && (!g.allows w.level r.kind || (isFabric (g.phys a.2.toNat) && !s.winOk w.vf (g.phys a.2.toNat))))

/-- The walks of some pages (R24 step 3): each page found enters the TLB; the pages that are missing, and whether a page found turns a lane away. -/
def State.walkAll (s : State) (id : Nat) (r : WalkReq) (pages : List Nat) : State × List Nat × Bool :=
  let w := s.wave id
  let c := coreOf id
  pages.foldl (fun (x : State × List Nat × Bool) page =>
    let s := State.fillWalk x.1 c w.vf page
    match s.coreWalk c w.vf page with
    | some g => (s.modCore c (fun y => { y with tlb := tlbAdd y.tlb g }), x.2.1, x.2.2 || s.walkBreaks w r g)
    | none => (s, x.2.1 ++ [page], x.2.2)) (s, [], false)

/-- The pages on which lanes of a wave miss, rising. -/
def State.missing (s : State) (id : Nat) (r : WalkReq) : List Nat :=
  sortCodes (((r.addrs.filter (fun a => r.lanes == 0 || r.lanes.getLsbD a.1)).map (fun a => a.2.toNat)).map (s.vf (s.wave id).vf).namedPage)

/-- Whether the walks lead to the firmware handler: a page is missing, and none that is found turns a lane away (R38). -/
def State.enters (s : State) (id : Nat) (r : WalkReq) : Bool :=
  let x := s.walkAll id r (s.missing id r)
  !x.2.1.isEmpty && !x.2.2

/-- The walks of a wave's missing pages, and what each page that no walk finds comes to, in rising order of the pages. Where a page found turns a lane away nothing is decided: the instruction raises ACCESS when it executes again (R38 step 2 before step 3). -/
def State.walkPages (s : State) (id : Nat) (r : WalkReq) : State × List (Nat × Fate) :=
  let w := s.wave id
  let f := s.vf w.vf
  let named := (r.addrs.map (fun a => f.namedPage a.2.toNat)).eraseDups
  let (s, gone, breaks) := s.walkAll id r (s.missing id r)
  let s := s.bump w.vf (s.dieOf id) 5 0 gone.length
  if breaks then (s, [])
  else gone.foldl (fun (x : State × List (Nat × Fate)) page =>
      let (s, t) := State.decidePage x.1 w.vf page named w.pc w.seq
      (s, x.2 ++ [(page, t)])) (s, [])

/-- The wave after the handler: a fault, a sleep on its requests, or the instruction again from its first step (R39). Where pages come to different ends, FRAMEX comes before ACCESS and ACCESS before a sleep, and requests that were posted stay live (DESIGN CHOICE, log 103). -/
def State.afterHandler (s : State) (id : Nat) (r : WalkReq) (xs : List (Nat × Fate)) : State :=
  let w := s.wave id
  let f := s.vf w.vf
  let acc := (xs.filter (fun x => x.2 == .access)).map (·.1)
  let asked := xs.filterMap (fun x => match x.2 with | .asked k => some k | _ => none)
  match xs.findSome? (fun x => match x.2 with | .framex d => some (x.1, d) | _ => none) with
  | some (p, d) => s.raise id { cause := 0x07, lanes := r.lanesOn f [p], detail := BitVec.ofNat 64 d, addr := r.lowOn f [p] }
  | none =>
    if !acc.isEmpty then s.raise id { cause := 0x06, lanes := r.lanesOn f acc, addr := r.lowOn f acc }
    else if asked.isEmpty && !xs.any (fun x => x.2 == .full) then s.modWave id (fun w => { w with walk := none, st := .ready })
    else
      let s := asked.foldl (fun (s : State) k => s.joinWave w.vf k id) s
      let s := if asked.isEmpty then s.modVf w.vf (fun f => { f with asleep := nsAdd f.asleep id }) else s
      let s := s.modWave id (fun w => { w with st := .sleeping })
      if !w.ctl && w.mode == .normal && s.cancelled w.launch then s.cancelUnit w.unit else s

/-- TRANSLATION_WALK: the walks, and where a page is missing the handler, as one step (log 27). A slot number with 16,384 added says that the handler's own code or data did not translate: a miss by a wave that is already in the handler, which kills its unit with PAGE (R51); the address that the handler missed is a free value (log 108). -/
def execTranslationWalk (slot : Nat) (s : State) : Host.Outcome State Fault Refusal :=
  let again := decide (16384 ≤ slot)
  let slot := slot % 16384
  .next (match (s.wave slot).walk with
    | none => s
    | some r =>
      if (s.wave slot).st == .sleeping then s
      else if again && s.enters slot r then ((s.walkAll slot r (s.missing slot r)).1.tick).raise slot { cause := 0x05, lanes := r.lanes, addr := Config.freeWord (2 ^ 251 + s.fresh) }
      else
        let (s, xs) := s.walkPages slot r
        s.afterHandler slot r xs)

/-! ## ENGINE_TRANSLATION_MISS (R50, R129) -/

/-- Who an engine fault is attributed to (R392): its time is the issuing wave's count, for a wave that has exited the count at its exit. -/
def State.cmdBlame (s : State) (x : Cmd) : Blame :=
  let w := s.wave x.ident
  let gone : Bool := match s.unit x.unit with | some r => r.gone.contains x.widx && (w.st == WState.empty || w.unit != x.unit || w.widx != x.widx) | none => false
  { eng := true, widx := x.widx, pc := x.pc, seq := x.seq, time := if gone then ((s.unit x.unit).map (fun (r : UnitR) => mget 0 r.clocks x.widx)).getD 0 else w.clock }

/-- The first open part of a command: its first n bytes get a cause. -/
def Cmd.fail (x : Cmd) (n cause : Nat) : Cmd :=
  match x.parts.findIdx? Part.isOpen with
  | none => x
  | some i =>
    let p := x.parts.getD i default
    let k := min n p.len
    let rest := if k < p.len then [{ p with va := p.va + k, len := p.len - k }] else []
    { x with parts := x.parts.take i ++ [{ p with len := k, cause := cause }] ++ rest ++ x.parts.drop (i + 1), wait := none }

/-- The bytes from an address to the end of its page. -/
def VFn.toPageEnd (f : VFn) (va : Nat) : Nat := let n := pageBytes (((f.resvAt va).map (·.psize)).getD 0); n - v57 va % n

/-- The miss of a command's first open part. -/
def State.engineMiss (s : State) (c k : Nat) (x : Cmd) (p : Part) : State :=
  let f := s.vf x.vf
  let s := s.fillWalk c x.vf p.va
  match s.coreWalk c x.vf p.va with
  | some g => s.modCore c (fun y => { y with tlb := tlbAdd y.tlb g })
  | none =>
    let (s, t) := State.decidePage (s.bump x.vf (dieOfCore c) 5 0 1) x.vf p.va [f.namedPage p.va] x.pc x.seq
    match t with
    | .mapped => s
    | .access => s.setCmd c k (some (x.fail (f.toPageEnd p.va) 6))
    | .framex d => s.setCmd c k (some (x.fail (f.toPageEnd p.va) (7 + 256 * d)))
    | .asked e => (s.setCmd c k (some { x with wait := some e })).joinCmd x.vf e c k
    | .full => s

def execEngineTranslationMiss (core cmd : Nat) (s : State) : Host.Outcome State Fault Refusal :=
  .next (match s.cmd core cmd with
    | none => s
    | some x =>
      if x.phase != 0 || x.wait.isSome then s
      else match x.parts.find? Part.isOpen with
        | none => s
        | some p => s.engineMiss core cmd x p)

/-! ## Answers and timeouts (R45 to R48) -/

/-- An entry freed: its generation advances, the grant closes, the waves joined to it try again (R45), and those that wait for an entry. -/
def State.freeEntry (s : State) (v k : Nat) : State :=
  let e := mget {} (s.vf v).preqs k
  let s := s.modVf v (fun f => { f with preqs := mset {} f.preqs k { e with live := false, gen := (e.gen + 1) % 256, joined := [], cmds := [] } })
  let s := e.joined.foldl (fun (s : State) id =>
    if (s.wave id).st == .sleeping && !(s.vf v).preqs.any (fun y => y.2.live && y.2.joined.contains id) then s.modWave id (fun w => { w with st := .ready, walk := none }) else s) s
  let s := e.cmds.foldl (fun (s : State) x => match s.cmd x.1 x.2 with
    | some y => s.setCmd x.1 x.2 (some { y with wait := none })
    | none => s) s
  s.wakeAsleep v

/-- A frame that an answer names passes the check (R45): free in the reserve, aligned, in the aperture of the reservation that caused the request. -/
def State.goodFrame (s : State) (v : Nat) (e : PageReq) (a : Nat) : Bool :=
  let t := (((s.vf v).resvAt e.vpage).map (fun r => r.kind == 1)).getD false
  inReserve s.reserve a (pageBytes e.psize) && a % pageBytes e.psize == 0 && isTier2 a == t

/-- Frames of an answer moved from the reserve into the pool. -/
def State.takeFrames (s : State) (v : Nat) (e : PageReq) (fs : List Nat) : State :=
  (fs.take 2).foldl (fun (s : State) a =>
    if s.goodFrame v e a then (State.toPool { s with reserve := takeReserve s.reserve a (pageBytes e.psize) } v a e.psize) else s) s

/-- The failure of an entry (R45, R46): its frame returns to the pool, every joined unit takes ACCESS, a joined copy ends in error and a tile command is killed when it comes to the page. -/
def State.failEntry (s : State) (v k : Nat) : State :=
  let e := mget {} (s.vf v).preqs k
  let f := s.vf v
  let traps : List (Nat × Trap) := e.joined.map (fun id => (id, match (s.wave id).walk with
    | some r => { cause := 0x06, lanes := r.lanesOn f [e.vpage], addr := r.lowOn f [e.vpage] }
    | none => { cause := 0x06, addr := BitVec.ofNat 64 e.vpage }))
  let s := s.freeEntry v k
  let s := if e.hostdata then s.toPool v e.frame e.psize else s
  let s := e.cmds.foldl (fun (s : State) x => match s.cmd x.1 x.2 with
    | some y => s.setCmd x.1 x.2 (some (match y.parts.find? Part.isOpen with | some p => y.fail (f.toPageEnd p.va) 6 | none => y))
    | none => s) s
  traps.foldl (fun (s : State) x => if (s.wave x.1).st == .empty then s else s.raise x.1 x.2) s

/-- A success answer to a live entry. A page whose reservation is gone is not mapped: its frame returns to the pool (R33). -/
def State.succeedEntry (s : State) (v k : Nat) (fs : List Nat) : State :=
  let e := mget {} (s.vf v).preqs k
  if e.hostdata then
    match (s.vf v).resvAt e.vpage with
    | some r => (s.mapPage v e.vpage e.psize e.frame (r.leaf v)).freeEntry v k
    | none => (s.freeEntry v k).toPool v e.frame e.psize
  else (s.takeFrames v e fs).freeEntry v k

/-- Frames in quarantine released: zero-filled, into the pool, or into the reserve after a reset (R47). -/
def State.releaseQuar (s : State) (v : Nat) (p : Quar → Bool) : State :=
  let qs := (s.vf v).quar.filter p
  let s := s.modVf v (fun f => { f with quar := f.quar.filter (fun q => !p q) })
  qs.foldl (fun (s : State) q => if q.reset then s.toReserve q.frame q.psize else s.toPool v q.frame q.psize) s

/-- PAGE_REQUEST_ANSWER (R45, R47): a stale answer releases every frame that quarantine holds for its entry. An answer with a live tag whose STATUS is neither success nor failure is discarded (DESIGN CHOICE, log 63). -/
def execPageRequestAnswer (vf tag status : Nat) (frames : List Nat) (s : State) : Host.Outcome State Fault Refusal :=
  let k := tag % 256
  let e := mget {} (s.vf vf).preqs k
  .next (if !e.live || e.gen != tag / 256 % 256 then
      let s := s.releaseQuar vf (fun q => q.tag % 256 == k)
      if e.reset then s else s.takeFrames vf e frames
    else if status = 0 then s.succeedEntry vf k frames
    else if status = 1 then s.failEntry vf k
    else s)

def execPageRequestTimeout (vf entry : Nat) (s : State) : Host.Outcome State Fault Refusal :=
  let e := mget {} (s.vf vf).preqs entry
  .next (if e.live && e.posted + s.pageTimeout vf ≤ s.cycle then s.failEntry vf entry else s)

def execQuarantineRelease (vf entry : Nat) (s : State) : Host.Outcome State Fault Refusal :=
  .next (s.releaseQuar vf (fun q => q.tag % 256 == entry && q.since + s.pageTimeout vf ≤ s.cycle))

/-! ## The requests of svc (R28 to R33, R451) -/

/-- The fields of a request block (R29). -/
structure Block where
  vbase : Nat
  length : Nat
  kind : Nat
  psize : Nat
  perm : Nat
  attr : Nat
  window : Nat
  z24 : Nat
  woffset : Nat
  z38 : Nat
  deriving DecidableEq, Repr

/-- A block as firmware reads it at its home; one that lies behind the fabric has values that the spec does not give (log 5). -/
def State.readBlock (s : State) (p : Nat) : Block :=
  let g := fun (o n : Nat) => if isFabric p then (Config.freeWord (s.fresh + o)).toNat % 2 ^ (8 * n) else readN s.mem (p + o) n
  ⟨g 0 8, g 8 8, g 0x10 4, g 0x14 4, g 0x18 4, g 0x1C 4, g 0x20 4, g 0x24 4, g 0x28 8, g 0x38 8⟩

/-- The first field out of its limits, as the row of R29's table (R451); 0 for none. A base in the upper half is charged to VBASE, a range that ends in it to LENGTH (DEDUCED, log 104). -/
def Block.bad (b : Block) : Nat :=
  let n := pageBytes b.psize
  let ok := decide (b.psize ≤ 4)
  let xs : List (Nat × Bool) :=
    [(1, 2 ^ 56 ≤ b.vbase || (ok && b.vbase % n != 0)), (2, b.length == 0 || (ok && b.length % n != 0) || 2 ^ 56 < b.vbase + b.length),
     (3, 3 < b.kind), (4, !ok), (5, 15 < b.perm), (6, 2 < b.attr), (7, if b.kind = 2 then 2047 < b.window else b.window != 0),
     (8, b.z24 != 0), (9, if b.kind = 2 then ok && b.woffset % n != 0 else b.woffset != 0), (12, b.z38 != 0)]
  ((xs.find? (·.2)).map (·.1)).getD 0

/-- The identity of the wave that waits for a request. -/
def State.askerOf (s : State) (q : SvcReq) : Option Nat := (s.waves.find? (fun x => x.2.svcreq == some q.ident)).map (·.1)

/-- A request of svc is over: it leaves its list and its wave goes on (R28, R31, R259). -/
def State.svcDone (s : State) (v : Nat) (q : SvcReq) : State :=
  let a := s.askerOf q
  let s := s.modVf v (fun f => { f with svcq := f.svcq.filter (fun x => x.ident != q.ident) })
  let s := { s with saved := s.saved.map (fun x => { x with waves := x.waves.map (fun w => if w.svcreq == some q.ident then { w with svcreq := none } else w) }) }
  match a with
  | none => s
  | some id =>
    if (s.wave id).mode == .normal && (s.wave id).st == .waiting then s.finishAt id (.svc q.code) (fun w => { w with svcreq := none })
    else s.modWave id (fun w => { w with svcreq := none })

/-- Firmware writes STATUS and DETAIL; of a block in a fabric window the request is over once its endpoint has acknowledged the write (R28, R31, R259). -/
def State.reply (s : State) (v : Nat) (q : SvcReq) (status detail : Nat) : State :=
  let bs := toBytes status 4 ++ toBytes detail 4
  if isFabric q.pa then
    (s.modVf v (fun f => { f with svcq := f.svcq.map (fun x => if x.ident == q.ident then { x with sent := true } else x) })).fabSend 16384 (.svc q.ident) (q.pa / 64 * 64) (q.va / 64 * 64) false (bs.zipIdx.map (fun x => (0x30 + x.2, x.1)))
  else (s.performLine (((s.askerOf q).map (fun id => (s.wave id).unit)).getD 4096) [⟨.mem, q.pa / 64 * 64, layBytes [] 0x30 bs, 16384, false, 0⟩]).svcDone v q

/-- The request of svc whose STATUS has been written behind the fabric. -/
def State.svcOf (s : State) (n : Nat) : Option (Nat × SvcReq) :=
  s.vfs.findSome? (fun (x : Nat × VFn) => (x.2.svcq.find? (fun q => q.ident == n && q.sent)).map (fun q => (x.1, q)))

/-- Whether ranges overlap. -/
def overlap (a n b m : Nat) : Bool := a < b + m && b < a + n

/-- STATUS and DETAIL of a validation that fails (R30, R31, R451), in the order of R30. A window of the function that is too short for the range is answered as a window that is not the function's (DEDUCED, log 105). -/
def State.validate (s : State) (v : Nat) (q : SvcReq) (b : Block) : Option (Nat × Nat) :=
  let f := s.vf v
  let n := pageBytes b.psize
  let others := f.resvs.filter (fun r => overlap r.base r.len b.vbase b.length)
  let make := decide (q.code ≤ 0x41)
  let free := (f.pool.filter (fun x => x.2 == b.psize && isTier2 x.1 == (b.kind == 1))).length
  if q.va % 64 ≠ 0 then some (1, 0)
  else if b.bad ≠ 0 then some (1, b.bad)
  else if make && !others.isEmpty then some (2, lowest (others.map (fun r => (r.base - b.vbase) / n)))
  else if !make && !f.resvs.any (fun r => r.base == b.vbase && r.len == b.length) then some (3, 1)
  else if make && b.kind == 2 && (let e := s.winEntry b.window; !e.testBit 0 || bits e 1 6 != v || bits e 76 40 * 4096 < b.woffset + b.length) then some (3, 7)
  else if make && 256 ≤ f.resvs.length then some (5, 0)
  else if q.code == 0x41 && b.kind ≤ 1 && free * n < b.length then some (4, free)
  else none

/-- The pages of a range. -/
def Resv.pages (r : Resv) : List Nat := (List.range (r.len / pageBytes r.psize)).map (fun i => r.base + i * pageBytes r.psize)

/-- Whether a request of svc may be examined: none of the function is being carried out by a sweep (R33). -/
def VFn.idle (f : VFn) : Bool := f.sweeps.all (fun x => x.req.isNone)

/-- The pages of a POPULATE mapped: those of KIND 3 through page requests that the wave joins, so that the request goes on when the answers have come; a shortage that they meet follows R44 (DEDUCED, log 106). -/
def State.populatePages (s : State) (v : Nat) (q : SvcReq) (r : Resv) : State :=
  let id := s.askerOf q
  let w := s.wave (id.getD 16384)
  let (s, xs) := r.pages.foldl (fun (x : State × List Fate) page =>
    if (x.1.vf v).resident.any (fun y => y.1 == page) then x
    else
      let (s, t) := State.decidePage x.1 v page [page] w.pc w.seq
      (match t, id with | .asked k, some i => s.joinWave v k i | _, _ => s, x.2 ++ [t])) (s, [])
  match xs.findSome? (fun t => match t with | .framex d => some d | _ => none) with
  | some d => (match id with | some i => s.raise i { cause := 0x07, detail := BitVec.ofNat 64 d, addr := BitVec.ofNat 64 r.base } | none => s)
  | none => if xs.all (fun t => t == .mapped) then s.reply v q 0 0 else s

/-- A sweep begun (R34); with no core to ask it is over at once. -/
def State.beginSweep (s : State) (v : Nat) (w : Sweep) : State :=
  s.modVf v (fun f => { f with sweeps := f.sweeps ++ [{ w with todo := s.vfCores v, unacked := s.vfCores v }] })

/-- A sweep that every core has acknowledged (R32, R36, R18): frames are zeroed and returned, a window's change takes effect, the request is complete. -/
def State.endSweep (s : State) (v : Nat) (w : Sweep) : State :=
  let s := s.modVf v (fun f => { f with sweeps := f.sweeps.filter (fun x => x != w) })
  let s := if w.free then (w.frames.filter (fun x => !isFabric x.1)).foldl (fun (s : State) x => s.toPool v x.1 x.2) s else s
  let s := match w.window with
    | some n => if s.vfs.any (fun (y : Nat × VFn) => y.2.sweeps.any (fun x => x.window == some n)) then s else { s with winOld := mset none s.winOld n none }
    | none => s
  match w.req with
  | some q => s.reply v q 0 0
  | none => s

/-- The sweeps of a function that nothing is left to acknowledge. -/
def State.endSweeps (s : State) (v : Nat) : State :=
  ((s.vf v).sweeps.filter (fun w => w.unacked.isEmpty)).foldl (fun (s : State) w => s.endSweep v w) s

/-- The resident pages of a range, as frames. -/
def VFn.framesIn (f : VFn) (base len : Nat) : List (Nat × Nat × Nat) := f.resident.filter (fun x => base ≤ x.1 && x.1 < base + len)

/-- RESERVE and POPULATE (R28). -/
def State.serveMake (s : State) (v : Nat) (q : SvcReq) (b : Block) : State :=
  let r : Resv := ⟨b.vbase, b.length, b.kind, b.psize, b.perm, b.attr, b.window, b.woffset⟩
  let s := s.modVf v (fun f => { f with resvs := f.resvs ++ [r], svcq := f.svcq.map (fun x => if x.ident == q.ident then { x with begun := true, vbase := b.vbase } else x) })
  if q.code = 0x40 then s.reply v q 0 0 else s.populatePages v { q with begun := true, vbase := b.vbase } r

/-- UNMAP (R33): the reservation goes first, then the leaves, then the sweep. -/
def State.serveUnmap (s : State) (v : Nat) (q : SvcReq) (b : Block) : State :=
  let xs := (s.vf v).framesIn b.vbase b.length
  let s := s.modVf v (fun f => { f with resvs := f.resvs.filter (fun r => r.base != b.vbase) })
  let s := xs.foldl (fun (s : State) x => s.unmapPage v x.1 x.2.1) s
  (s.beginSweep v ⟨b.vbase, b.length, [], [], xs.map (fun x => (x.2.2, x.2.1)), true, some q, none⟩).endSweeps v

/-- PROTECT (R28, R32): new permissions in the reservation and in its leaves; a sweep where W, X or U is taken away; where none is, translations that a core holds are dropped so that what is added counts at once. -/
def State.serveProtect (s : State) (v : Nat) (q : SvcReq) (b : Block) : State :=
  let xs := (s.vf v).framesIn b.vbase b.length
  match (s.vf v).resvs.find? (fun r => r.base == b.vbase) with
  | none => s
  | some old =>
    let r := { old with perm := b.perm }
    let s := s.modVf v (fun f => { f with resvs := f.resvs.map (fun x => if x.base == b.vbase then r else x) })
    let s := xs.foldl (fun (s : State) x => s.mapPage v x.1 x.2.1 x.2.2 (r.leaf v)) s
    if ([0, 1, 2] : List Nat).any (fun k => old.perm.testBit k && !b.perm.testBit k) then
      (s.beginSweep v ⟨b.vbase, b.length, [], [], xs.map (fun x => (x.2.2, x.2.1)), false, some q, none⟩).endSweeps v
    else
      let s := (s.vfCores v).foldl (fun (s : State) c => s.modCore c (fun y => { y with tlb := y.tlb.filter (fun p => !(p.vf == v && overlap p.base p.size b.vbase b.length)) })) s
      s.reply v q 0 0

/-- The oldest request of a function carried out, if it has the code (R28, R33); its block is read once, before anything is done (R29). -/
def State.serve (s : State) (v code : Nat) : State :=
  match (s.vf v).svcq with
  | [] => s
  | q :: _ =>
    if q.code != code || q.sent || !(s.vf v).idle then s
    else if q.begun then (match (s.vf v).resvAt q.vbase with | some r => s.populatePages v q r | none => s.reply v q 3 1)
    else
      let b := s.readBlock q.pa
      let s := s.tick
      match s.validate v q b with
        | some (st, d) => s.reply v q st d
        | none =>
          if code ≤ 0x41 then s.serveMake v q b
          else if code = 0x42 then s.serveUnmap v q b
          else s.serveProtect v q b

def execReserve (vf : Nat) (s : State) : Host.Outcome State Fault Refusal := .next (s.serve vf 0x40)
def execPopulate (vf : Nat) (s : State) : Host.Outcome State Fault Refusal := .next (s.serve vf 0x41)
def execUnmap (vf : Nat) (s : State) : Host.Outcome State Fault Refusal := .next (s.serve vf 0x42)
def execProtect (vf : Nat) (s : State) : Host.Outcome State Fault Refusal := .next (s.serve vf 0x43)

/-! ## Sweeps on a core (R34, R35) -/

/-- Whether a store-stage entry lies on a page of a sweep. -/
def SBEntry.swept (e : SBEntry) (w : Sweep) : Bool := e.sp == .mem && overlap (v57 e.va) 64 w.base w.len

/-- A control store buffer's or unit store buffer's swept lines written to their frames. -/
def State.flushSwept (s : State) (c : Nat) (w : Sweep) : State :=
  let ctl := ctlId c
  let s := ((s.wave ctl).stage1.filter (fun e => e.swept w)).foldl (fun (s : State) e =>
    let (s, es) := s.takeLine ctl 0 e.base
    if isFabric e.base then s.fabSend ctl .drain e.base e.va false (e.data.filterMap (fun b => b.2.map (fun v => (b.1, v)))) else s.performLine 4096 es) s
  (List.range 16).foldl (fun (s : State) k =>
    match s.unit (16 * c + k) with
    | none => s
    | some r => (r.sb.filter (fun e => e.swept w)).foldl (fun (s : State) e =>
        let s := s.modUnit (16 * c + k) (fun r => { r with sb := r.sb.filter (fun x => x != e) })
        if isFabric e.base then s.fabSend e.ident .drain e.base e.va false (e.data.filterMap (fun b => b.2.map (fun v => (b.1, v))))
        else (s.performLine (16 * c + k) [e]).modUnit (16 * c + k) (fun r => { r with athome := r.athome.insert ((s.wave e.ident).widx, e.base / 64) })) s) s

/-- Steps 1 to 3 of a sweep on a core. A sleeping wave whose restart-region buffer holds a store in the range is rolled back like any other, and leaves the request that it had joined (R35 before R37: DEDUCED, log 107). -/
def State.sweepCore (s : State) (v c : Nat) (w : Sweep) : State :=
  let s := s.modCore c (fun x => { x with
    tlb := x.tlb.filter (fun p => !(p.vf == v && overlap p.base p.size w.base w.len)),
    wcache := x.wcache.filter (fun e => !(e.1 == v && overlap (e.2.2.1 * 2 ^ (21 + 9 * e.2.1)) (2 ^ (21 + 9 * e.2.1)) w.base w.len)) })
  let s := (List.range 64).foldl (fun (s : State) k =>
    let id := 64 * c + k
    let x := s.wave id
    if x.st == .empty then s
    else
      let s := s.modWave id (fun x => { x with lpr := x.lpr.filter (fun p => match p.2 with | some g => !overlap g.base g.size w.base w.len | none => true) })
      if x.mode == .normal && x.stage1.any (fun e => e.swept w) then s.rollback id else s) s
  let s := (s.flushSwept c w)
  let s := ((s.vf v).graze.folds.filter (fun f => overlap (v57 f.pc) f.size w.base w.len)).foldl (fun (s : State) f => s.cull v f.seq 3 none) s
  s.modVf v (fun f => { f with sweeps := f.sweeps.map (fun x => if x == w then { x with todo := x.todo.filter (· != c) } else x) })

def execInvalidationSweep (core : Nat) (s : State) : Host.Outcome State Fault Refusal :=
  .next (match (s.core core).vf with
    | none => s
    | some v => match (s.vf v).sweeps.find? (fun w => w.todo.contains core) with
      | none => s
      | some w =>
        if (List.range 64).any (fun k => (s.wave (64 * core + k)).mode == .normal && (s.wave (64 * core + k)).stage1.any (fun e => e.swept w) && (s.wave (64 * core + k)).deferred) then s
        else s.sweepCore v core w)

/-- Whether an address lies in a sweep's frames. -/
def Sweep.holds (w : Sweep) (a : Nat) : Bool := w.frames.any (fun x => x.1 ≤ a && a < x.1 + pageBytes x.2)

/-- Whether something translated before the sweep is still under way on a core (R34 step 3, R35). -/
def State.sweepBusy (s : State) (c : Nat) (w : Sweep) : Bool :=
  let mine := fun (id : Nat) => id < 12480 && coreOf id == c
  s.claims.any (fun x => mine x.ident && !granSpad x.gran && w.holds (64 * x.gran))
  || s.drains.any (fun d => mine d.ident && w.holds d.base) || s.acks.any (fun d => mine d.ident && w.holds d.base)
  || s.reqs.any (fun q => mine q.ident && w.holds q.line)
  || s.waves.any (fun x => mine x.1 && x.2.loads.any (fun l => l.reqs.any (fun q => q.sp == .mem && w.holds q.addr)))
  || (s.core c).cmds.any (fun e => match e.2 with
      | some x => x.parts.any (fun p => match p.phys with | some a => w.frames.any (fun f => overlap a p.len f.1 (pageBytes f.2)) | none => false)
      | none => false)

def execSweepAcknowledge (vf core : Nat) (s : State) : Host.Outcome State Fault Refusal :=
  .next (match (s.vf vf).sweeps.find? (fun w => w.unacked.contains core && !w.todo.contains core) with
    | none => s
    | some w =>
      if s.sweepBusy core w then s
      else (s.modVf vf (fun f => { f with sweeps := f.sweeps.map (fun x => if x == w then { x with unacked := x.unacked.filter (· != core) } else x) })).endSweeps vf)

end Sys2Proof.Machine
end

