-- ==== Sys2Proof/Machine/OrderEv.lean ====
section
/-! DEFINITION. The events of ordering: claims evaluated at their homes (R80, R92 to R94, R105), verdicts (R95, R96), load write-back (R60, R103), drains and their acknowledgements (R115, R116), slot status changes (R91), purges (R109), rewrites (R111). -/

namespace Sys2Proof.Machine

/-- The n-th entry of a list taken off. -/
def dropNth {α : Type} (xs : List α) (n : Nat) : List α := xs.take n ++ xs.drop (n + 1)

/-! ## CLAIM (R93, R94) -/

/-- The lanes of a load whose granule's claim has just been evaluated take their values (R105). -/
def State.takeLanes (s : State) (c : Claim) : State :=
  s.modWave c.ident (fun w => { w with loads := w.loads.map (fun l =>
    if l.id == c.op && !l.acq then
      let hit := fun (q : LoadReq) => !q.remote && granule q.sp q.addr == c.gran
      { l with got := l.got ++ (l.reqs.filter hit).map (s.take c.ident l.size l.signed), reqs := l.reqs.filter (fun q => !hit q) }
    else l) })

/-- A claim reaches its home: it waits there while a status change of its identity is on its way to that home (R91) or while there is no room for its record (R80); else its verdict sets out. -/
def execClaim (n : Nat) (s : State) : Host.Outcome State Fault Refusal :=
  .next (match s.claims[n]? with
    | none => s
    | some c =>
      if !s.claimReady [c] || (s.claims.take n).any (fun d => d.gran == c.gran && d.ident == c.ident) then s
      else
        let s := State.takeLanes { s with claims := dropNth s.claims n } c
        let (s, r) := s.evaluate c
        { s with verdicts := s.verdicts ++ [⟨c, r⟩] })

/-! ## VERDICT_RETURN (R95, R96) -/

/-- STC falls once every claim of a store has drawn a clear verdict (R103). -/
def State.clearStore (s : State) (c : Claim) : State :=
  if c.kind != .write || c.op < 2 || s.claims.any (fun d => d.ident == c.ident && d.op == c.op) || s.verdicts.any (fun d => d.claim.ident == c.ident && d.claim.op == c.op) then s
  else s.modWave c.ident (fun w => { w with stc := w.stc - 1 })

/-- A race verdict of the current pass: MMRACE in serial mode, else the rollback and the replay in serial mode. -/
def State.raced (s : State) (c : Claim) (r : Race) : State :=
  let w := s.wave c.ident
  if c.op = 0 then s
  else if w.serial then s.raise c.ident (raceTrap [(c, r)] w.rgn.serial)
  else s.replay c.ident

/-- The verdicts of an access in serial mode that waited for record space come to its wave together, since it waits for all of them (R95): MMRACE names every lane that drew a race (R96); the read of a descriptor outside serial mode rolls back and replays (R336). -/
def State.serialVerdicts (s : State) (id : Nat) : State :=
  let mine := fun (v : Verdict) => v.claim.ident == id && v.claim.op == 1
  if s.claims.any (fun c => c.ident == id && c.op == 1) then s
  else
    let xs := (s.verdicts.filter mine).filterMap (fun v => v.race.map (fun r => (v.claim, r)))
    let s := { s with verdicts := s.verdicts.filter (fun v => !mine v) }
    let w := s.wave id
    if xs.isEmpty then s else if w.serial then s.raise id (raceTrap xs (w.rgn.serial && !w.rgn.lead)) else s.replay id

def execVerdictReturn (n : Nat) (s : State) : Host.Outcome State Fault Refusal :=
  .next (match s.verdicts[n]? with
    | none => s
    | some v =>
      if v.claim.op = 1 then s.serialVerdicts v.claim.ident
      else
      let s := { s with verdicts := dropNth s.verdicts n }
      match v.race with
      | none => s.clearStore v.claim
      | some r => s.raced v.claim r)

/-- The cycles of 1 ms (R2). -/
def msCycles : Nat := 1400000

/-- CLAIM_SPACE_TIMEOUT (R80): a claim that has waited 1 ms for room is a trap with CAPACITY; one of a discarded pass is dropped. -/
def execClaimSpaceTimeout (n : Nat) (s : State) : Host.Outcome State Fault Refusal :=
  .next (match s.claims[n]? with
    | none => s
    | some c =>
      if s.room c.gran || s.cycle < c.since + msCycles then s
      else
        let s := { s with claims := dropNth s.claims n }
        if c.op = 0 then s
        else s.raise c.ident { cause := 0x08, lanes := c.lanes, detail := BitVec.ofNat 64 (3 * 2 ^ 29 + 1), addr := c.addr })

/-! ## LOAD_WRITEBACK (R60, R103, R314) -/

/-- The live-ins that Graze holds for an execution take a load that was issued before its opening marker and passed it outstanding (R100, R371, R377, R382). -/
def State.lateLive (s : State) (id : Nat) (l : PendLoad) : State :=
  let put := fun (r : Regs) => (writeLoad l.dst l.size l.scalar l.got { ({} : Wave) with regs := r }).regs
  let cs := if l.size = 8 && !l.scalar then [l.dst, l.dst + 1] else [l.dst]
  let live := fun (x : List Nat × Option Nat) (b : Nat × GLive) =>
    (b.1, { b.2 with v := (x.1.zip b.2.v).map (fun y => if cs.contains y.1 && l.got.any (fun q => q.lane == b.1) then regWord (put {}) y.1 b.1 else y.2),
                     s := match x.2 with | some c => if cs.contains c then mget 0 (put {}).s (c - 256) else b.2.s | none => b.2.s })
  let s := s.modWave id (fun w => { w with gz := { w.gz with
    entry := if l.id < w.gz.since then w.gz.entry.map (fun e => (e.1, put e.2)) else w.gz.entry,
    buf := if l.id < w.gz.bufAt then w.gz.buf.map (live w.gz.bufIn) else w.gz.buf } })
  { s with hurdles := s.hurdles.map (fun h => if h.ident == id && l.id < h.since then { h with entry := put h.entry } else h) }

def execLoadWriteback (slot id : Nat) (s : State) : Host.Outcome State Fault Refusal :=
  .next (match (s.wave slot).loads.find? (fun l => l.id == id && !l.acq) with
    | none => s
    | some l =>
      if !l.reqs.isEmpty then s
      else (s.modWave slot (fun w => { (writeLoad l.dst l.size l.scalar l.got w) with ldc := w.ldc - 1, loads := w.loads.filter (fun x => x.id != id) })).lateLive slot l)

/-! ## Drains (R115, R116) -/

/-- LINE_DRAIN: a line of a release is written at its home, which then owes its acknowledgement, or sent to its endpoint. -/
def execLineDrain (n : Nat) (s : State) : Host.Outcome State Fault Refusal :=
  .next (match s.drains[n]? with
    | none => s
    | some d =>
      if isFabric d.base then
        if s.fabHeld d.base then s
        else
          let (s, es) := State.takeLine { s with drains := dropNth s.drains n } d.ident d.unit d.base
          es.foldl (fun (s : State) e => s.fabSend d.ident .drain d.base e.va false (e.data.filterMap (fun b => b.2.map (fun v => (b.1, v))))) s
      else
        let (s, es) := State.takeLine { s with drains := dropNth s.drains n, acks := s.acks ++ [d] } d.ident d.unit d.base
        s.performLine d.unit es)

def execDrainAcknowledge (n : Nat) (s : State) : Host.Outcome State Fault Refusal := .next { s with acks := dropNth s.acks n }

/-! ## Slot status, purges, rewrites -/

/-- SLOT_STATUS_CHANGE (R91): the changes of an identity reach a die in their order. -/
def execSlotStatusChange (n : Nat) (s : State) : Host.Outcome State Fault Refusal :=
  .next (match s.changes[n]? with
    | none => s
    | some c =>
      if (s.changes.take n).any (fun d => d.ident == c.ident && d.die == c.die) then s
      else (State.setEntry { s with changes := dropNth s.changes n } c.die c.ident c.entry).freeRecs c.die c.ident)

/-- RECORD_PURGE: the records of an identity that is being rewritten are purged after the rewrite, so that those of the wave that moved on are spared (R109, R111); with the last purge of a killed unit whose non-restartable flag is set its launch's counter falls (R109). -/
def execRecordPurge (n : Nat) (s : State) : Host.Outcome State Fault Refusal :=
  .next (match s.purges[n]? with
    | none => s
    | some p =>
      if s.rewrites.contains p.ident then s
      else
      let s := State.purge { s with purges := dropNth s.purges n } p
      match p.launch with
      | some x => if s.purges.any (fun q => q.launch == some x) then s else s.lowerLaunch x.1
      | none => s)

def execRecordRewriteComplete (identity : Nat) (s : State) : Host.Outcome State Fault Refusal :=
  .next (if s.rewrites.contains identity then s.rewriteRecords identity else s)

end Sys2Proof.Machine
end

