-- ==== Sys2Proof/Machine/EngineEv.lean ====
section
/-! DEFINITION. The events of the engines: a command starts (R130, R360), a copy or a collective completes (R127, R128, R132, R338, R340, R346, R348, R353), a tile task starts and completes (R214, R215, R358 to R361), an epilogue completes (R363), a bank request is granted (R71), a collective times out (R353). -/

namespace Sys2Proof.Machine

/-! ## Starting (R130) -/

/-- Whether a command that is no tile task may start. -/
def Core.startable (x : Core) (k : Nat) : Bool :=
  match mget none x.cmds k with
  | some c => c.phase == 1 && c.kind != .tile && !x.blocked k
  | none => false

def execCommandStart (core cmd : Nat) (s : State) : Host.Outcome State Fault Refusal :=
  let x := s.core core
  .next (match s.cmd core cmd with
    | none => s
    | some c =>
      if x.startable cmd && !x.heldBack cmd c then s.startCmd core cmd else s)

/-! ## What a command reads and writes -/

/-- The part of a command that holds an address. -/
def Cmd.partAt (x : Cmd) (write : Bool) (va : Nat) : Option Part := x.parts.find? (fun p => p.write == write && (va + 2 ^ 64 - p.va % 2 ^ 64) % 2 ^ 64 < p.len)

/-- The access that byte va of a memory range comes to, or the cause that its page has (R129), with the address. -/
def Cmd.place (x : Cmd) (write : Bool) (va : Nat) : Except (Nat × Nat) Acc :=
  match x.partAt write va with
  | none => .error (6, va)
  | some p => match p.phys with
    | some a => .ok ⟨0, va, .mem, a + (va + 2 ^ 64 - p.va % 2 ^ 64) % 2 ^ 64, false, false⟩
    | none => .error (p.cause, va)

/-- A byte of the unit's scratchpad. -/
def spadAcc (c : Nat) (r : UnitR) (off : Nat) : Acc := ⟨0, off, .spad c, r.spad0 + off, false, false⟩

/-- Whether an access lies in a bound buffer, where nothing is claimed (R341). -/
def Acc.bound (r : UnitR) (a : Acc) : Bool := match a.sp with | .spad _ => overlapsBuffer r none a.va (a.va + 1) | .mem => false

/-- A byte that a command reads: poison stops it, a fabric line must have come (R338). -/
def State.cmdByte (s : State) (x : Cmd) (a : Acc) : Except (Nat × Nat) Byte :=
  if a.sp == .mem && isFabric a.pa then
    match mget none x.lines (a.pa / 64) with
    | some l => .ok (l.getD (a.pa % 64) 0)
    | none => .error (if x.err = 0 then 0x14 else x.err, a.va)
  else if s.poisoned a.sp a.pa 1 then .error (0x0A, a.va)
  else .ok (s.loadByte x.ident none a.sp a.pa)

/-- Several steps that may stop. -/
def allOk {α β ε : Type} (f : α → Except ε β) : List α → Except ε (List β)
  | [] => .ok []
  | a :: r => match f a with
    | .error e => .error e
    | .ok b => match allOk f r with
      | .error e => .error e
      | .ok bs => .ok (b :: bs)

/-- What a transfer comes to: the reads and writes that nothing stops, whether it set BOVR, what stops the others, with the address. -/
structure Plan where
  reads : List Acc := []
  writes : List (Acc × Byte) := []
  bovr : Bool := false
  stops : List (Nat × Nat) := []
  deriving DecidableEq, Repr

/-- Whether something stops a transfer. -/
def Plan.stop (p : Plan) : Option (Nat × Nat) := p.stops.head?

/-- A plan with some bytes more: where they are read, where they go, and the bytes. -/
def Plan.add (p : Plan) (bovr : Bool) (xs : Except (Nat × Nat) (List Acc × List (Acc × Byte))) : Plan :=
  match xs with
  | .error t => { p with stops := p.stops ++ [t] }
  | .ok x => { p with reads := p.reads ++ x.1, writes := p.writes ++ x.2, bovr := p.bovr || bovr }

/-- What a command that ends early has written: some of the bytes that nothing stops (R127, R338; log 91). -/
def early (n : Nat) (ws : List (Acc × Byte)) (room : Nat) : List (Acc × Byte) :=
  pickSome n (orderFree n 0 % (min room ws.length + 1)) ws.length ws

/-- The bytes that have been written where a claim met a race: none in its granule (R127). -/
def besides (races : List (Claim × Race)) (ws : List (Acc × Byte)) : List (Acc × Byte) :=
  ws.filter (fun w => !races.any (fun r => r.1.gran == granule w.1.sp w.1.pa))

/-- The bytes of some accesses. -/
def State.cmdBytes (s : State) (x : Cmd) (as : List Acc) : Except (Nat × Nat) (List Byte) := allOk (s.cmdByte x) as

/-- Reading from and writing to given places. -/
def State.moveBytes (s : State) (x : Cmd) (src dst : Except (Nat × Nat) (List Acc)) : Except (Nat × Nat) (List Acc × List (Acc × Byte)) :=
  match src with
  | .error t => .error t
  | .ok as => match s.cmdBytes x as with
    | .error t => .error t
    | .ok bs => match dst with
      | .error t => .error t
      | .ok ds => .ok (as, ds.zip bs)

/-- Bytes written to given places. -/
def fillBytes (bs : List Byte) (dst : Except (Nat × Nat) (List Acc)) : Except (Nat × Nat) (List Acc × List (Acc × Byte)) :=
  match dst with
  | .error t => .error t
  | .ok ds => .ok ([], ds.zip bs)

/-! ## Copies (R346) -/

/-- The places that n bytes of memory from an address have. -/
def Cmd.places (x : Cmd) (write : Bool) (va n : Nat) : Except (Nat × Nat) (List Acc) :=
  allOk (fun i => x.place write ((va + i) % 2 ^ 64)) (List.range n)

/-- The source of an element. -/
def Cmd.elemSrc (x : Cmd) (c : Nat) (r : UnitR) (a : Int) : Except (Nat × Nat) (List Acc) :=
  if cdSrcSp x.desc = 0 then x.places false (a % 2 ^ 64).toNat (cdE x.desc)
  else .ok ((List.range (cdE x.desc)).map (fun i => spadAcc c r (a.toNat + i)))

/-- The destination of an element. -/
def Cmd.elemDst (x : Cmd) (c : Nat) (r : UnitR) (e : CElem) : Except (Nat × Nat) (List Acc) :=
  if cdDstSp x.desc = 0 then allOk (fun i => x.place true (copyDest x.desc e.row (e.off + i))) (List.range (cdE x.desc))
  else .ok ((List.range (cdE x.desc)).map (fun i => spadAcc c r (copyDest x.desc e.row (e.off + i))))

/-- A copy's transfer. -/
def State.copyPlan (s : State) (c : Nat) (r : UnitR) (x : Cmd) : Plan :=
  (copyElems x.desc).foldl (fun p e =>
    p.add e.bovr (match e.src with
      | some a => s.moveBytes x (x.elemSrc c r a) (x.elemDst c r e)
      | none => fillBytes (toBytes (cdFill x.desc) (cdE x.desc)) (x.elemDst c r e))) {}

/-! ## Collectives (R353) -/

/-- The place of byte i of rank k's source that this member reads: its own memory, or the peer's window. -/
def Cmd.rankByte (x : Cmd) (g k i : Nat) : Except (Nat × Nat) Acc :=
  let o := (clReads x.desc g).2.1
  if k = cgRank g then x.place false ((clSrc x.desc + o + i) % 2 ^ 64)
  else .ok ⟨0, 0, .mem, 2 ^ 51 + (cgWin g + k) * 2 ^ 40 + (clSrc x.desc - cgBase g) + o + i, false, false⟩

/-- The elements of one rank. -/
def State.rankData (s : State) (x : Cmd) (g k : Nat) : Except (Nat × Nat) (List Acc × List Nat) :=
  let sz := clSize x.desc
  match allOk (fun i => x.rankByte g k i) (List.range (clReads x.desc g).2.2) with
  | .error t => .error t
  | .ok as => match s.cmdBytes x as with
    | .error t => .error t
    | .ok bs => .ok (as.filter (fun _ => k == cgRank g), (List.range (clCount x.desc)).map (fun i => fld bs (i * sz) sz))

/-- A collective's transfer. -/
def State.collPlan (s : State) (x : Cmd) : Plan :=
  let g := x.args.getD 0 0
  let sz := clSize x.desc
  match allOk (s.rankData x g) (clReads x.desc g).1 with
  | .error t => { stops := [t] }
  | .ok ds =>
    let elems : List Nat :=
      if clOp x.desc ≤ 1 then ds.flatMap (·.2)
      else (List.range (clCount x.desc)).map (fun i => clElem x.desc (2 ^ 232 + 2 ^ 64 * s.fresh) (ds.map (fun y => y.2.getD i 0)))
    (elems.zipIdx).foldl (fun p e => p.add false (fillBytes (toBytes e.1 sz) (x.places true (clDst x.desc + sz * e.2) sz))) { reads := ds.flatMap (·.1) }

/-! ## Performing and completing a transfer -/

/-- Bytes performed at their homes and in the scratchpad, and sent to their endpoints (R116, R127). -/
def State.performBytes (s : State) (c k : Nat) (x : Cmd) (ws : List (Acc × Byte)) : State :=
  let put := fun (m : SMap (Option Byte)) (w : Acc × Byte) => mput m (w.1.pa % 64) (some w.2)
  let mems := ws.filter (fun w => w.1.sp == Space.mem)
  let spads := ws.filter (fun w => w.1.sp != Space.mem)
  let s := ((mems.map (fun w => w.1.pa / 64)).eraseDups).foldl (fun (s : State) l =>
    let d := (mems.filter (fun w => w.1.pa / 64 == l)).foldl put []
    if isFabric (64 * l) then s.fabSend x.ident (.cmd c k) (64 * l) 0 false (d.filterMap (fun b => b.2.map (fun v => (b.1, v))))
    else s.performLine x.unit [{ sp := .mem, base := 64 * l, data := d, ident := 16384, pub := false }]) s
  ((spads.map (fun w => w.1.pa / 32)).eraseDups).foldl (fun (s : State) g =>
    let d := (spads.filter (fun w => w.1.pa / 32 == g)).foldl (fun m w => mput m (w.1.pa % 32) (some w.2)) []
    s.stage2 x.unit { sp := .spad c, base := 32 * g, data := d, ident := x.ident, pub := false }) s

/-- The claims of a transfer (R127): reads, then writes; none in bound buffers. -/
def State.planClaims (s : State) (r : UnitR) (x : Cmd) (reads writes : List Acc) : List Claim :=
  Machine.claimsOf x.ident x.interval 0 s.cycle .read false (reads.filter (fun a => !a.bound r)) ++ Machine.claimsOf x.ident x.interval 0 s.cycle .write false (writes.filter (fun a => !a.bound r))

/-- A command that has ended leaves its table and its locks, and its counter falls (R132). -/
def State.endCmd (s : State) (c k : Nat) (x : Cmd) : State :=
  let s := (s.modCore c (fun y => (y.unlock k).advanceGen k)).setCmd c k none
  s.modWave x.ident (fun w =>
    if w.st == .empty || w.unit != x.unit then w
    else if k < 128 then { w with cpc := w.cpc - 1 } else { w with ttc := w.ttc - 1 })

/-- Whether a copy or a collective asks for a record. -/
def Cmd.notify (x : Cmd) : Bool :=
  match x.kind with
  | .copy => cdNotify x.desc
  | .coll => clNotify x.desc
  | .tile => fbNotify x.desc
  | .aep => edNotify x.desc

/-- The end of a copy or a collective (R132, R338, R340, R348): n bytes written, the status. -/
def State.finishCopy (s : State) (c k n : Nat) (bovr : Bool) (status : Nat) (x : Cmd) : State :=
  let s := s.endCmd c k x
  let s := s.modHandle x.unit x.handle (fun h =>
    { h with ncmd := h.ncmd - 1, err := h.err || status != 0, ovr := h.ovr || status == 0x0C, bovr := h.bovr || bovr,
             st := if status != 0 && h.st == .filling then .full else h.st })
  if x.notify then s.postEvent c ⟨1, status, x.handle, x.seq.toNat % 2 ^ 32, BitVec.ofNat 64 (n % 2 ^ 40 + cond bovr (2 ^ 63) 0)⟩ else s

/-- Written bytes counted against the handle (R340). -/
def Handle.count (n : Nat) (h : Handle) : Handle := { h with pend := h.pend - n, st := if h.st == .filling && h.pend ≤ n && n != 0 then .full else h.st }

/-- Requests of a command that are not answered. -/
def State.cmdWaits (s : State) (c k : Nat) : Bool := s.reqs.any (fun q => q.use == .cmd c k)

/-- What a transfer writes and how it ends: all its bytes where nothing stops it and the handle takes them; as many as the handle takes where there are more (R340); some where a read or a place stops it (R338). The order in which a copy performs its bytes is not fixed (R346), so that free numbers pick the bytes and, of several stops, the one that is met (log 91). -/
def Plan.outcome (p : Plan) (n room : Nat) : List (Acc × Byte) × Option (Nat × Nat) :=
  let past := decide (room < p.writes.length)
  match p.stops ++ (if past then [(0x0C, 0)] else []) with
  | [] => (p.writes, none)
  | e :: r =>
    let stop := (e :: r).getD (orderFree n 1 % (r.length + 1)) e
    (if stop.1 = 0x0C then pickSome n room p.writes.length p.writes else early n p.writes room, some stop)

/-- Whether a transfer that ends early has set BOVR. -/
def Plan.setsBovr (p : Plan) (n : Nat) (stop : Option (Nat × Nat)) : Bool := p.bovr && (stop.isNone || orderFree n 2 % 2 == 1)

/-- A started transfer carried out: the claims, the bytes that the handle still takes, the end (R338). -/
def State.transfer (s : State) (c k : Nat) (r : UnitR) (x : Cmd) (p : Plan) : State :=
  let h := State.handle r x.handle
  let n := s.fresh
  let (ws, stop) := p.outcome n (if h.st == .filling then h.pend else 0)
  let bovr := p.setsBovr n stop
  let cs := s.planClaims r x p.reads (ws.map (·.1))
  if !s.claimReady cs || ws.any (fun w => w.1.sp == Space.mem && isFabric w.1.pa && s.fabHeld w.1.pa) then s
  else
    let (s, races) := s.tick.claimNow cs
    if !races.isEmpty then (s.performBytes c k x (besides races (early n ws ws.length))).faultUnit x.unit (s.cmdBlame x) (raceTrap races false)
    else
      let s := (s.performBytes c k x ws).modHandle x.unit x.handle (Handle.count ws.length)
      match stop with
      | some (t, a) =>
        if t % 256 = 7 then s.faultUnit x.unit (s.cmdBlame x) { cause := 7, detail := BitVec.ofNat 64 (t / 256), addr := BitVec.ofNat 64 a }
        else if s.cmdWaits c k then s.setCmd c k (some { x with phase := 3, args := [ws.length, cond bovr 1 0], err := t })
        else s.finishCopy c k ws.length bovr t x
      | none =>
        if s.cmdWaits c k then s.setCmd c k (some { x with phase := 3, args := [ws.length, cond bovr 1 0], err := 0 })
        else s.finishCopy c k ws.length bovr 0 x

/-- The time that the members of a collective have to join, from the first of them on (R353). -/
def joinCycles : Nat := 1000 * msCycles
/-- Whether every member has joined, in time. -/
def Cmd.joined (x : Cmd) (now : Nat) : Bool := decide (x.join ≤ now) && decide (x.join ≤ x.first + joinCycles)

/-- COPY_COMPLETE: of a copy or a collective that has started and has what it asked the fabric for, a collective once every member has joined; members that disagree complete in error (R353). -/
def execCopyComplete (core cmd : Nat) (s : State) : Host.Outcome State Fault Refusal :=
  .next (match s.cmd core cmd with
    | none => s
    | some x => match s.unit x.unit with
      | none => s
      | some r =>
        if (x.kind != .copy && x.kind != .coll) || x.phase < 2 || s.cmdWaits core cmd || (x.kind == .coll && x.phase == 2 && !x.joined s.cycle) then s
        else if x.phase = 3 then s.finishCopy core cmd (x.args.getD 0 0) (x.args.getD 1 0 == 1) x.err x
        else if x.kind == .copy then s.transfer core cmd r x (s.copyPlan core r x)
        else s.tick.transfer core cmd r x (if x.err != 0 then { stops := [(x.err, 0)] } else if x.odd then { stops := [(0x14, 0)] } else s.collPlan x))

/-- COLLECTIVE_TIMEOUT (R353): some member has not joined within 1 s of the first. -/
def execCollectiveTimeout (core cmd : Nat) (s : State) : Host.Outcome State Fault Refusal :=
  .next (match s.cmd core cmd with
    | none => s
    | some x =>
      if x.kind != .coll || x.phase != 2 || s.cycle < x.first + joinCycles || x.join ≤ x.first + joinCycles then s
      else State.finishCopy { s with reqs := s.reqs.filter (fun q => q.use != .cmd core cmd) } core cmd 0 false 0x14 x)

/-! ## Tile tasks (R358 to R361) -/

/-- Whether the fill that gates a task has reached DRAINING (R360). -/
def gateOpen (r : UnitR) (x : Cmd) : Bool :=
  match x.gate with
  | none => true
  | some (h, f) => (State.handle r h).fill == f && (State.handle r h).st == .draining

/-- The tile tasks of a core that are running; a core has four engines (R75). -/
def Core.running (x : Core) : Nat := (x.cmds.filter (fun e => match e.2 with | some c => c.kind == .tile && 2 ≤ c.phase | none => false)).length

/-- UEPOISON of an engine's read (R396): 5 scratchpad, 6 accumulator memory, 7 a memory line. -/
def engPoison (struct addr : Nat) : Trap := { cause := 0x0A, detail := BitVec.ofNat 64 (6 + 16 * struct), addr := BitVec.ofNat 64 addr }

/-- The fault that kills a unit for a stop of its tile command (R338). -/
def stopTrap (sp : Space) (t : Nat × Nat) : Trap :=
  if t.1 % 256 = 7 then { cause := 7, detail := BitVec.ofNat 64 (t.1 / 256), addr := BitVec.ofNat 64 t.2 }
  else if t.1 = 0x0A then engPoison (match sp with | .mem => 7 | .spad _ => 5) t.2
  else if t.1 = 0x14 then { cause := 0x14, detail := 1, addr := BitVec.ofNat 64 t.2 }
  else { cause := 0x06, addr := BitVec.ofNat 64 t.2 }

/-- The places of a task's scales, side A then side B. -/
def Cmd.scalePlaces (x : Cmd) (c : Nat) (r : UnitR) : Except (Nat × Nat) (List Acc) :=
  allOk (fun (y : Nat × Nat) =>
    let a := fbScale x.desc y.1 + y.2
    if fbScsp x.desc then .ok (spadAcc c r a) else x.place false (a % 2 ^ 64))
    (([0, 1] : List Nat).flatMap (fun k => (List.range (fbScales x.desc k)).map (fun i => (k, i))))

/-- A task starts: its scales are read, its gate counts it. -/
def State.startTile (s : State) (c k : Nat) (r : UnitR) (x : Cmd) (as : List Acc) : State :=
  let cs := s.planClaims r x as []
  if !s.claimReady cs then s
  else
    let (s, races) := s.claimNow cs
    if !races.isEmpty then s.faultUnit x.unit (s.cmdBlame x) (raceTrap races false)
    else match s.cmdBytes x as with
      | .error t => s.faultUnit x.unit (s.cmdBlame x) (stopTrap (if fbScsp x.desc then .spad c else .mem) t)
      | .ok bs =>
        let s := s.setCmd c k (some { x with phase := 2, scales := bs, since := s.cycle })
        match x.gate with
        | some (h, _) => s.modHandle x.unit h (fun y => { y with ngate := y.ngate + 1 })
        | none => s

def execTileTaskStart (core cmd : Nat) (s : State) : Host.Outcome State Fault Refusal :=
  .next (match s.cmd core cmd with
    | none => s
    | some x => match s.unit x.unit with
      | none => s
      | some r =>
        if x.kind != .tile || x.phase != 1 || (s.core core).blocked cmd || (s.core core).heldBack cmd x || !gateOpen r x || 4 ≤ (s.core core).running || s.cmdWaits core cmd then s
        else
          let need := (partLines x.parts).filter (fun l => mget none x.lines (l / 64) == none)
          if !need.isEmpty then
            (if need.any (fun p => s.fabHeld p || s.lineOut x.ident p) then s else need.foldl (fun (s : State) l => s.fabSend x.ident (.cmd core cmd) l 0 false []) s)
          else match x.scalePlaces core r with
            | .error t => s.faultUnit x.unit (s.cmdBlame x) (stopTrap .mem t)
            | .ok as => s.startTile core cmd r x as)

/-- A word of a task's operand: its snapshot, or scratchpad. -/
def State.tileWord (s : State) (c : Nat) (r : UnitR) (x : Cmd) (side row k : Nat) : W32 × Nat :=
  let a := x.args.drop (1 + 3 * side)
  if a.getD 0 0 = 1 then
    let w := (spOp (a.getD 1 0) (a.getD 2 0)).place x.desc side row k
    (BitVec.ofNat 32 (ofBytes ((List.range 4).map (fun i => s.loadByte x.ident none (.spad c) (r.spad0 + w.1 + i)))), w.2)
  else
    let w := regPlace x.desc side row k
    (mget 0 x.regs (8192 * side + key w.1 w.2.1), w.2.2)

/-- An element of an operand. -/
def State.tileElemAt (s : State) (c : Nat) (r : UnitR) (x : Cmd) (side row k : Nat) : FV :=
  let w := s.tileWord c r x side row k
  let f := fbFmt x.desc side
  toExact f false (bits w.1.toNat (f.width * w.2) f.width)

/-- A scale of an operand: 127 where it has none. -/
def Cmd.scaleAt (x : Cmd) (side row k : Nat) : Nat :=
  let l := fbLen x.desc side
  if l = 0 then 127
  else (x.scales.getD ((if side = 0 then 0 else fbScales x.desc 0) + row * (fbK x.desc / l) + k / l) 0).toNat

/-- The scratchpad bytes that a task's operands lie in. -/
def Cmd.tileReads (x : Cmd) (c : Nat) (r : UnitR) : List Acc :=
  ([0, 1] : List Nat).flatMap (fun side =>
    let a := x.args.drop (1 + 3 * side)
    if a.getD 0 0 = 1 then
      (List.range 64).flatMap (fun row => (List.range (fbK x.desc / fbE x.desc side)).map (fun j =>
        spadAcc c r ((spOp (a.getD 1 0) (a.getD 2 0)).place x.desc side row (j * fbE x.desc side)).1))
    else [])

/-- The whole product folded into the tile (R214): the new words, whether a run saturated, whether a NaN was written. -/
def State.tileProduct (s : State) (c : Nat) (r : UnitR) (x : Cmd) (p : Nat) : List W32 × Bool × Bool :=
  (List.range 4096).foldl (fun (o : List W32 × Bool × Bool) i =>
    let m := i / 64
    let n := i % 64
    let y := tileElem (fbK x.desc) (mget 0 (s.core c).acc (4096 * p + i)).toNat (s.tileElemAt c r x 0 m) (s.tileElemAt c r x 1 n) (x.scaleAt 0 m) (x.scaleAt 1 n)
    (o.1 ++ [BitVec.ofNat 32 y.1], o.2.1 || y.2.1, o.2.2 || y.2.2)) ([], false, false)

/-- The ticket of a table entry (R360). -/
def Core.ticket (x : Core) (k : Nat) : Nat := (mget 0 x.gens k * 32 + (k - 128)) % 65536

/-- The end of a tile task or an epilogue: locks, entry, TTC, gate, record (R132, R360, R176). -/
def State.finishTile (s : State) (c k : Nat) (x : Cmd) : State :=
  let t := (s.core c).ticket k
  let s := s.endCmd c k x
  let s := match x.gate with
    | some (h, _) => s.modHandle x.unit h (fun y => { y with ngate := y.ngate - 1 })
    | none => s
  if x.notify then s.postEvent c ⟨2, 0, t, x.seq.toNat % 2 ^ 32, 0⟩ else s

/-- Whether a word of a tile is poisoned. -/
def Core.tilePoison (x : Core) (p : Nat) : Option Nat := (x.accPoison.find? (fun e => e.1 / 4096 == p)).map (fun e => e.1 % 4096)

/-- A task carried out (R214, R215, R361, R366). -/
def State.runTile (s : State) (c k : Nat) (r : UnitR) (x : Cmd) : State :=
  let t := x.args.getD 0 0
  let p := r.tileOf t
  let as := x.tileReads c r
  let cs := s.planClaims r x as []
  if !s.claimReady cs then s
  else
    let (s, races) := s.claimNow cs
    if !races.isEmpty then s.faultUnit x.unit (s.cmdBlame x) (raceTrap races false)
    else match as.find? (fun a => s.poisoned a.sp a.pa 4), (s.core c).tilePoison p with
      | some a, _ => s.faultUnit x.unit (s.cmdBlame x) (engPoison 5 a.va)
      | none, some i => s.faultUnit x.unit (s.cmdBlame x) (engPoison 6 (t + 4 * i))
      | none, none =>
        let y := s.tileProduct c r x p
        let s := s.modCore c (fun z => { z with
          acc := y.1.zipIdx.foldl (fun m w => mset 0 m (4096 * p + w.2) w.1) z.acc,
          accTaint := if x.taint then mset false z.accTaint p true else z.accTaint })
        let s := s.modUnit x.unit (fun r => { r with accstat := r.accstat ||| BitVec.ofNat 64 (cond y.2.1 1 0 + cond y.2.2 2 0) })
        s.finishTile c k x

def execTileTaskComplete (core cmd : Nat) (s : State) : Host.Outcome State Fault Refusal :=
  .next (match s.cmd core cmd with
    | none => s
    | some x => match s.unit x.unit with
      | none => s
      | some r => if x.kind != .tile || x.phase != 2 then s else s.runTile core cmd r x)

/-! ## Epilogues (R363) -/

/-- The bytes of an output row. -/
def State.edBytes (s : State) (c : Nat) (x : Cmd) (p m : Nat) : List Byte :=
  packRow (edFmt x.desc).width ((List.range 64).map (fun n => edElem x.desc x.nmode (mget 0 (s.core c).acc (4096 * p + 64 * m + n)).toNat n))

/-- The places of an output row. -/
def Cmd.edPlaces (x : Cmd) (c : Nat) (r : UnitR) (m : Nat) : Except (Nat × Nat) (List Acc) :=
  let dst := x.args.getD 1 0
  if edSpace x.desc = 0 then x.places true (dst + m * edPitch x.desc) (edRow x.desc)
  else .ok ((List.range (edRow x.desc)).map (fun y => spadAcc c r (rotOff dst (edPitch x.desc) (edCode x.desc) m (y / 4) + y % 4)))

/-- An epilogue's rows in their order. -/
def State.edPlan (s : State) (c : Nat) (r : UnitR) (x : Cmd) (p : Nat) : Plan :=
  (List.range 64).foldl (fun pl m => pl.add false (fillBytes (s.edBytes c x p m) (x.edPlaces c r m))) {}

/-- An epilogue carried out. -/
def State.runAep (s : State) (c k : Nat) (r : UnitR) (x : Cmd) : State :=
  let t := x.args.getD 0 0
  let p := r.tileOf t
  match (s.core c).tilePoison p with
  | some i => s.faultUnit x.unit (s.cmdBlame x) (engPoison 6 (t + 4 * i))
  | none =>
    let pl := s.edPlan c r x p
    match pl.stop with
    | some e => (s.tick.performBytes c k x (early s.fresh pl.writes pl.writes.length)).faultUnit x.unit (s.cmdBlame x) (stopTrap .mem (pl.stops.getD (orderFree s.fresh 1 % pl.stops.length) e))
    | none =>
      let cs := s.planClaims r x [] (pl.writes.map (·.1))
      if !s.claimReady cs || pl.writes.any (fun w => w.1.sp == Space.mem && isFabric w.1.pa && s.fabHeld w.1.pa) then s
      else
        let n := s.fresh
        let (s, races) := s.tick.claimNow cs
        if !races.isEmpty then (s.performBytes c k x (besides races (early n pl.writes pl.writes.length))).faultUnit x.unit (s.cmdBlame x) (raceTrap races false)
        else
          let s := s.performBytes c k x pl.writes
          let s := if edClear x.desc then s.modCore c (fun y => y.zeroTile p) else s
          if s.cmdWaits c k then s.setCmd c k (some { x with phase := 3 }) else s.finishTile c k x

def execAepComplete (core cmd : Nat) (s : State) : Host.Outcome State Fault Refusal :=
  .next (match s.cmd core cmd with
    | none => s
    | some x => match s.unit x.unit with
      | none => s
      | some r =>
        if x.kind != .aep || x.phase < 2 || s.cmdWaits core cmd then s
        else if x.phase = 3 then s.finishTile core cmd x
        else s.runAep core cmd r x)

/-- AALLOC_GRANT (R71). -/
def execAallocGrant (core : Nat) (s : State) : Host.Outcome State Fault Refusal := .next (s.grant core)

end Sys2Proof.Machine
end

