-- ==== Sys2Proof/Machine/Sched.lean ====
section
/-! DEFINITION. From launch to issue slot: the host work queues and the launch records (R182 to R187), placement (R157, R158, R188, R189, R194, R437), control programs (R175), the back-off, yield and starvation rules (R173, R198, R258), barriers (R161), pre-emption requests (R429), event records (R177), kills (R393). -/

namespace Sys2Proof.Machine

/-! ## Issue states -/

/-- STARVATION_PROMOTION: a READY wave that has not issued for 4,096 cycles issues before every other (R173). -/
def execStarvationPromotion (slot : Nat) (s : State) : Host.Outcome State Fault Refusal :=
  let w := s.wave slot
  .next (if w.st == .ready && !w.halt && decide (w.lastIssue + 4096 ≤ s.cycle) then { s with agenda := .issue slot :: s.agenda } else s)

/-- PARK_EXPIRY: the park ends (R198). -/
def execParkExpiry (slot : Nat) (s : State) : Host.Outcome State Fault Refusal :=
  let w := s.wave slot
  .next (if w.st == .parked && decide (w.parkEnd ≤ s.cycle) then s.setWave slot { w with st := .ready } else s)

/-- YIELD_EXPIRY: 64 cycles after the yield (R258). -/
def execYieldExpiry (slot : Nat) (s : State) : Host.Outcome State Fault Refusal :=
  let w := s.wave slot
  .next (match w.yielded with
    | some t => if t + 64 ≤ s.cycle then s.setWave slot { w with yielded := none } else s
    | none => s)

/-! ## Barriers (R161, R324) -/

/-- Whether every wave of a unit that has not exited has arrived. -/
def State.allArrived (s : State) (u : Nat) (r : UnitR) : Bool :=
  let ids := s.liveSlots u r
  !ids.isEmpty && ids.all (fun id => r.bar.mask.testBit (s.wave id).widx)

/-- The units of a launch that lie on a die, the saved ones on the die of their last core (R162). -/
def State.unitsOn (s : State) (l d : Nat) : List UnitR :=
  (s.units.filterMap (fun (x : Nat × Option UnitR) => match x.2 with | some r => if r.task.launch == l && dieOfCore (x.1 / 16) == d then some r else none | none => none))
  ++ (s.saved.filter (fun x => x.back.isNone && x.unit.task.launch == l && dieOfCore x.core == d)).map (·.unit)

/-- Whether every unit of a launch on a die has sent its arrival at a level. -/
def State.dieComplete (s : State) (l d lvl : Nat) : Bool :=
  let us := s.unitsOn l d
  !us.isEmpty && us.all (fun r => r.bar.sent && r.bar.level == lvl)

/-- BARRIER_ARRIVAL_UP: of the unit, and then of its die at .k. -/
def execBarrierArrivalUp (unit : Nat) (s : State) : Host.Outcome State Fault Refusal :=
  .next (match s.unit unit with
    | none => s
    | some r =>
      let d := dieOfCore (unit / 16)
      let l := r.task.launch
      if !r.bar.sent then
        if 2 ≤ r.bar.level && s.allArrived unit r then s.setUnit unit (some { r with bar := { r.bar with sent := true } }) else s
      else if r.bar.level == 3 && s.dieComplete l d 3 then s.modLaunch l (fun x => { x with dieArr := nsAdd x.dieArr d })
      else s)

/-- The waves of one unit released: each acquires at the barrier's scope and goes on; a unit in save or restore mode notes it (R107, R169). -/
def State.releaseUnitBar (s : State) (u : Nat) (lvl : BarLvl) : State :=
  match s.unit u with
  | none => s
  | some r =>
    if r.area.isSome then s.setUnit u (some { r with barRel := true })
    else
      let s := s.setUnit u (some { r with bar := { gen := !r.bar.gen } })
      (s.liveSlots u r).foldl (fun (s : State) id =>
        if (s.wave id).st == .waiting && (s.wave id).wait == .bar lvl then (s.acquire id (lvlNum lvl + 1)).finishAt id (.bar lvl) (fun w => { w with st := .ready, wait := .none }) else s) s

/-- The barrier of a launch released on the dies of a list, in the saved units too. -/
def State.releaseBar (s : State) (l : Nat) (ds : List Nat) (lvl : BarLvl) : State :=
  let n := lvlNum lvl
  let us := (s.units.filter (fun (x : Nat × Option UnitR) => match x.2 with | some r => r.task.launch == l && r.bar.level == n && ds.contains (dieOfCore (x.1 / 16)) | none => false)).map (·.1)
  let s := us.foldl (fun (s : State) u => s.releaseUnitBar u lvl) s
  let hit := fun (x : SavedUnit) => x.back.isNone && x.unit.task.launch == l && x.unit.bar.level == n && ds.contains (dieOfCore x.core)
  State.modLaunch { s with saved := s.saved.map (fun x => if hit x then { x with unit := { x.unit with barRel := true } } else x) } l (fun x => { x with dieArr := [] })

/-- BARRIER_RELEASE: the generation is complete, and the release reaches every waiting wave. -/
def execBarrierRelease (unit : Nat) (s : State) : Host.Outcome State Fault Refusal :=
  .next (match s.unit unit with
    | none => s
    | some r =>
      let l := r.task.launch
      let d := dieOfCore (unit / 16)
      if r.bar.level == 1 then (if s.allArrived unit r then s.releaseUnitBar unit .u else s)
      else if r.bar.level == 2 then (if s.dieComplete l d 2 then s.releaseBar l [d] .d else s)
      else if r.bar.level == 3 then
        let ds := ([0, 1, 2, 3] : List Nat).filter (fun k => !(s.unitsOn l k).isEmpty)
        (if ds.all (fun k => (((s.launch l).getD {}).dieArr).contains k) then s.releaseBar l ds .k else s)
      else s)

/-! ## Pre-emption, event records, kills -/

/-- A unit asked to be pre-empted: parks end at once (R198); taken at once where it can be, else the request stays, also one that comes in save or restore mode (R429, R431). -/
def State.askPreempt (s : State) (u : Nat) : State :=
  match s.unit u with
  | none => s
  | some r => ((if r.area.isNone then s.unpark (s.liveSlots u r) else s).setUnit u (some { r with preReq := true })).tryPreempt u

/-- PREEMPTION_REQUEST. -/
def execPreemptionRequest (unit : Nat) (s : State) : Host.Outcome State Fault Refusal := .next (s.askPreempt unit)

/-- EVENT_RECORD_DELIVER: the oldest record that waits enters the queue (R177). -/
def execEventRecordDeliver (core : Nat) (s : State) : Host.Outcome State Fault Refusal :=
  .next (s.modCore core (fun x => match x.evWait with
    | r :: rest => if x.evq.length < 256 then { x with evq := x.evq ++ [r], evWait := rest } else x
    | [] => x))

/-- UNIT_KILL: a fault of a wave or of a control program ends it (R393). -/
def execUnitKill (slot cause : Nat) (lanes : W32) (detail addr : W64) (s : State) : Host.Outcome State Fault Refusal :=
  .next (if (s.wave slot).st == .empty then s else s.raise slot ⟨cause, lanes, detail, addr⟩)

/-! ## Heat (R189) -/

/-- The demand charge and the heat increment of a class. -/
def heatD (h : Nat) : Nat := ([0, 10, 25, 50] : List Nat).getD h 0
def heatRise (h : Nat) : Nat := ([0, 1, 2, 4] : List Nat).getD h 0
/-- The three cores beneath a vault (R3, R82), and T (R83). -/
def vaultCores (v : Nat) : List Nat := [48 * (v / 16) + 3 * (v % 16), 48 * (v / 16) + 3 * (v % 16) + 1, 48 * (v / 16) + 3 * (v % 16) + 2]
def State.vaultT (s : State) (v : Nat) : Nat := (vaultCores v).foldl (fun a c => max a (s.core c).temp) 0
/-- The stage of a task. -/
def State.stageOf (s : State) (t : Task) : Stage := (((s.launch t.launch).getD {}).stages).getD t.stage {}
/-- ΣD of a vault. -/
def State.vaultD (s : State) (v : Nat) : Nat :=
  s.units.foldl (fun a (x : Nat × Option UnitR) => match x.2 with | some r => if vaultOf (x.1 / 16) == v then a + heatD (s.stageOf r.task).heat else a | none => a) 0
/-- The bandwidth left for access at a temperature, in GB/s (R83). -/
def refreshLeft (t : Nat) : Nat := if t < 85 then 480 else if t < 95 then 460 else 420

/-- The test of R189: T, ΣD, the floor in percent of peak, the class; Left where it admits. -/
def heatLeft (t d floor h : Nat) : Option Int :=
  let left : Int := (refreshLeft (t + heatRise h) : Int) - ((d + heatD h : Nat) : Int)
  if ((5 * floor : Nat) : Int) ≤ left ∧ t + heatRise h < 105 then some left else none

/-- The test on a core, with d charged beyond its residents. -/
def State.heatOn (s : State) (c h d : Nat) : Option Int :=
  if (s.core c).throttled then none else heatLeft (s.vaultT (vaultOf c)) (s.vaultD (vaultOf c) + d) (s.hwN 0x1510 1) h

/-! ## Footprints (R157) -/

/-- What a unit takes on a core: its resident unit index, its slots in wave order, its first granule. -/
structure Fit where
  idx : Nat
  slots : List Nat
  sbase : Nat
  deriving DecidableEq, Repr

/-- The units resident on a core. -/
def State.coreUnits (s : State) (c : Nat) : List (Nat × UnitR) :=
  s.units.filterMap (fun (x : Nat × Option UnitR) => match x.2 with | some r => if x.1 / 16 == c then some (x.1, r) else none | none => none)
/-- The slots that units hold, with the budgets of their waves; slots of waves that have exited are held until the unit has ended (R112). -/
def State.heldSlots (s : State) : List (Nat × Nat) :=
  s.units.flatMap (fun (x : Nat × Option UnitR) => match x.2 with | some r => r.slots.map (fun id => (id, r.task.budget)) | none => [])
/-- Whether a slot can take a wave: none is there, no purge of it is pending (R109). -/
def State.slotFree (s : State) (held : List (Nat × Nat)) (id : Nat) : Bool :=
  !held.any (·.1 == id) && (s.wave id).st == .empty && !s.purges.any (·.ident == id)

/-- The slot of the next wave: in the quarter with the most free slots that also has the registers, the lowest of its free slots; a restored wave takes a clean one where there is one (R111). -/
def State.pickSlot (s : State) (c budget : Nat) (clean : Bool) (held : List (Nat × Nat)) : Option Nat :=
  let quarters : List (List Nat) := ([0, 1, 2, 3] : List Nat).map (fun q =>
    let used := (held.filter (fun x => x.1 / 16 == 4 * c + q)).foldl (fun a x => a + x.2) 0
    if 2048 < used + budget then [] else ((List.range 16).map (fun k => 64 * c + 16 * q + k)).filter (s.slotFree held))
  let best := quarters.foldl (fun (a : List Nat) q => if a.length < q.length then q else a) []
  if clean then (match best.find? (fun id => s.clean id) with | some id => some id | none => best.head?) else best.head?

/-- The slots of n waves in index order. -/
def State.pickSlots (s : State) (c budget : Nat) (clean : Bool) : Nat → List (Nat × Nat) → Option (List Nat)
  | 0, _ => some []
  | n + 1, held => match s.pickSlot c budget clean held with
    | none => none
    | some id => (s.pickSlots c budget clean n (held ++ [(id, budget)])).map (fun r => id :: r)

/-- The lowest run of n free granules. -/
def freeRun (xs : List (Nat × Nat)) (n : Nat) : Option Nat :=
  if n = 0 then some 0 else (List.range (193 - n)).find? (fun b => xs.all (fun x => x.2 == 0 || decide (b + n ≤ x.1) || decide (x.1 + x.2 ≤ b)))

/-- A footprint of n waves, budget, granules and accumulator maximum on a core. -/
def State.fit (s : State) (c n budget sgran m : Nat) (clean : Bool) : Option Fit :=
  match (List.range 16).find? (fun i => (s.unit (16 * c + i)).isNone), s.pickSlots c budget clean n s.heldSlots, freeRun ((s.coreUnits c).map (fun x => (x.2.sbase, x.2.sgran))) sgran with
  | some i, some ids, some b => if m ≤ 16 then some ⟨i, ids, b⟩ else none
  | _, _, _ => none

/-! ## Which core (R189, R191, R194, R196) -/

/-- The pipeline stage that a logical core serves: launch and stage (R194, R445). -/
def State.serves (s : State) (lc : Nat) : Option (Nat × Nat) :=
  s.launches.findSome? (fun (x : Nat × Option Launch) => match x.2 with
    | some l => (l.cores.find? (fun e => e.1 == lc)).map (fun e => (x.1, e.2))
    | none => none)

/-- Whether a core may take units of a launch's stage: it is the function's and of the stage, neither a donor nor part of a migration, nor one that holds a non-persistent unit while its vault is hot, at 95 °C or above (R191, R194, R196; DEDUCED, log 113). -/
def State.opens (s : State) (v l stage c : Nat) : Bool :=
  let x := s.core c
  let lc := s.logical c
  let pipe := match s.launch l with | some y => y.kind == 1 | none => false
  let donor := match s.launch l with | some y => (match y.move with | some (m, _, _) => m == lc | none => false) | none => false
  x.vf == some v && x.migTo.isNone && !s.cores.any (fun y => y.2.migTo == some c) && !donor
  && (if pipe then s.serves lc == some (l, stage) else (s.serves lc).isNone)
  && (s.vaultT (vaultOf c) < 95 || (s.coreUnits c).all (fun y => match s.launch y.2.task.launch with | some z => z.persist | none => true))

/-- Whether a stage of a placed pipeline has units that wait and none that is resident. -/
def State.bareStage (s : State) (l stage : Nat) : Bool :=
  (match s.launch l with | some x => x.kind == 1 && x.placed && !x.cnt.cancelled | none => false)
  && (s.pend.any (fun t => t.launch == l && t.stage == stage) || s.saved.any (fun x => x.back.isNone && x.unit.task.launch == l && x.unit.task.stage == stage))
  && !s.units.any (fun (y : Nat × Option UnitR) => match y.2 with | some r => r.task.launch == l && r.task.stage == stage | none => false)

/-- The vaults over the cores of such stages: until each of these has a resident unit again no unit of another stage is charged there, so that a stage with unfinished units keeps one (R197; DEDUCED, log 131). -/
def State.bareVaults (s : State) : List Nat :=
  s.launches.flatMap (fun (x : Nat × Option Launch) => match x.2 with
    | some l => if l.kind == 1 && l.placed then (l.cores.filter (fun e => s.bareStage x.1 e.2)).map (fun e => vaultOf (s.phys e.1)) else []
    | none => [])

/-- Insertion behind what has no smaller Left. -/
def insertLeft (x : Nat × Fit × Int) : List (Nat × Fit × Int) → List (Nat × Fit × Int)
  | [] => [x]
  | y :: r => if x.2.2 ≤ y.2.2 then y :: insertLeft x r else x :: y :: r

/-- The cores that admit a unit, the greatest Left first and the lowest on a tie; a relaunched unit goes to another core than its old one where one admits it (R189, R364). -/
def State.coreChoices (s : State) (v l stage heat n budget sgran m : Nat) (clean : Bool) (avoid : Option Nat) : List (Nat × Fit) :=
  let bare := if s.bareStage l stage then [] else s.bareVaults
  let xs := (((s.vfCores v).filter (s.opens v l stage)).filter (fun c => !bare.contains (vaultOf c))).filterMap (fun c => match s.heatOn c heat 0, s.fit c n budget sgran m clean with
    | some left, some f => some (c, f, left)
    | _, _ => none)
  let ys := xs.filter (fun x => some x.1 != avoid)
  ((if ys.isEmpty then xs else ys).foldl (fun a x => insertLeft x a) []).map (fun x => (x.1, x.2.1))

/-- The first of them. -/
def State.chooseCore (s : State) (v l stage heat n budget sgran m : Nat) (clean : Bool) (avoid : Option Nat) : Option (Nat × Fit) :=
  (s.coreChoices v l stage heat n budget sgran m clean avoid).head?

/-! ## Seating waves (R57, R90, R109, R119, R158) -/

/-- A new occupant of an identity: CUR advances, or wraps after the purge of R109. -/
def State.openSlot (s : State) (id : Nat) : State :=
  let e := s.own id
  if 0xFFFF ≤ e.cur then
    State.setAll { (s.purge { ident := id, lo := 0, keep := [] }) with ends := mset none s.ends id none } id { e with cur := 0, pubu := 0, pubd := 0, pubk := 0, pubf := 0, v := true }
  else s.setAll id { e with cur := e.cur + 1, v := true }

/-- A wave in a slot. -/
def State.seat (s : State) (id : Nat) (w : Wave) : State :=
  let s := s.openSlot id
  s.setWave id { w with int0 := s.interval id, lastIssue := s.cycle }

/-- The publication of ended units of the function widened for a successor on a core (R119). -/
def State.widen (s : State) (v c : Nat) : State :=
  s.ends.foldl (fun (s : State) (x : Nat × Option (Nat × Nat × Nat)) => match x.2 with
    | some (f, m, sc) => if f == v && sc == 3 && s.dieOf x.1 != dieOfCore c then s.raiseAll x.1 4 m else s
    | none => s) s

/-- A wave of a new unit (R57, R158, R256). -/
def newWave (v u budget n : Nat) (t : Task) (entry arg : W64) (tvec : W64) (placed k : Nat) : Wave :=
  let sregs := ([(0, arg), (1, BitVec.ofNat 64 t.uidx), (2, BitVec.ofNat 64 k), (3, BitVec.ofNat 64 n)] : List (Nat × W64)).foldl (fun m x => mset 0 m x.1 x.2) []
  let w : Wave := { st := .ready, unit := u, launch := t.launch, widx := k, placed := placed, pc := entry, regs := { s := sregs, exec := 0xFFFFFFFF },
                    tvec := tvec, base := t.prio, prio := t.prio, vf := v, budget := budget }
  { w with rgn := { rpc := entry, ckpt := w.checkpoint } }

/-! ## Control programs (R175) -/

/-- Whether the control core of a launch is free for its program, if it has one that has not started. -/
def State.ctlReady (s : State) (l : Launch) : Bool :=
  let id := ctlId (s.phys l.ctlcore)
  l.ctlpc == 0 || l.ctl != 0 || ((s.wave id).st == .empty && !s.purges.any (·.ident == id))

/-- The program starts with the first unit of its launch. -/
def State.startCtl (s : State) (l : Nat) : State :=
  match s.launch l with
  | none => s
  | some x =>
    if x.ctlpc == 0 || x.ctl != 0 then s
    else
      let id := ctlId (s.phys x.ctlcore)
      let sregs := ([(0, x.arg), (1, BitVec.ofNat 64 x.launchid.toNat)] : List (Nat × W64)).foldl (fun m y => mset 0 m y.1 y.2) []
      let w : Wave := { st := .ready, ctl := true, launch := l, placed := s.fresh, pc := x.ctlpc, regs := { s := sregs, exec := 1 }, base := x.prio, prio := x.prio, vf := x.vf, budget := ctlBudget }
      ((s.tick).seat id w).modLaunch l (fun y => { y with ctl := 1 })

/-! ## Placement (R158, R188, R194, R437) -/

/-- A unit that has never run, or that is relaunched, placed on a core. -/
def State.placeNew (s : State) (t : Task) (c : Nat) (f : Fit) : State :=
  let l := (s.launch t.launch).getD {}
  let st := s.stageOf t
  let u := 16 * c + f.idx
  let child := t.child.isSome
  let n := f.slots.length
  let entry := match t.child with | some x => BitVec.ofNat 64 (x.1.toNat % 2 ^ 57) | none => st.entry
  let arg := match t.child with | some x => x.2 | none => l.arg
  let sgran := if child then 0 else st.spad
  let s := ((State.tick { s with pend := s.pend.erase t }).widen l.vf c).zeroSpad c f.sbase sgran
  let r : UnitR := { vf := l.vf, task := t, w := n, sgran := sgran, sbase := f.sbase, m := if child then 0 else st.accmax, slots := f.slots }
  let s := s.setUnit u (some r)
  let tv := (s.vf l.vf).dtvec
  (f.slots.zipIdx.foldl (fun (s : State) (x : Nat × Nat) => s.seat x.1 (newWave l.vf u t.budget n t entry arg tv s.fresh x.2)) s).startCtl t.launch

/-- A saved unit placed in restore mode (R437); a wave that had exited keeps a slot, in which nothing runs (R112). -/
def State.placeSaved (s : State) (k : Nat) (sv : SavedUnit) (c : Nat) (f : Fit) : State :=
  let u := 16 * c + f.idx
  let v := sv.unit.vf
  let t := sv.unit.task
  let fn := s.vf v
  let s := ((State.tick { s with saved := s.saved.set k { sv with back := some u } }).widen v c).zeroSpad c f.sbase sv.unit.sgran
  let s := s.setUnit u (some { sv.unit with slots := f.slots, sbase := f.sbase, gate := [], sbImg := [], sbCnt := 0, moving := false })
  let pc := routine fn.ctxrs
  (f.slots.zip sv.waves).foldl (fun (s : State) (x : Nat × Wave) =>
    if sv.unit.gone.contains x.2.widx then s.setWave x.1 { x.2.left with regs := {}, poison := {} }
    else
    let w : Wave := { st := .ready, unit := u, launch := t.launch, widx := x.2.widx, placed := s.fresh, mode := .restore, level := 1, pc := pc, regs := { exec := 0xFFFFFFFF },
                      base := x.2.base, prio := x.2.base, vf := v, budget := x.2.budget, svarea := sv.unit.areaVa, bkarm := x.2.bkarm, svcreq := x.2.svcreq }
    s.seat x.1 { w with rgn := { rpc := pc, ckpt := w.checkpoint } }) s

/-- One task placed where a core admits it. -/
def State.tryTask (s : State) (t : Task) : Option State :=
  match s.launch t.launch with
  | none => none
  | some l =>
    let st := s.stageOf t
    let child := t.child.isSome
    if !s.ctlReady l then none
    else (s.chooseCore l.vf t.launch t.stage st.heat (if child then 1 else st.w) t.budget (if child then 0 else st.spad) (if child then 0 else st.accmax) false t.avoid).map
      (fun x => s.placeNew t x.1 x.2)

/-- The waiting units of a launch, by stage and unit index. -/
def State.tasksOf (s : State) (l : Nat) : List Task := s.pend.filter (fun t => t.launch == l)

/-- A unit launch placed whole: every initial unit at once (R188). -/
def State.placeAll (s : State) (l : Nat) : Option State :=
  ((s.tasksOf l).foldl (fun (a : Option State) t => match a with | some s => s.tryTask t | none => none) (some s)).map
    (fun s => s.modLaunch l (fun x => { x with placed := true }))

/-- Bytes of a queue's ring (R185), and those allocated on a die (R76, R187). -/
def BQueue.bytes (q : BQueue) : Nat := 2 ^ q.log2cap * (4 * q.size4)
def State.ringBytes (s : State) (d : Nat) : Nat :=
  s.launches.foldl (fun a (x : Nat × Option Launch) => match x.2 with
    | some l => if l.placed && !l.cnt.done && !l.cnt.cancelled then (l.queues.filter (fun q => q.home == d)).foldl (fun a q => a + q.bytes) a else a
    | none => a) 0

/-- The cores of a pipeline's stages, MINCORES each in stage order, from free logical cores in ascending order (R194). -/
def dealCores : List (Stage × Nat) → List Nat → Option (List (Nat × Nat))
  | [], _ => some []
  | (st, i) :: r, cs =>
    if cs.length < st.mincores then none
    else (dealCores r (cs.drop st.mincores)).map (fun xs => (cs.take st.mincores).map (fun c => (c, i)) ++ xs)

/-- The die with the most cores of a stage, the lowest on a tie (R187). -/
def State.homeDieOf (s : State) (cores : List (Nat × Nat)) (stage : Nat) : Nat :=
  let n := fun d => (cores.filter (fun x => x.2 == stage && dieOfCore (s.phys x.1) == d)).length
  ([1, 2, 3] : List Nat).foldl (fun a d => if n a < n d then d else a) 0

/-- The dies on which some rings find no room: the queue-ring region of a die has 16 MiB (R76). -/
def State.ringLack (s : State) (qs : List BQueue) : List Nat :=
  ([0, 1, 2, 3] : List Nat).filter (fun d => let n := (qs.filter (fun q => q.home == d)).foldl (fun a q => a + q.bytes) 0; n != 0 && decide (2 ^ 24 < s.ringBytes d + n))

/-- The gang of a pipeline on the cores of some dies (R187, R194): the cores, each admitting its stage's first unit, and the homes of the rings. -/
def State.gangOn (s : State) (l : Nat) (x : Launch) (ds : List Nat) : Option State :=
  let free := (List.range 192).filter (fun lc =>
    let c := s.phys lc
    (s.core c).vf == some x.vf && ds.contains (dieOfCore c) && (s.coreUnits c).isEmpty && (s.serves lc).isNone && (s.core c).migTo.isNone && !s.cores.any (fun y => y.2.migTo == some c))
  match dealCores x.stages.zipIdx free with
  | none => none
  | some cores =>
    let ok := cores.all (fun e =>
      let st := x.stages.getD e.2 {}
      (s.heatOn (s.phys e.1) st.heat 0).isSome && (s.fit (s.phys e.1) st.w (12 * st.budget) st.spad st.accmax false).isSome)
    let qs := x.queues.map (fun q => { q with home := if x.scope = 2 then ds.headD 0 else s.homeDieOf cores q.consumer })
    if ok then some (s.setLaunch l (some { x with cores := cores, queues := qs, placed := true, lastDrover := s.cycle })) else none

/-- The units of a gang by unit index, and by stage among equal ones (R188). -/
def gangOrder (ts : List Task) : List Task := ts.foldl (fun xs t => xs.takeWhile (fun y => y.uidx ≤ t.uidx) ++ t :: xs.dropWhile (fun y => y.uidx ≤ t.uidx)) []

/-- The units of a gang seated on its cores: the first one of each stage, without which the gang is not placed (R194, R197), and the others that the cores admit at once. -/
def State.seatGang (s : State) (l : Nat) : Option State :=
  (gangOrder (s.tasksOf l)).foldl (fun (a : Option State) t => match a with
    | none => none
    | some s => match s.tryTask t with
      | some s' => some s'
      | none => if t.uidx = 0 then none else some s) (some s)

/-- A pipeline started as a gang: its cores, and the units that they admit at once; with SCOPE .d all on the lowest die that can take it (R187, R194). -/
def State.gangAt (s : State) (l : Nat) (x : Launch) : Option State :=
  let on := fun (ds : List Nat) => match s.gangOn l x ds with | some s' => s'.seatGang l | none => none
  if x.scope = 2 then ([0, 1, 2, 3] : List Nat).findSome? (fun d => on [d]) else on [0, 1, 2, 3]

/-- The homes of a launch's rings in a state, and the dies on which they lack room. -/
def State.ringHomes (s : State) (l : Nat) : List Nat := ((s.launch l).map (fun x => x.queues.map (·.home))).getD []
def State.gangLack (s : State) (l : Nat) (x : Launch) : List Nat :=
  match s.gangAt l x with
  | some t => s.ringLack (((t.launch l).map (·.queues)).getD [])
  | none => []

/-- The machine with nothing on its cores, cold, and with no ring allocated, to tell whether a launch could be placed at all (R187, R188; DEDUCED, log 114). -/
def State.emptied (s : State) : State :=
  { s with units := [], waves := s.waves.filter (fun x => isCtl x.1), purges := s.purges.filter (fun p => isCtl p.ident), saved := [],
           cores := s.cores.map (fun x => (x.1, { x.2 with temp := 0, throttled := false, migReq := false, migTo := none, hotWait := false })),
           launches := s.launches.map (fun (x : Nat × Option Launch) => (x.1, x.2.map (fun l => { l with cores := [], move := none, placed := false }))) }

/-- Whether a launch whose record was taken earlier, of whatever function, waits for ring space on one of some dies, where its rings could ever lie (R187). -/
def State.ringQueue (s : State) (taken : Nat) (ds : List Nat) : Bool :=
  s.launches.any (fun (x : Nat × Option Launch) => match x.2 with
    | some y => y.kind == 1 && !y.placed && !y.cnt.done && !y.cnt.cancelled && decide (y.taken < taken) && (s.gangLack x.1 y).any ds.contains && (s.emptied.gangLack x.1 y).isEmpty
    | none => false)

/-- A pipeline placed where its rings find room; those that lack it wait, in record order (R187). -/
def State.placeGang (s : State) (l : Nat) (x : Launch) : Option State :=
  match s.gangAt l x with
  | none => none
  | some t => if !(s.ringLack (((t.launch l).map (·.queues)).getD [])).isEmpty || s.ringQueue x.taken (t.ringHomes l) then none else some t

/-- A launch that is placed whole. -/
def State.placeWhole (s : State) (l : Nat) : Option State :=
  match s.launch l with
  | none => none
  | some x => if !s.ctlReady x then none else if x.kind = 1 then s.placeGang l x else s.placeAll l

/-- What waits for placement: a saved unit by its place in the list, or a task (R188). -/
inductive Waiting where
  | saved (k : Nat)
  | task (t : Task)
  deriving DecidableEq, Repr

/-- The order of R188 as a list of numbers. -/
def rank (prio new taken uidx : Nat) : List Nat := [7 - prio, new, taken, uidx]
def rankLe : List Nat → List Nat → Bool
  | [], _ => true
  | _ :: _, [] => false
  | a :: r, b :: q => decide (a < b) || (a == b && rankLe r q)

/-- Insertion behind what stands no later. -/
def insertRank (x : List Nat × Waiting) : List (List Nat × Waiting) → List (List Nat × Waiting)
  | [] => [x]
  | y :: r => if rankLe y.1 x.1 then y :: insertRank x r else x :: y :: r

/-- The units of a function that wait, in the order of R188; of equal unit indexes in different stages of one launch the lower stage goes first (DESIGN CHOICE, log 132). -/
def State.waiting (s : State) (v : Nat) : List Waiting :=
  let a := (s.saved.zipIdx.filter (fun x => x.1.unit.vf == v && x.1.back.isNone)).map (fun x => (rank x.1.unit.task.prio 0 x.1.unit.task.taken x.1.unit.task.uidx, Waiting.saved x.2))
  let b := (s.pend.filter (fun t => ((s.launch t.launch).map (·.vf)) == some v)).map (fun t => (rank t.prio 1 t.taken t.uidx, Waiting.task t))
  ((a ++ b).foldl (fun xs x => insertRank x xs) []).map (·.2)

/-- A saved unit placed where a core admits it. -/
def State.trySaved (s : State) (k : Nat) : Option State :=
  match s.saved[k]? with
  | none => none
  | some sv =>
    let t := sv.unit.task
    let st := s.stageOf t
    (s.chooseCore sv.unit.vf t.launch t.stage st.heat sv.waves.length t.budget sv.unit.sgran sv.unit.m true none).map (fun x => s.placeSaved k sv x.1 x.2)

/-- The first waiting unit that can be placed; a saved donor unit goes before every unplaced unit of its stage (R196); one that waits only for the whole placement of its launch holds the later ones back (R188). -/
def State.placeNext (s : State) (barred : List (Nat × Nat)) : List Waiting → State
  | [] => s
  | .saved k :: r => match s.trySaved k with
    | some s' => s'
    | none => s.placeNext (match s.saved[k]? with
      | some sv => if sv.unit.donor then (sv.unit.task.launch, sv.unit.task.stage) :: barred else barred
      | none => barred) r
  | .task t :: r =>
    let x := (s.launch t.launch).getD {}
    if barred.contains (t.launch, t.stage) then s.placeNext barred r
    else if x.whole && !x.placed then
      match s.placeWhole t.launch with
      | some s' => s'
      | none => if s.ctlReady x && (s.emptied.placeWhole t.launch).isSome then s else s.placeNext barred r
    else match s.tryTask t with
      | some s' => s'
      | none => s.placeNext barred r

/-- UNIT_PLACEMENT: the dispatcher places the next unit of a function; none while the function is being reset (R400). -/
def execUnitPlacement (vf : Nat) (s : State) : Host.Outcome State Fault Refusal :=
  .next (if (s.vf vf).resetting then s else s.placeNext [] (s.waiting vf))

/-! ## Host work queues (R182 to R184) -/

/-- The control block of a queue in the hypervisor window. -/
def qBlock (q : Nat) : Nat := 0x80000 + 64 * q
def State.qTail (s : State) (q : Nat) : Nat := s.hwN (qBlock q + 0x10) 4
def State.qHead (s : State) (q : Nat) : Nat := s.hwN (qBlock q + 0x14) 4
def State.qLog (s : State) (q : Nat) : Nat := s.hwN (qBlock q + 8) 1
def State.qRunning (s : State) (q : Nat) : Bool := s.hwN (qBlock q + 0x0B) 1 == 1
/-- Records written and not taken, modulo 2^32. -/
def State.qAhead (s : State) (q : Nat) : Nat := (s.qTail q + 2 ^ 32 - s.qHead q) % 2 ^ 32
/-- The error state with its cause. -/
def State.qError (s : State) (q code : Nat) : State := (s.setHw (qBlock q + 0x0B) 2 1).setHw (qBlock q + 0x0C) code 4

/-- TAIL written; on a running queue an overrun is an error (R183). -/
def State.doorbell (s : State) (q tail : Nat) : State :=
  let s := s.setHw (qBlock q + 0x10) tail 4
  if s.qRunning q && decide (2 ^ s.qLog q < s.qAhead q) then s.qError q 7 else s

/-- TAIL_DOORBELL: refused while the queue's function is being reset (R448). -/
def execTailDoorbell (q tail : Nat) (s : State) : Host.Outcome State Fault Refusal :=
  .next (if q < 8192 && !(s.vf (s.hwN (qBlock q + 9) 1 % 64)).resetting then s.doorbell q tail else s)

/-- QUEUE_RESTART: STATE set to 1; ERRCODE keeps the cause of the last error (DESIGN CHOICE, log 133). -/
def execQueueRestart (q : Nat) (s : State) : Host.Outcome State Fault Refusal := .next (if q < 8192 then s.setHw (qBlock q + 0x0B) 1 1 else s)

/-! ## The launch record (R185, R186) -/

/-- Bytes from o on that must be zero. -/
def zerosAt (d : List Byte) (o n : Nat) : Bool := ((d.drop o).take n).all (fun b => b == 0)
/-- A code address: 4-byte-aligned, canonical, lower half. -/
def codeAddr (a : Nat) : Bool := a % 4 == 0 && decide (a < 2 ^ 56)

/-- A stage entry. -/
def recStage (d : List Byte) (i : Nat) : Stage :=
  let o := 0x40 + 16 * i
  let sh := fld d (o + 0xB) 1
  { entry := BitVec.ofNat 64 (fld d o 8), budget := fld d (o + 8) 1, spad := fld d (o + 9) 1, accmax := fld d (o + 10) 1, w := sh / 16 + 1, heat := sh % 4, units := fld d (o + 12) 2, mincores := fld d (o + 14) 1 }
/-- Its ranges. -/
def stageOk (d : List Byte) (pipe : Bool) (i : Nat) : Bool :=
  let st := recStage d i
  codeAddr st.entry.toNat && 1 ≤ st.budget && st.budget ≤ 20 && st.spad ≤ 192 && st.accmax ≤ 16 && bits (fld d (0x4B + 16 * i) 1) 2 2 == 0
  && 1 ≤ st.units && st.units ≤ 16384 && (if pipe then 1 ≤ st.mincores && st.mincores ≤ 48 else st.mincores == 0) && fld d (0x4F + 16 * i) 1 == 0

/-- A queue entry. -/
def recQueue (d : List Byte) (j : Nat) : BQueue :=
  let o := 0xC0 + 4 * j
  { log2cap := fld d o 1, size4 := fld d (o + 1) 1, producer := fld d (o + 2) 1 / 16, consumer := fld d (o + 2) 1 % 16 }
def queueOk (d : List Byte) (ns j : Nat) : Bool :=
  let q := recQueue d j
  1 ≤ q.log2cap && q.log2cap ≤ 16 && 1 ≤ q.size4 && q.size4 ≤ 64 && q.bytes ≤ 2 ^ 22 && q.producer < ns && q.consumer < ns && q.producer != q.consumer && fld d (0xC3 + 4 * j) 1 == 0

/-- The ranges of R185 and its reserved bytes. -/
def recordOk (d : List Byte) : Bool :=
  let kind := fld d 0 1
  let ns := fld d 1 1
  let nq := fld d 2 1
  let nsch := fld d 3 1
  let fl := fld d 5 1
  let pipe := kind == 1
  kind ≤ 1 && 1 ≤ ns && ns ≤ (if pipe then 8 else 1) && nq ≤ (if pipe then 16 else 0) && nsch ≤ 64 && fld d 4 1 ≤ 3 && fl < 8 && (!pipe || fl / 2 == 3)
  && (fld d 6 1 == 2 || fld d 6 1 == 3) && fld d 7 1 < 192 && fld d 0x10 8 % 64 == 0 && (nsch != 0 || fld d 0x10 8 == 0)
  && fld d 0x1C 2 ≤ 4095 && fld d 0x1E 2 ≤ 4095 && fld d 0x20 2 ≤ 4095 && (fld d 0x22 2 == 0 || (20 ≤ fld d 0x22 2 && fld d 0x22 2 ≤ 1000))
  && zerosAt d 0x24 4 && codeAddr (fld d 0x28 8) && zerosAt d 0x30 16
  && (List.range ns).all (stageOk d pipe) && zerosAt d (0x40 + 16 * ns) (16 * (8 - ns))
  && (List.range nq).all (queueOk d ns) && zerosAt d (0xC0 + 4 * nq) (4 * (16 - nq))

/-- Whether a function's address translates for reading or, with X, for execution at user level; a page that a first touch would map counts (R40, R184). -/
def State.launchReads (s : State) (v a : Nat) (x : Bool) : Bool :=
  canonical a && !upper a &&
  match s.walk v a with
  | some p => p.u && (!x || p.x)
  | none => match (s.vf v).resvAt a with
    | some r => r.kind != 2 && r.perm.testBit 2 && (!x || r.perm.testBit 1)
    | none => false

/-- Bytes of a function's memory, an unmapped page reading as the zero frame that a first touch would give it. -/
def State.virtBytes (s : State) (v a n : Nat) : List Byte :=
  (List.range n).map (fun i => match s.walk v (a + i) with | some p => readB s.mem (p.phys (a + i)) | none => 0)

/-- The pages of the schedule table. -/
def schedPages (a n : Nat) : List Nat := if n = 0 then [] else a :: (List.range 2).map (fun k => (a / 4096 + k) * 4096) |>.filter (fun p => a ≤ p && p < a + 16 * n)
/-- The schedule table (R186) as bytes. -/
def State.schedBytes (s : State) (v : Nat) (d : List Byte) : List Byte := s.virtBytes v (fld d 0x10 8) (16 * fld d 3 1)
def schedOk (t : List Byte) (n : Nat) : Bool := (List.range n).all (fun k => decide (fld t (16 * k + 2) 2 ≤ 15) && zerosAt t (16 * k + 4) 4)
def schedOf (t : List Byte) (n : Nat) : List SchedE := (List.range n).map (fun k => ⟨fld t (16 * k) 2, fld t (16 * k + 2) 2, BitVec.ofNat 64 (fld t (16 * k + 8) 8)⟩)

/-- The first failing check of R184, 0 for none. The charges of a footprint are tested on a cold vault without residents (DEDUCED, log 115). Every index 1 to 4,095 names a counter of the function, so 0x04 does not arise (R268). -/
def State.recordError (s : State) (v : Nat) (d : List Byte) : Nat :=
  let ns := fld d 1 1
  let stages := (List.range ns).map (recStage d)
  let n := (s.vfCores v).length
  let fitsEmpty := fun (st : Stage) => decide (st.w ≤ 4 * min 16 (2048 / (12 * st.budget))) && (heatLeft 0 0 (s.hwN 0x1510 1) st.heat).isSome
  if !recordOk d || !schedOk (s.schedBytes v d) (fld d 3 1) then 1
  else if n = 0 || !stages.all fitsEmpty then 2
  else if fld d 0 1 = 1 && decide (n < stages.foldl (fun a st => a + st.mincores) 0) then 3
  else if !(schedPages (fld d 0x10 8) (fld d 3 1)).all (fun p => s.launchReads v p false) || !stages.all (fun st => s.launchReads v st.entry.toNat true)
      || !(fld d 0x28 8 == 0 || s.launchReads v (fld d 0x28 8) true) then 5
  else if (s.core (s.phys (fld d 7 1))).vf != some v then 6
  else 0

/-- The launch of a valid record, with its units waiting (R178, R185); one of a graph, phase or job that has been cancelled before is a live launch (DESIGN CHOICE, log 134). -/
def State.takeLaunch (s : State) (v prio : Nat) (d : List Byte) : State :=
  let l := s.fresh
  let fl := fld d 5 1
  let stages := (List.range (fld d 1 1)).map (recStage d)
  let units := stages.map (·.units)
  let x : Launch :=
    { vf := v, kind := fld d 0 1, graze := fld d 4 1, restart := fl.testBit 0, whole := fl.testBit 1, persist := fl.testBit 2, scope := fld d 6 1, ctlcore := fld d 7 1,
      arg := BitVec.ofNat 64 (fld d 8 8), launchid := BitVec.ofNat 32 (fld d 0x18 4), graph := fld d 0x1C 2, phase := fld d 0x1E 2, job := fld d 0x20 2,
      drover := if fld d 0x22 2 = 0 then 100 else fld d 0x22 2, ctlpc := BitVec.ofNat 64 (fld d 0x28 8), prio := prio, taken := l, stages := stages,
      queues := (List.range (fld d 2 1)).map (recQueue d), sched := schedOf (s.schedBytes v d) (fld d 3 1),
      cnt := { count := units.foldl (· + ·) (if fld d 0x28 8 = 0 then 0 else 1) }, next := units }
  let tasks : List Task := stages.zipIdx.flatMap (fun y => (List.range y.1.units).map (fun i =>
    { launch := l, stage := y.2, uidx := i, child := none, depth := 0, budget := 12 * y.1.budget, prio := prio, relaunches := 0, taken := l, avoid := none }))
  State.setLaunch { (s.tick) with pend := s.pend ++ tasks } l (some x)

/-- LAUNCH_RECORD_TAKE: the next record of a running queue (R183, R184); what a record behind the fabric holds the spec does not give (R182 has the ring in local stacked DRAM), so its bytes are free values (log 5), and a ring outside every range of R15 ends the run (log 14). -/
def execLaunchRecordTake (q : Nat) (s : State) : Host.Outcome State Fault Refusal :=
  let v := s.hwN (qBlock q + 9) 1 % 64
  if 8192 ≤ q || !s.qRunning q || s.qAhead q = 0 || (s.vf v).resetting then .next s
  else if 2 ^ s.qLog q < s.qAhead q then .next (s.qError q 7)
  else
    let a := s.hwN (qBlock q) 8 + 256 * (s.qHead q % 2 ^ s.qLog q)
    if isHole a then .fault .physicalHole
    else
      let d := if isFabric a then (List.range 256).map (fun i => BitVec.ofNat 8 (Config.freeNat (2 ^ 246 + 256 * s.fresh + i))) else readBytes s.mem a 256
      let s := (if isFabric a then s.tick else s).setHw (qBlock q + 0x14) (s.qHead q + 1) 4
      let e := s.recordError v d
      .next (if e = 0 then s.takeLaunch v (s.hwN (qBlock q + 0x0A) 1 % 8) d else s.qError q e)

end Sys2Proof.Machine
end

