-- ==== Sys2Proof/Machine/Thermal.lean ====
section
/-! DEFINITION. Heat, the Drover and power: sensor samples, multipliers and throttles (R83, R190), thermal migration (R191 to R193, R443 to R445), the moves of the Drover (R195 to R197), the power allowance, near-threshold mode, boost and lending (R199 to R202). -/

namespace Sys2Proof.Machine

/-! ## Power (R199 to R202) -/

/-- A change of a quarter. -/
def State.quarter (s : State) (c q : Nat) : Quarter := mget {} (s.core c).quarters q
def State.modQuarter (s : State) (c q : Nat) (f : Quarter → Quarter) : State := s.modCore c (fun x => { x with quarters := mset {} x.quarters q (f (mget {} x.quarters q)) })

/-- The slices with a lane in Active (R147). -/
def activeSlices (w : Wave) (i : Instr) : Nat :=
  let g : Guard := (match i.view with | some v => v.guard | none => none).getD ⟨0, false⟩
  ((active w g).map (· / 4)).eraseDups.length
/-- The cost of an issue in allowance units (R199): of the instruction's group, for a compact form that of its full form, for a pair the greater of its halves' (DEDUCED, log 116). -/
def issueCost (w : Wave) (i : Instr) : Nat :=
  let g := costGroup i
  if g ≤ 2 then 1 else if g = 3 then 2 * activeSlices w i else if g ≤ 5 then 3 * activeSlices w i else 4

/-- The slots of a quarter. -/
def quarterSlots (c q : Nat) : List Nat := (List.range 16).map (fun k => 64 * c + 16 * q + k)
/-- The READY waves of a quarter. -/
def State.readyIn (s : State) (c q : Nat) : List Nat := (quarterSlots c q).filter (fun id => (s.wave id).st == .ready && !(s.wave id).halt)
/-- The first READY wave in the order of R148: the highest priority, then the one placed earliest. -/
def State.firstReady (s : State) (c q : Nat) : Option Nat :=
  match s.readyIn c q with
  | [] => none
  | x :: r => some (r.foldl (fun a b => if (s.wave a).prio < (s.wave b).prio || ((s.wave a).prio == (s.wave b).prio && (s.wave b).placed < (s.wave a).placed) then b else a) x)
/-- The cost of a quarter's next candidate (R201), 0 with none READY. -/
def State.topCost (s : State) (c q : Nat) : Nat :=
  match s.firstReady c q with
  | none => 0
  | some id => let w := s.wave id; match s.instrAt w.vf w.budget w.pc.toNat with | some (i, _) => issueCost w i | none => 1
/-- The cycles, of n, in which a counter that lacks some parts of a cost gains g of them a cycle and is still below the cost (R201). -/
def shortCycles (n lack g : Nat) : Nat := if g = 0 then cond (lack == 0) 0 n else min n ((lack + g - 1) / g)

/-- The sustained refill of a quarter per cycle, in parts of a unit, of which a boost of a quarter of it is a whole number: what firmware sets for 3,600 W is the device's (log 34), and PWRLIM scales it (R419). -/
def partsPerUnit : Nat := 14400
def State.refillParts (s : State) : Nat := Config.freeNat (2 ^ 40) * s.hwN 0x1500 2 * 4
/-- A function's share weight (R201, R417). -/
def State.weight (s : State) (v : Nat) : Nat := max 1 (min 16 (bits (s.hwN (0x1000 + 8 * v) 8) 24 5))
/-- The functions that hold cores. -/
def State.holders (s : State) : List Nat := (s.cores.filterMap (fun x => x.2.vf)).eraseDups
/-- The token bucket refilled up to this cycle: 1,024 tokens per µs, 1,400 cycles, by the function's share; tokPart keeps the fraction of a token. -/
def State.fillTokens (s : State) (v : Nat) : State :=
  let d := 1400 * max 1 (s.holders.foldl (fun a k => a + s.weight k) 0)
  s.modVf v (fun f =>
    let got := 1024 * s.weight v * (s.cycle - f.tokAt) + f.tokPart
    { f with tokens := min 65536 (f.tokens + got / d), tokAt := s.cycle, tokPart := if 65536 ≤ f.tokens + got / d then 0 else got % d })

/-- How many refills the quarters of a core get: their own unless it is lent, and those of the cores that lend to it; a throttled core neither lends nor borrows (R202). -/
def State.shares (s : State) (c : Nat) : Nat :=
  let x := s.core c
  let gone := !x.throttled && (match x.lendTo with | some b => !(s.core b).throttled | none => false)
  cond gone 0 1 + (if x.throttled then 0 else (s.cores.filter (fun y => y.2.lendTo == some c && !y.2.throttled)).length)

/-- A quarter's counter brought up to the cycle: each cycle since the last time has given it its refill, with what is lent to it, up to 4,096, and the boost where it was below the cost of its next candidate, a token each (R199, R201, R202). No cost is above 24, and a counter below that is brought up to date every cycle (State.quartersPass), so that the candidate is the one of the cycle. -/
def State.refillQuarter (s : State) (c q : Nat) : State :=
  let x := s.core c
  let z := s.quarter c q
  if 4 ≤ q || 4096 ≤ z.power || s.cycle ≤ z.refill then s
  else
    let n := s.cycle - z.refill
    let own := s.shares c * s.refillParts
    let v := x.vf.getD 0
    let s := if x.vf.isSome then s.fillTokens v else s
    let lack := if 24 ≤ z.power then 0 else (((s.topCost c q : Int) - z.power) * (partsPerUnit : Int) - (z.part : Int)).toNat
    let b := if x.throttled || x.vf.isNone then 0 else min (shortCycles n lack (own + s.refillParts / 4)) (s.vf v).tokens
    let got := z.part + n * own + b * (s.refillParts / 4)
    let p := z.power + ((got / partsPerUnit : Nat) : Int)
    (s.modVf v (fun f => { f with tokens := f.tokens - b })).modQuarter c q (fun z => { z with power := min 4096 p, part := if 4096 ≤ p then 0 else got % partsPerUnit, refill := s.cycle })

/-- Every counter and every bucket brought up to the cycle, before what its refill depends on changes. -/
def State.settlePower (s : State) : State :=
  let s := s.holders.foldl State.fillTokens s
  s.cores.foldl (fun (s : State) x => x.2.quarters.foldl (fun (s : State) q => s.refillQuarter x.1 q.1) s) s

/-- Units spent by a quarter (R199). -/
def State.spend (s : State) (c q : Nat) (n : Nat) : State :=
  (s.refillQuarter c q).modQuarter c q (fun z => { z with power := max (-4096) (z.power - (n : Int)), refill := s.cycle })

/-! ## Sensors (R83, R190, R191) -/

/-- The multiplier of a temperature. -/
def multOf (t : Nat) : Nat := if t < 85 then 0 else if t < 95 then 1 else 2

/-- A vault after a sample: the multiplier rises at once. -/
def Vault.sample (v : Vault) (t now : Nat) : Vault :=
  { mult := max v.mult (multOf t), hot2 := if 83 < t then now else v.hot2, hot4 := if 93 < t then now else v.hot4 }

/-- A multiplier that falls: the temperature has stayed 2 °C below the threshold for 1 ms. -/
def Vault.fall (v : Vault) (t now : Nat) : Vault :=
  let v := if v.mult = 2 ∧ t ≤ 93 ∧ v.hot4 + msCycles ≤ now then { v with mult := 1 } else v
  if v.mult = 1 ∧ t ≤ 83 ∧ v.hot2 + msCycles ≤ now then { v with mult := 0 } else v

/-- Whether every unit resident on a core is persistent, and there is one. -/
def State.persistentOn (s : State) (c : Nat) : Bool :=
  let us := s.coreUnits c
  !us.isEmpty && us.all (fun y => match s.launch y.2.task.launch with | some z => z.persist | none => false)

/-- A core after a sample: throttled from 105 °C of its vault until below 103 °C; a sensor that crosses 95 °C asks for a migration, at once or when the last non-persistent unit has ended. -/
def State.sampleCore (s : State) (old : State) (c : Nat) : State :=
  let t := s.vaultT (vaultOf c)
  let x := s.core c
  let crossed := decide ((old.core c).temp < 95) && decide (95 ≤ x.temp)
  let wait := (crossed || x.hotWait) && decide (95 ≤ x.temp) && !(s.coreUnits c).isEmpty
  let ask := wait && s.persistentOn c
  s.setCore c { x with throttled := if 105 ≤ t then true else if t < 103 then false else x.throttled, hotWait := wait && !ask, migReq := x.migReq || ask }

/-! ## Stopping for a move (R192, R443) -/

/-- What the choice of a target does to a wave of a moving unit (R443). -/
def State.stopWave (s : State) (id : Nat) : State :=
  let w := s.wave id
  if w.mode != .normal || w.stopped then s
  else if w.st == .parked then
    (if w.rgn.first then s.setWave id { w with st := .waiting, stopped := true } else s.setWave id { w with st := .ready })
  else if w.keepsWait then s.setWave id { w with stopped := true }
  else if w.st == .stalled && w.step == 1 && !w.deferred then (s.rollback id).modWave id (fun w => { w with st := .waiting, stopped := true })
  else s

/-- A unit told to stop. -/
def State.stopForMove (s : State) (u : Nat) : State :=
  match s.unit u with
  | none => s
  | some r => (s.liveSlots u r).foldl (fun (s : State) id => s.stopWave id) (s.setUnit u (some { r with moving := true }))

/-- Whether a unit has stopped and nothing of it is under way but copies (R192 step 1, R444). -/
def State.stoppedUnit (s : State) (u : Nat) (r : UnitR) : Bool :=
  let ids := s.liveSlots u r
  ids.all (fun id => (s.wave id).stopped && (s.wave id).mode == .normal && !s.unverified id && !(s.own id).fv
    && !s.changes.any (·.ident == id) && !s.drains.any (·.ident == id) && !s.acks.any (·.ident == id))
  && !(s.core (u / 16)).cmds.any (fun e => match e.2 with | some c => c.unit == u && (c.kind == .tile || c.kind == .aep) | none => false)

/-- A unit that goes on where it is: its waves run, bar and svc go on waiting. -/
def State.resumeMoved (s : State) (u : Nat) : State :=
  match s.unit u with
  | none => s
  | some r => (s.liveSlots u r).foldl (fun (s : State) id => s.modWave id (fun w =>
      { w with stopped := false, st := if w.stopped && !w.keepsWait then .ready else w.st })) (s.setUnit u (some { r with moving := false }))

/-! ## Moving a unit (R192, R110, R111, R114, R132) -/

/-- Where the parts of a unit go: slots, granules, banks, copy slots, as pairs of old and new. -/
structure Route where
  from_ : Nat
  to_ : Nat
  ids : List (Nat × Nat)
  sbase : Nat
  banks : List (Nat × Nat)
  cmds : List (Nat × Nat)
  deriving DecidableEq, Repr

/-- A number's new value. -/
def via (m : List (Nat × Nat)) (k : Nat) : Nat := ((m.find? (fun x => x.1 == k)).map (·.2)).getD k

/-- A wave at its new place: an aalloc that waits requests again (R169), nothing of the old core's translations and of its latches stays (R27, R63). -/
def Wave.moved (u : Nat) (w : Wave) : Wave :=
  { w with unit := u, stopped := false, lpr := [], latA := none, latB := none, latC := none, st := if w.keepsWait then .waiting else .ready }

/-- A command at its new place. -/
def Cmd.moved (x : Cmd) (rt : Route) (old : Nat) : Cmd :=
  { x with ident := via rt.ids x.ident, unit := rt.to_,
           fixed := x.fixed.map (fun y => if y.1 = 1 then (1, y.2.1 + 128 * rt.sbase - 128 * old, y.2.2.1 + 128 * rt.sbase - 128 * old, y.2.2.2) else y) }

/-- A lock at its new place. -/
def Lock.moved (x : Lock) (rt : Route) (old : Nat) : Lock :=
  { x with owner := via rt.cmds x.owner, unit := rt.to_ % 16,
           first := if x.space = 1 then x.first + 128 * rt.sbase - 128 * old else x.first, last := if x.space = 1 then x.last + 128 * rt.sbase - 128 * old else x.last }

/-- The arrays and tables of the cores: scratchpad, accumulator banks, commands and locks. -/
def State.moveArrays (s : State) (r : UnitR) (rt : Route) : State :=
  let c := rt.from_ / 16
  let d := rt.to_ / 16
  let x := s.core c
  let lo := 4096 * r.sbase
  let hi := lo + 4096 * r.sgran
  let bytes := x.spad.filter (fun e => lo ≤ e.1 && e.1 < hi)
  let poi := x.spPoison.filter (fun e => lo ≤ 4 * e.1 && 4 * e.1 < hi)
  let bk := rt.banks.map (·.1)
  let acc := x.acc.filter (fun e => bk.contains (e.1 / 32768))
  let accP := x.accPoison.filter (fun e => bk.contains (e.1 / 32768))
  let accT := x.accTaint.filter (fun e => bk.contains (e.1 / 8))
  let mine := x.cmds.filter (fun e => match e.2 with | some k => k.unit == rt.from_ | none => false)
  let owners := mine.map (·.1)
  let lks := x.locks.filterMap (fun (e : Nat × Option Lock) => match e.2 with | some l => if owners.contains l.owner then some l else none | none => none)
  let s := s.modCore c (fun x =>
    let x := owners.foldl (fun (x : Core) k => x.unlock k) x
    let x := (x.scrub bk).freeBanks bk
    { x with cmds := x.cmds.filter (fun e => !owners.contains e.1), spad := x.spad.filter (fun e => !(lo ≤ e.1 && e.1 < hi)), spPoison := x.spPoison.filter (fun e => !(lo ≤ 4 * e.1 && 4 * e.1 < hi)),
             accQ := x.accQ.filter (fun q => q.1 != rt.from_) })
  s.modCore d (fun y =>
    let free := ((List.range 64).filter (fun k => mget none y.locks k == none))
    { y with
      spad := bytes.foldl (fun m e => mset 0 m (e.1 - lo + 4096 * rt.sbase) e.2) (y.spad.filter (fun e => !(4096 * rt.sbase ≤ e.1 && e.1 < 4096 * (rt.sbase + r.sgran))))
      spPoison := poi.foldl (fun m e => mset false m (e.1 - lo / 4 + 1024 * rt.sbase) e.2) (y.spPoison.filter (fun e => !(1024 * rt.sbase ≤ e.1 && e.1 < 1024 * (rt.sbase + r.sgran))))
      acc := acc.foldl (fun m e => mset 0 m (via rt.banks (e.1 / 32768) * 32768 + e.1 % 32768) e.2) y.acc
      accPoison := accP.foldl (fun m e => mset false m (via rt.banks (e.1 / 32768) * 32768 + e.1 % 32768) e.2) y.accPoison
      accTaint := accT.foldl (fun m e => mset false m (via rt.banks (e.1 / 8) * 8 + e.1 % 8) e.2) y.accTaint
      banks := rt.banks.foldl (fun m b => mset none m b.2 (some (rt.to_ % 16))) y.banks
      cmds := mine.foldl (fun m (e : Nat × Option Cmd) => mset none m (via rt.cmds e.1) (e.2.map (fun k => k.moved rt r.sbase))) y.cmds
      locks := (free.zip lks).foldl (fun m (e : Nat × Lock) => mset none m e.1 (some (e.2.moved rt r.sbase))) y.locks })

/-- The records of the moved scratchpad granules go to the new core (R79, R106). -/
def State.moveGranules (s : State) (r : UnitR) (rt : Route) : State :=
  let g := granule (.spad (rt.from_ / 16)) (4096 * r.sbase)
  let h := granule (.spad (rt.to_ / 16)) (4096 * rt.sbase)
  let n := 128 * r.sgran
  let mine := s.recs.filter (fun x => g ≤ x.1 && x.1 < g + n)
  { s with recs := mine.foldl (fun m x => mset {} m (x.1 - g + h) x.2) (s.recs.filter (fun x => !(g ≤ x.1 && x.1 < g + n) && !(h ≤ x.1 && x.1 < h + n))) }

/-- A unit moved with everything it holds. -/
def State.moveUnit (s : State) (rt : Route) : State :=
  match s.unit rt.from_ with
  | none => s
  | some r =>
    let c := rt.from_ / 16
    let d := rt.to_ / 16
    let s := if dieOfCore c != dieOfCore d then rt.ids.foldl (fun (s : State) x => s.raiseK x.1) s else s
    let s := rt.ids.foldl (fun (s : State) x => s.moveRecords x.1 x.2 (s.wave x.1).int0) s
    let s := rt.ids.foldl (fun (s : State) x => (s.setWave x.2 ((s.wave x.1).moved rt.to_)).setWave x.1 {}) s
    let s := (s.moveArrays r rt).moveGranules r rt
    let s := State.modVf { s with reqs := s.reqs.map (fun q => { q with ident := via rt.ids q.ident, use := match q.use with | .cmd k n => if k = c && (rt.cmds.any (fun x => x.1 == n)) then .cmd d (via rt.cmds n) else .cmd k n | u => u }) } r.vf (fun f =>
      { f with preqs := f.preqs.map (fun e => (e.1, { e.2 with cmds := e.2.cmds.map (fun (x : Nat × Nat) => if x.1 = c && rt.cmds.any (fun y => y.1 == x.2) then (d, via rt.cmds x.2) else x) })) })
    let s := (s.setUnit rt.from_ none).setUnit rt.to_ (some { r with
      slots := r.slots.map (via rt.ids), sbase := rt.sbase, sb := r.sb.map (fun e => { e with ident := via rt.ids e.ident }), acc := r.acc.map (fun bs => bs.map (via rt.banks)), accReq := none, moving := false })
    rt.ids.foldl (fun (s : State) x => s.requestAgain rt.to_ x.2) s

/-- The copy slots and lock entries of a unit on a core. -/
def Core.copySlots (x : Core) (u : Nat) : List Nat := (x.cmds.filter (fun e => match e.2 with | some k => k.unit == u | none => false)).map (·.1)
def Core.lockCount (x : Core) (u : Nat) : Nat := (x.locks.filter (fun e => match e.2 with | some l => (x.copySlots u).contains l.owner | none => false)).length
def Core.freeLocks (x : Core) : Nat := 64 - x.locks.length

/-! ## Thermal migration (R191, R192, R445) -/

/-- The test of the moving units on a target, unit by unit, each Tpred below 90 °C (R191). -/
def admitsAll (t floor : Nat) : Nat → List Nat → Bool
  | _, [] => true
  | d, h :: r => decide (t + heatRise h < 90) && (heatLeft t d floor h).isSome && admitsAll t floor (d + heatD h) r

/-- Whether a core may be the target of a hot core. -/
def State.targetOk (s : State) (c t : Nat) : Bool :=
  let us := s.coreUnits c
  let hot := s.serves (s.logical c)
  let own := s.serves (s.logical t)
  let scopeD := us.any (fun y => match s.launch y.2.task.launch with | some l => l.kind == 1 && l.scope == 2 | none => false)
  t != c && (s.core t).vf == (s.core c).vf && (s.coreUnits t).isEmpty && (own.isNone || own.map (·.1) == hot.map (·.1)) && !(s.core t).throttled
  && (s.core t).migTo.isNone && !s.cores.any (fun y => y.2.migTo == some t) && (!scopeD || dieOfCore t == dieOfCore c)
  && admitsAll (s.vaultT (vaultOf t)) (s.hwN 0x1510 1) (s.vaultD (vaultOf t)) (us.map (fun y => (s.stageOf y.2.task).heat))

/-- The target: the vault with the lowest T, then the lowest number. -/
def State.chooseTarget (s : State) (c : Nat) : Option Nat :=
  (((List.range 192).filter (s.targetOk c)).foldl (fun (a : Option (Nat × Nat)) t =>
    let x := s.vaultT (vaultOf t)
    match a with
    | none => some (t, x)
    | some y => if x < y.2 then some (t, x) else a) none).map (·.1)

/-- A pending request finds its target, and the units are told to stop. -/
def State.seekTarget (s : State) (c : Nat) : State :=
  let x := s.core c
  if !x.migReq || x.migTo.isSome then s
  else match s.chooseTarget c with
    | none => s
    | some t => (s.coreUnits c).foldl (fun (s : State) y => s.stopForMove y.1) (s.setCore c { x with migTo := some t })

/-- SENSOR_SAMPLE: readings of cores in °C; TMAX follows, PWRNOW is a free value (R419; log 33). -/
def execSensorSample (readings : List (Nat × Nat)) (s : State) : Host.Outcome State Fault Refusal :=
  let s := s.settlePower
  let old := s
  let s := (readings.filter (fun r => decide (r.1 < 192))).foldl (fun (s : State) r => s.modCore r.1 (fun x => { x with temp := r.2 })) s
  let s := (List.range 64).foldl (fun (s : State) v => { s with vaults := mset {} s.vaults v ((s.vault v).sample (s.vaultT v) s.cycle) }) s
  let s := (List.range 192).foldl (fun (s : State) c => s.sampleCore old c) s
  let s := (List.range 192).foldl (fun (s : State) c => s.seekTarget c) s
  let top := (List.range 192).foldl (fun a c => max a (s.core c).temp) 0
  .next ((s.tick.setHw 0x1518 (min 255 top) 1).setHw 0x1508 (Config.freeNat s.fresh % 65536) 2)

/-- REFRESH_MULTIPLIER_FALL (R83). -/
def execRefreshMultiplierFall (vault : Nat) (s : State) : Host.Outcome State Fault Refusal :=
  .next (if vault < 64 then { s with vaults := mset {} s.vaults vault ((s.vault vault).fall (s.vaultT vault) s.cycle) } else s)

/-- The route of a unit to the same places of another core. -/
def State.straight (s : State) (t : Nat) (y : Nat × UnitR) : Route :=
  let c := y.1 / 16
  { from_ := y.1, to_ := 16 * t + y.1 % 16, ids := (s.liveSlots y.1 y.2).map (fun id => (id, 64 * t + id % 64)), sbase := y.2.sbase,
    banks := (y.2.acc.getD []).map (fun b => (b, b)), cmds := ((s.core c).copySlots y.1).map (fun k => (k, k)) }

/-- Whether the slots that a route names can take their waves (R111). -/
def State.routeOpen (s : State) (rt : Route) : Bool := rt.ids.all (fun x => s.slotFree s.heldSlots x.2 && s.clean x.2)

/-- THERMAL_MIGRATION: a request that the end of a unit has raised looks for its target (R191); the units of a hot core, which stop at their next markers, move; where a slot of the target is not clean they go on until a later marker (R111). With the move the two logical ids exchange their cores (R4, R192). -/
def execThermalMigration (core : Nat) (s : State) : Host.Outcome State Fault Refusal :=
  let s := if (s.core core).hotWait && (s.core core).migReq then (s.modCore core (fun x => { x with hotWait := false })).seekTarget core else s
  .next (match (s.core core).migTo with
    | none => s
    | some t =>
      let s := (s.coreUnits core).foldl (fun (s : State) y => s.stopForMove y.1) s
      let s := (s.coreUnits core).foldl (fun (s : State) y => if s.cancelled y.2.task.launch && (s.liveSlots y.1 y.2).any (fun id => (s.wave id).stopped) then s.cancelUnit y.1 else s) s
      let us := s.coreUnits core
      if us.isEmpty then s.modCore core (fun x => { x with migReq := false, migTo := none })
      else if !us.all (fun y => s.stoppedUnit y.1 y.2) then s
      else if !us.all (fun y => s.routeOpen (s.straight t y)) then us.foldl (fun (s : State) y => s.resumeMoved y.1) s
      else
        let lc := s.logical core
        let lt := s.logical t
        let s := us.foldl (fun (s : State) y => s.moveUnit (s.straight t y)) s
        State.modCore { s with lmap := (([(lc, t), (lt, core)] : List (Nat × Nat))).foldl (fun m x => if x.2 = x.1 then mdel m x.1 else mput m x.1 x.2) s.lmap } core (fun x => { x with migReq := false, migTo := none }))

/-! ## The Drover (R195 to R197) -/

/-- DROVER_SAMPLE: the occupancy of each queue of a pipeline, every 1 µs. -/
def execDroverSample (launch : Nat) (s : State) : Host.Outcome State Fault Refusal :=
  .next (match s.launch launch with
    | none => s
    | some l =>
      if l.kind != 1 || !l.placed || l.cnt.done || s.cycle < l.lastDrover + 1400 * (((l.queues.headD {}).samples.length) + 1) then s
      else s.setLaunch launch (some { l with queues := l.queues.map (fun q => { q with samples := q.samples ++ [q.ring.length] }) }))

/-- A queue's mean occupancy in percent, times the number of samples and 2^16, exactly. -/
def BQueue.mean (q : BQueue) : Int := ((q.samples.foldl (· + ·) 0 * 100 * 65536 / 2 ^ q.log2cap : Nat) : Int)
/-- The highest of some means. -/
def highestMean (d : Int) (xs : List Int) : Int := match xs with | [] => d | x :: r => r.foldl max x
/-- The score of a stage, scaled as the means are: n samples. -/
def Launch.score (l : Launch) (n i : Nat) : Int :=
  highestMean (50 * 65536 * (n : Int)) ((l.queues.filter (fun q => q.consumer == i)).map (·.mean)) - highestMean 0 ((l.queues.filter (fun q => q.producer == i)).map (·.mean))

/-- Gainer and donor (R195 steps 3 and 4). -/
def Launch.pickMove (l : Launch) : Option (Nat × Nat) :=
  let n := (l.queues.headD {}).samples.length
  let is := List.range l.stages.length
  let count := fun i => (l.cores.filter (fun x => x.2 == i)).length
  let gain := is.foldl (fun (a : Nat) i => if l.score n a < l.score n i then i else a) 0
  let donors := is.filter (fun i => decide ((l.stages.getD i {}).mincores < count i))
  match donors with
  | [] => none
  | d :: r =>
    let don := r.foldl (fun (a : Nat) i => if l.score n i < l.score n a then i else a) d
    if n ≠ 0 ∧ gain ≠ don ∧ 25 * 65536 * (n : Int) ≤ l.score n gain - l.score n don then some (gain, don) else none

/-- The core that moves: the donor's with the fewest resident units, the highest logical id on a tie. -/
def State.pickDonor (s : State) (l : Launch) (don : Nat) : Option Nat :=
  ((l.cores.filter (fun x => x.2 == don)).map (·.1)).foldl (fun (a : Option Nat) c => match a with
    | none => some c
    | some b =>
      let n := (s.coreUnits (s.phys c)).length
      let m := (s.coreUnits (s.phys b)).length
      if n < m ∨ (n = m ∧ b < c) then some c else a) none

/-- A route of one unit to a place on another core that admits it, with free banks, copy slots and lock entries: on the first such core in the order of R189. -/
def State.droverRoute (s : State) (u : Nat) (r : UnitR) : Option Route :=
  let t := r.task
  (s.coreChoices r.vf t.launch t.stage (s.stageOf t).heat (s.liveSlots u r).length t.budget r.sgran r.m true none).findSome? (fun (c, f) =>
    let bs := r.acc.getD []
    let x := s.core (u / 16)
    let y := s.core c
    let free := (List.range 128).filter (fun k => mget none y.cmds k == none)
    let rt : Route := { from_ := u, to_ := 16 * c + f.idx, ids := (s.liveSlots u r).zip f.slots, sbase := f.sbase, banks := bs.zip y.bankFree, cmds := (x.copySlots u).zip free }
    if rt.banks.length = bs.length ∧ rt.cmds.length = (x.copySlots u).length ∧ x.lockCount u ≤ y.freeLocks ∧ s.routeOpen rt then some rt else none)

/-- A stopped donor unit moves, or is pre-empted and saved where no core admits it (R196); a pre-emption that is pending comes after the move (R192), and one that cannot be taken leaves the unit to its next marker. -/
def State.clearDonor (s : State) (u : Nat) : State :=
  match s.unit u with
  | none => s
  | some r =>
    if r.area.isSome then s
    else
      let s := s.stopForMove u
      match s.unit u with
      | none => s
      | some r =>
        if !s.stoppedUnit u r then s
        else if s.cancelled r.task.launch then s.cancelUnit u
        else match s.droverRoute u r with
          | some rt => s.moveUnit rt
          | none => ((s.resumeMoved u).modUnit u (fun r => { r with donor := true })).askPreempt u

/-- A move in progress taken further: the units leave, then the core passes to the gainer; a thermal migration of the core comes first (R193, R196). -/
def State.advanceMove (s : State) (l : Nat) (lc gain : Nat) : State :=
  let c := s.phys lc
  if (s.core c).migTo.isSome then s
  else
    let s := (s.coreUnits c).foldl (fun (s : State) y => s.clearDonor y.1) s
    if (s.coreUnits c).isEmpty then s.modLaunch l (fun x => { x with move := none, cores := x.cores.map (fun e => if e.1 = lc then (lc, gain) else e) }) else s

/-- DROVER_REBALANCE: a move in progress goes on; at the end of an interval the scores are formed and a move may start. -/
def execDroverRebalance (launch : Nat) (s : State) : Host.Outcome State Fault Refusal :=
  .next (match s.launch launch with
    | none => s
    | some l =>
      if l.kind != 1 || !l.placed || l.cnt.done then s
      else
        let s := match l.move with | some (lc, _, gain) => s.advanceMove launch lc gain | none => s
        let l := (s.launch launch).getD l
        if s.cycle < l.lastDrover + 1400 * l.drover then s
        else
          let s := s.setLaunch launch (some { l with lastDrover := s.cycle, queues := l.queues.map (fun q => { q with samples := [] }) })
          if l.move.isSome then s
          else match l.pickMove with
            | none => s
            | some (gain, don) => match s.pickDonor l don with
              | none => s
              | some lc => (s.modLaunch launch (fun x => { x with move := some (lc, don, gain) })).advanceMove launch lc gain)

/-! ## The events of power (R199 to R202) -/

/-- POWER_ALLOWANCE_REFILL: a quarter's counter gains its refill for the cycles that have passed, and its function's bucket is refilled (R199, R201). -/
def execPowerAllowanceRefill (core quarter : Nat) (s : State) : Host.Outcome State Fault Refusal := .next (s.refillQuarter core quarter)

/-- Whether a wave is HALTED (R150, R172): it goes on in save and restore mode, and with an instruction that has issued (R405). -/
def Wave.halted (w : Wave) : Bool := w.halt && w.mode == .normal && !(w.st == .stalled && decide (2 ≤ w.step))

/-- Whether a cycle is busy for a quarter: a slot of it is READY or STALLED (R200). -/
def State.busyNow (s : State) (c q : Nat) : Bool := (quarterSlots c q).any (fun id => ((s.wave id).st == .ready || (s.wave id).st == .stalled) && !(s.wave id).halted)
/-- The busy cycles from lo up to hi in a history, newest change first. -/
def busyCycles (lo : Nat) : Nat → List (Nat × Bool) → Nat
  | _, [] => 0
  | hi, (t, b) :: r => (if b then hi - max t lo else 0) + busyCycles lo (min hi t) r
/-- The busy cycles of a quarter in the last 1 µs, of 1,400. -/
def State.busyIn (s : State) (c q : Nat) : Nat := busyCycles (s.cycle - 1400) s.cycle (s.quarter c q).hist
/-- The history of a quarter with one more cycle; what lies further back than 1 µs is forgotten. -/
def logBusy (now : Nat) (b : Bool) (h : List (Nat × Bool)) : List (Nat × Bool) :=
  if ((h.head?).map (·.2)).getD false == b then h
  else
    let h := (now, b) :: h
    h.takeWhile (fun e => now < e.1 + 1400) ++ (h.dropWhile (fun e => now < e.1 + 1400)).take 1

/-- NEAR_THRESHOLD_TRANSITION (R200): the quarter counts its own busy cycles, so that the number that the event carries decides nothing; a change takes 0.5 µs, in which no other one starts. -/
def execNearThresholdTransition (core quarter _busy : Nat) (s : State) : Host.Outcome State Fault Refusal :=
  let z := s.quarter core quarter
  let busy := s.busyIn core quarter
  .next (if 4 ≤ quarter || s.cycle < z.ntUntil then s
    else if !z.nt && busy < 350 then s.modQuarter core quarter (fun z => { z with nt := true, ntUntil := s.cycle + 700 })
    else if z.nt && 700 < busy then s.modQuarter core quarter (fun z => { z with nt := false, ntUntil := s.cycle + 700 })
    else s)

/-- The READY waves of a core. -/
def State.readyOn (s : State) (c : Nat) : Nat := (([0, 1, 2, 3] : List Nat).flatMap (s.readyIn c)).length

/-- LENDING_START: a core without a READY wave for 10 µs lends to the busiest core of its function and die (R202): the one with the most READY waves at that moment, the lowest physical number on a tie (DESIGN CHOICE, log 135). -/
def execLendingStart (core : Nat) (s : State) : Host.Outcome State Fault Refusal :=
  let x := s.core core
  .next (match x.vf with
    | none => s
    | some v =>
      if !(s.hwN (0x1000 + 8 * v) 4).testBit 31 || x.lendTo.isSome || x.throttled || s.readyOn core != 0 || s.cycle < x.idleSince + 14000 then s
      else
        let cs := (s.vfCores v).filter (fun c => c != core && dieOfCore c == dieOfCore core && !(s.core c).throttled && s.readyOn c != 0)
        match cs with
        | [] => s
        | c :: r => s.settlePower.modCore core (fun x => { x with lendTo := some (r.foldl (fun a b => if s.readyOn a < s.readyOn b then b else a) c) }))

/-- LENDING_RECALL: a READY wave on the lender, or a throttled lender or borrower (R202). -/
def execLendingRecall (core : Nat) (s : State) : Host.Outcome State Fault Refusal :=
  .next (if (s.core core).lendTo.isSome && (s.readyOn core != 0 || (s.core core).throttled || (match (s.core core).lendTo with | some b => (s.core b).throttled | none => false)) then s.settlePower.modCore core (fun x => { x with lendTo := none }) else s)

end Sys2Proof.Machine
end

