-- ==== Sys2Proof/Machine/Graze.lean ====
section
/-! DEFINITION. The instructions of Graze (R386 to R388) and its events: candidates (R372, R373), comparisons (R377), withdrawal records (R384, R385). -/

namespace Sys2Proof.Machine

/-! ## gpol, gqry, gcul -/

def execGpol (lvl : Src) (s : State) : Host.Outcome State Fault Refusal :=
  gated (.gpol lvl) s
    (match s.ueScalar [(2, lvl)] with
     | some t => s.trapCur t
     | none =>
       let w := s.wave s.cur
       let n := s.sval lvl
       let old := ((s.launch w.launch).map (·.graze)).getD 0
       if 3 < n then s.trapCur (engTrap 0x06 0 2 0)
       else if n < old && w.level < 1 then s.trapCur (privTrap 0)
       else (s.modLaunch w.launch (fun x => { x with graze := n })).finishCur (.gpol lvl) (fillScalars [(2, lvl)]))

/-- The states that gqry tells apart (R388). -/
def gStateCode : GState → Nat
  | .guarded => 2 | .promoted => 3 | .culled => 4

/-- The word of gqry for a function's wave (R388). -/
def State.gWord (s : State) (v id : Nat) : Nat :=
  let q := id % 2 ^ 26
  if bits id 26 6 != v then 0
  else match s.fold v q with
    | some f => gStateCode f.st * 2 ^ 61 + f.ev % 2 * 2 ^ 60 + min 0xFFF f.units.length * 2 ^ 48 + min 0xFFFF f.agree * 2 ^ 32 + f.execs % 2 ^ 32
    | none => match (s.vf v).graze.paddock.find? (fun c => c.seq == q) with
      | some c => 2 ^ 61 + (((s.vf v).graze.targets.find? (fun t => t.key == c.target)).bind (·.ev)).getD 0 * 2 ^ 60
      | none => 0

def execGqry (d : Nat) (id : Src) (s : State) : Host.Outcome State Fault Refusal :=
  gated (.gqry d id) s
    (match s.ueScalar [(2, id)] with
     | some t => s.trapCur t
     | none => s.finishCur (.gqry d id) (fun w => writeS d ⟨s.gWord w.vf (s.sval id), none, false⟩ (fillScalars [(2, id)] w)))

def execGcul (id : Src) (s : State) : Host.Outcome State Fault Refusal :=
  gated (.gcul id) s
    (match s.ueScalar [(2, id)] with
     | some t => s.trapCur t
     | none =>
       let v := (s.wave s.cur).vf
       let x := s.sval id
       if bits x 26 6 != v then s.trapCur (engTrap 0x06 0 2 0)
       else (s.cull v (x % 2 ^ 26) 2 none).finishCur (.gcul id) (fillScalars [(2, id)]))

/-! ## Candidates (R372, R373) -/

/-- The analysis of a code. -/
def flowOf (c : Code) : Flow := c.foldl (fun f x => f.step x.2 false) ({} : Flow)

/-- The number of a value in the table of the values that two codes compute; a new one is added. -/
def numberOf (t : List (List Nat)) (k : List Nat) : List (List Nat) × Nat :=
  match t.idxOf? k with
  | some n => (t, n)
  | none => (t ++ [k], t.length)

/-- A path of one lane through code without loops: the value numbers of the registers written, the predicates decided, by value number, the registers written, and for each open if whether the lane came to it and whether it is in the branch that runs (R153). -/
structure LPath where
  env : List (Nat × Nat) := []
  lits : List (Nat × Bool) := []
  wrote : List Nat := []
  act : List (Bool × Bool) := []
  deriving DecidableEq, Repr

/-- The number of the value that a register holds on a path: what the path wrote, or what the register held at the marker; each reading of the y file is a value of its own. -/
def LPath.number (p : LPath) (t : List (List Nat)) (c : Nat) : List (List Nat) × Nat :=
  if 328 ≤ c && c < 330 then numberOf t [5, t.length]
  else match p.env.find? (fun x => x.1 == c) with
    | some x => (t, x.2)
    | none => numberOf t [0, c]

/-- What an operand contributes to a computation: a register's code (true) or a constant (false). -/
def opdKey (o : Opd) : List (Bool × Nat) :=
  match o with
  | .none => [(false, 1)]
  | .kval n _ => [(false, 4), (false, n)]
  | .src _ _ ⟨.imm i, _⟩ => [(false, 2), (false, (i % 2 ^ 64).toNat)]
  | .src _ _ ⟨.lit l, _⟩ => [(false, 3), (false, l.toNat)]
  | o => (opdRegs o).map (fun c => (true, c))

/-- The computations of an instruction, each with its destination: both halves of a pair read before either writes (R229). -/
def instrKeys (i : Instr) : List (List (Bool × Nat) × List Nat) :=
  let opd := fun (x : Src) => opdKey (.src .v false ⟨x, false⟩)
  let half := fun (h : Half) => ((false, 1024 + h.op.code) :: opd h.a ++ (match h.b with | some b => opd b | none => []) ++ (if h.op.accum then (dstRegs false h.d).map (fun c => (true, c)) else []), dstRegs false h.d)
  match i with
  | .pair x y => [half x, half y]
  | i => match i.view with
    | some v => [([(false, v.op), (false, cond v.aux 1 0)] ++ opdKey v.a ++ opdKey v.b ++ opdKey v.c ++ (match i with | .bfi .. => opdKey v.d | _ => []), opdRegs v.d)]
    | none => match i.compactHalf with
      | some h => [half h]
      | none => []

/-- A computation with its registers replaced by their value numbers. -/
def LPath.key (p : LPath) (t : List (List Nat)) (xs : List (Bool × Nat)) : List (List Nat) × List Nat :=
  xs.foldl (fun (r : List (List Nat) × List Nat) x =>
    if x.1 then let y := p.number r.1 x.2; (y.1, r.2 ++ [7, y.2]) else (r.1, r.2 ++ [6, x.2])) (t, [])

/-- A predicate, or its complement, decided: the ways in which the path goes on, with the outcome. -/
def LPath.decide (p : LPath) (t : List (List Nat)) (neg : Bool) (q : Nat) : List (List Nat) × List (LPath × Bool) :=
  if q = 0 then (t, [(p, !neg)])
  else
    let n := p.number t (1024 + q)
    match p.lits.find? (fun x => x.1 == n.2) with
    | some x => (n.1, [(p, x.2 != neg)])
    | none => (n.1, [true, false].map (fun b => ({ p with lits := (n.2, b) :: p.lits }, b != neg)))

/-- The registers of a computation written on a path. -/
def LPath.put (r : List (List Nat) × LPath) (k ds : List Nat) : List (List Nat) × LPath :=
  ds.zipIdx.foldl (fun (r : List (List Nat) × LPath) d =>
    let n := numberOf r.1 (8 :: d.2 :: k)
    (n.1, { r.2 with env := (d.1, n.2) :: r.2.env, wrote := d.1 :: r.2.wrote })) r

/-- One instruction on a path: the ways in which it goes on. -/
def LPath.step (p : LPath) (t : List (List Nat)) (i : Instr) : List (List Nat) × List LPath :=
  let live := p.act.all (fun a => a.1 && a.2)
  match i, p.act with
  | .ifP n q _, _ =>
    if live then let b := p.decide t n q; (b.1, b.2.map (fun x => { x.1 with act := (true, x.2) :: x.1.act })) else (t, [{ p with act := (false, false) :: p.act }])
  | .elseP _, (w, c) :: r => (t, [{ p with act := (w, !c) :: r }])
  | .endif, _ :: r => (t, [{ p with act := r }])
  | i, _ =>
    if !live then (t, [p])
    else
      let g := (match i.view with | some v => v.guard | none => none).getD ⟨0, false⟩
      let ks := (instrKeys i).foldl (fun (r : List (List Nat) × List (List Nat × List Nat)) x => let y := p.key r.1 x.1; (y.1, r.2 ++ [(y.2, x.2)])) (t, [])
      let b := p.decide ks.1 g.neg g.p
      b.2.foldl (fun (r : List (List Nat) × List LPath) x =>
        if x.2 then let y := ks.2.foldl (fun y k => LPath.put y k.1 k.2) (r.1, x.1); (y.1, r.2 ++ [y.2]) else (r.1, r.2 ++ [x.1])) (b.1, [])

/-- The paths of a lane through a code. -/
def lanePaths (t : List (List Nat)) (c : Code) : List (List Nat) × List LPath :=
  c.foldl (fun r x => r.2.foldl (fun (y : List (List Nat) × List LPath) p => let z := p.step y.1 x.2; (z.1, y.2 ++ z.2)) (r.1, [])) (t, [{}])

/-- Whether a code writes each of the registers wherever another does (R372): on each of its paths which decides no value otherwise than the other's path does. -/
def writesWith (orig code : Code) (outs : List Nat) : Bool :=
  let a := lanePaths [] orig
  let b := (lanePaths a.1 code).2
  a.2.all (fun p => b.all (fun q => p.lits.any (fun x => q.lits.contains (x.1, !x.2)) || outs.all (fun c => !p.wrote.contains c || q.wrote.contains c)))

/-- Whether a code holds a loop. -/
def loops (c : Code) : Bool := c.any (fun x => x.2 == .loop)

/-- Whether a candidate obeys R372 for its target's region. It writes every live-out on every path, or where neither code loops wherever the original does; that another candidate writes them there too is more than this analysis sees, and it is not built (log 119). -/
def candidateOk (bud : Nat) (info : RInfo) (code : Code) : Bool :=
  let f := flowOf code
  let ins := f.ins.map (·.1)
  let kept := fun c => (c < info.vlive) || (320 ≤ c && c < 328 && info.olive.testBit (c - 320))
  let outs := info.vout ++ info.pout.map (· + 1024)
  f.ok && f.frames.isEmpty && code.all (fun x => pureKind x.2) && jumpsIn [] code && (code.map (fun x => halves x.2)).foldl (· + ·) 0 ≤ 32
  && ins.all (fun c => info.vin.contains c || info.sin == some c || (1024 < c && info.pin.contains (c - 1024)))
  && f.outs.all (fun c => outs.contains c || (c < bud && !kept c) || (320 ≤ c && c < 328 && !kept c))
  && outs.all (fun c => f.outs.contains c) && (outs.all (fun c => f.done.contains c) || (!loops info.code && !loops code && writesWith info.code code outs))

/-- CANDIDATE_BUILD: firmware builds a candidate for a target into the Paddock of the function's die; what its cost model says is the event's (log 35). -/
def execCandidateBuild (vf target : Nat) (code : List W32) (s : State) : Host.Outcome State Fault Refusal :=
  let g := (s.vf vf).graze
  let die := dieOfCore ((s.vfCores vf).headD 0)
  .next (match g.targets[target]? with
    | none => s
    | some t =>
      let used := (s.vfs.map (fun x => (x.2.graze.paddock.filter (fun c => c.die == die)).length)).foldl (· + ·) 0
      if t.ev.isNone || 128 ≤ used || 2 ^ 26 ≤ g.next then s
      else match s.region vf t.bud t.pc, decodeCode t.bud 64 0 code with
        | some info, some c =>
          if candidateOk t.bud info c then s.modVf vf (fun f => { f with graze := { f.graze with paddock := f.graze.paddock ++ [⟨f.graze.next, t.key, die, code⟩], next := f.graze.next + 1 } }) else s
        | _, _ => s)

/-- A code run on one lane's live-ins: its live-outs, none where it does not end. -/
def runLane (info : RInfo) (bud : Nat) (fm nm : W32) (c : Code) (g : GLive) : Option GLive :=
  (runPure bud c (codeLen c) spotFuel (pureWave (putLive info {} 0 g) 1 fm nm [])).map (fun w => liveOf w.regs info.vout none info.pout 0)

/-- The five values of an integer type (R373). -/
def edgeValues (n : Nat) (signed : Bool) : List Int :=
  [0, 1, -1] ++ (if signed then ([-((2 ^ (n - 1) : Nat) : Int), ((2 ^ (n - 1) - 1 : Nat) : Int)] : List Int) else [0, ((2 ^ n - 1 : Nat) : Int)])

/-- The 64 bits that an integer live-in takes for a value of its type: an element narrower than 32 bits stands in every place (DESIGN CHOICE, log 136). -/
def edgeBits (n : Nat) (x : Int) : Nat :=
  if n < 32 then ((List.range (64 / n)).map (fun k => (x % 2 ^ n).toNat * 2 ^ (n * k))).foldl (· + ·) 0 else (x % 2 ^ 64).toNat

/-- Whether a code is the upper word of a pair whose lower word is replaced with it. -/
def pairTop (info : RInfo) (c : Nat) : Bool :=
  info.ints.any (fun y => y.1 == c && y.2.part == 2) && info.ints.any (fun y => y.1 + 1 == c && y.2.part == 1)

/-- A live value with an integer live-in replaced: the s register; a whole word; the two words of a pair together, one alone where the other is no such live-in; of a 64-bit count the bits that its register holds (R286; log 136). -/
def putInt (info : RInfo) (g : GLive) (c : Nat) (u : IntUse) (x : Int) : GLive :=
  let y := edgeBits u.width x
  let low := if u.part = 2 then y / 2 ^ 32 else y
  if info.sin == some c then { g with s := BitVec.ofNat 64 y }
  else { g with v := (info.vin.zip g.v).map (fun z => if z.1 = c then BitVec.ofNat 32 low else if u.part = 1 && z.1 = c + 1 && pairTop info z.1 then BitVec.ofNat 32 (y / 2 ^ 32) else z.2) }

/-- The edge set of a sample (R373). -/
def edgeSet (info : RInfo) (g : GLive) : List GLive :=
  (info.ints.filter (fun x => !pairTop info x.1)).flatMap (fun x => (edgeValues x.2.width x.2.signed).map (putInt info g x.1 x.2))

/-- The test of a candidate (R373). -/
def testPasses (info : RInfo) (t : GTarget) (c : Code) : Bool :=
  let run := runLane info t.bud t.fmode t.nmode
  512 ≤ t.samples.length && t.samples.all (fun x => run c x.1 == some x.2)
  && (t.ev != some 1 || ((t.samples.take 32).flatMap (fun x => edgeSet info x.1)).all (fun g => (run c g).isSome && run c g == run info.code g))

/-- CANDIDATE_TEST: candidate cand of the function's Paddock is installed GUARDED, or discarded; it waits while the target has fewer than 512 samples or 64 entries are live. -/
def execCandidateTest (vf cand : Nat) (s : State) : Host.Outcome State Fault Refusal :=
  let g := (s.vf vf).graze
  .next (match g.paddock[cand]? with
    | none => s
    | some c => match g.targets.find? (fun t => t.key == c.target) with
      | none => s.modVf vf (fun f => { f with graze := { f.graze with paddock := f.graze.paddock.eraseIdx cand } })
      | some t =>
        if t.samples.length < 512 || 64 ≤ (g.folds.filter (fun f => f.st != .culled)).length then s
        else
          let s := s.modVf vf (fun f => { f with graze := { f.graze with paddock := f.graze.paddock.eraseIdx cand } })
          match s.region vf t.bud t.pc, decodeCode t.bud 64 0 c.code with
          | some info, some code =>
            if testPasses info t code && !(g.folds.any (fun f => f.st != .culled && f.pc == t.pc && f.fmode == t.fmode && f.nmode == t.nmode)) then
              s.modFolds vf (fun l => l ++ [{ seq := c.seq, pc := t.pc, fmode := t.fmode, nmode := t.nmode, code := c.code, bud := t.bud, size := info.close - t.pc, ev := t.ev.getD 1 }])
            else s
          | _, _ => s)

/-! ## Comparisons (R377) -/

/-- HURDLE_COMPARISON: the comparison in place slot of the list completes, unless 4,096 cycles have passed since the closing marker. -/
def execHurdleComparison (slot : Nat) (s : State) : Host.Outcome State Fault Refusal :=
  .next (match s.hurdles[slot]? with
    | none => s
    | some h =>
      let v := ((s.launch h.launch).map (·.vf)).getD 0
      if s.shut h.core h.quarter || (match h.closed with | none => true | some t => decide (t + 4096 < s.cycle)) then s
      else match s.fold v h.fold with
        | none => { s with hurdles := s.hurdles.eraseIdx slot }
        | some f => match s.region v f.bud f.pc, f.run f.bud h.entry h.mask pureFuel with
          | some info, some r =>
            State.compared { s with hurdles := s.hurdles.eraseIdx slot } v h.fold h.launch h.stage h.uidx h.level (mismatch info h.entry h.result r h.mask)
          | _, _ => s)

/-- COMPARISON_ABANDON: 4,096 cycles have passed since the closing marker. -/
def execComparisonAbandon (slot : Nat) (s : State) : Host.Outcome State Fault Refusal :=
  .next (match s.hurdles[slot]? with
    | none => s
    | some h => match h.closed with
      | some t => if t + 4096 < s.cycle then { s with hurdles := s.hurdles.eraseIdx slot } else s
      | none => s)

/-- CULL_WITHDRAWAL_RECORD: the record of a culled variant (R384 step 3). -/
def execCullWithdrawalRecord (vf id : Nat) (s : State) : Host.Outcome State Fault Refusal :=
  .next (match s.fold vf id with
    | none => s
    | some f =>
      if f.st != .culled || f.posted then s
      else (s.modFold vf id (fun f => { f with posted := true })).gPost vf (fun fl => gRecord vf f f.cause (s.elWrite vf) (s.hwN (gBase vf + 8) 1) fl))

end Sys2Proof.Machine
end

