-- ==== Sys2Proof/Machine/Ras.lean ====
section
/-! DEFINITION. Errors and repair (R87, R396 to R398), the reset of a function (R400, R448), bellwether records (R402), the hypervisor's hold of a trace unit (R404), writes of the hypervisor's registers (R9, R18, R370, R391, R416 to R419). -/

namespace Sys2Proof.Machine

/-! ## The RAS ring (R398, R416) -/

/-- A record for the RAS ring, sent line by line where the ring lies in a fabric window; none where it lies outside every range of R15 (log 14). A ring that is not set up discards it. -/
def State.rasPut (s : State) (kind cls die vault bank row col paddr : Nat) : Option State :=
  let b := s.hwN 0x1200 8
  let l := s.hwN 0x1208 1
  let k := s.hwN 0x1210 8
  if b = 0 || l < 6 || 16 < l then some s
  else
    let a := b + 32 * (k % 2 ^ l)
    if isHole a then none
    else
      let bs := toBytes kind 1 ++ toBytes cls 1 ++ toBytes die 1 ++ toBytes vault 1 ++ toBytes bank 4 ++ toBytes row 4 ++ toBytes col 4 ++ toBytes paddr 8 ++ toBytes s.cycle 8
      some ((if isFabric a then s.ringSend 16384 a a bs else s.homeWrite a bs).setHw 0x1210 (k + 1) 8)

/-- The outcome of an event that may write the RAS ring. -/
def rasOutcome (s : Option State) : Host.Outcome State Fault Refusal :=
  match s with
  | some s => .next s
  | none => .fault .physicalHole

/-- Bank, row and column of a line of stacked DRAM, and the line of a bank's row and column: the device's (log 36). -/
def bankOf (p : Nat) : Nat := Config.freeNat (2 ^ 48 + p / 64) % 2 ^ 32
def rowOf (p : Nat) : Nat := Config.freeNat (2 ^ 49 + p / 64) % 2 ^ 32
def colOf (p : Nat) : Nat := Config.freeNat (2 ^ 50 + p / 64) % 2 ^ 32
/-- Line i of a vault: 64 lines in each of its 4 KiB blocks, which lie 16 blocks apart (R82). -/
def vaultLine (die vault i : Nat) : Nat := die * 0xC00000000 + (i / 64 * 16 + vault) * 4096 + i % 64 * 64
/-- The first of lines i to i + n − 1 of a vault that lies in the bank, row and column. -/
def lineSeek (die vault bank row col : Nat) : Nat → Nat → Option Nat
  | 0, _ => none
  | n + 1, i =>
    let p := vaultLine die vault i
    if bankOf p = bank ∧ rowOf p = row ∧ colOf p = col then some p else lineSeek die vault bank row col n (i + 1)
/-- The line of a bank's row and column; where the vault has none there, a line of the vault that is a free value. -/
def lineOf (die vault bank row col : Nat) : Nat :=
  (lineSeek die vault bank row col 50331648 0).getD (vaultLine die vault (Config.freeNat (2 ^ 170 + (((die * 16 + vault) * 2 ^ 32 + bank) * 2 ^ 32 + row) * 2 ^ 32 + col) % 50331648))

/-! ## Uncorrectable errors (R87, R396) -/

/-- A change of a wave's poison marks, where a wave is. -/
def State.poisonWave (s : State) (id : Nat) (f : Marks → Marks) : State :=
  s.modWave id (fun w => if w.st == .empty then w else { w with poison := f w.poison })

/-- An error in control state ends the unit at once; it is attributed to the wave whose state it is (R392, R396). -/
def controlTrap : Trap := { cause := 0x0A, detail := 0x80 }
def State.controlError (s : State) (u id : Nat) : State :=
  let w := s.wave id
  s.faultUnit u { control := true, widx := w.widx, pc := w.recPc, seq := w.seq, time := w.clock } controlTrap

/-- The unit that a slot belongs to, also after its wave has exited (R112). -/
def State.holderOf (s : State) (id : Nat) : Option Nat :=
  (s.units.find? (fun (x : Nat × Option UnitR) => match x.2 with | some r => r.slots.contains id | none => false)).map (·.1)

/-- An error in the slot status entry of a parked identity (R111) ends its unit: in its saved form, or where it is being restored. The record names the saved wave (R392). -/
def State.parkedError (s : State) (id : Nat) : State :=
  match s.saved.find? (fun x => x.parked.contains id) with
  | none => s
  | some x =>
    let w := (x.waves[x.parked.idxOf id]?).getD {}
    let b : Blame := { control := true, widx := w.widx, pc := w.recPc, seq := w.seq, time := w.clock }
    match x.back with
    | some u => s.faultUnit u b controlTrap
    | none => s.faultSaved x b controlTrap

/-- A poisoned tier-2 line counts in the bank of the function whose page holds it (R401). -/
def State.countPoison (s : State) (p : Nat) : State :=
  match s.vfs.find? (fun x => x.2.resident.any (fun r => r.2.2 ≤ p && p < r.2.2 + pageBytes r.2.1)) with
  | some x => if s.poison.contains (p / 64) then s else s.bump x.1 (homeDie p) 3 2 1
  | none => s

/-- UNCORRECTABLE_ERROR. The unit store buffer is control state (R396). -/
def execUncorrectableError (t : ErrTarget) (s : State) : Host.Outcome State Fault Refusal :=
  match t with
  | .vLane slot n lane => .next (s.poisonWave slot (fun m => { m with v := mset false m.v (key n lane) true }))
  | .oLane slot n lane => .next (s.poisonWave slot (fun m => { m with o := mset false m.o (key n lane) true }))
  | .yLane slot n lane => .next (s.poisonWave slot (fun m => { m with y := mset false m.y (key n lane) true }))
  | .sReg slot n => .next (s.poisonWave slot (fun m => { m with s := mset false m.s n true }))
  | .pLane slot lane => .next (s.poisonWave slot (fun m => { m with p := (List.range 128).foldl (fun p k => if k = 0 then p else mset false p (key k lane) true) m.p }))
  | .spWord core word => .next (s.modCore core (fun x => { x with spPoison := mset false x.spPoison word true }))
  | .accWord core word => .next (s.modCore core (fun x => { x with accPoison := mset false x.accPoison word true }))
  | .latch slot source lane =>
    let w := s.wave slot
    .next (match if source = 0 then w.latA else if source = 1 then w.latB else w.latC with
      | none => s
      | some x => s.poisonWave slot (fun m =>
        if x.tag < 240 then { m with v := mset false m.v (key x.tag lane) true }
        else if 320 ≤ x.tag && x.tag < 328 then { m with o := mset false m.o (key (x.tag - 320) lane) true }
        else if x.tag = 328 || x.tag = 329 then { m with y := mset false m.y (key (x.tag - 328) lane) true }
        else m))
  | .sbLine unit n => .next (match (s.unit unit).bind (fun r => r.sb[n]?) with | some e => s.controlError unit e.ident | none => s)
  | .copyLine die line => .next (if (mget none (s.die die).fcache line).isSome then s.modDie die (fun x => { x with fbad := x.fbad.insert line }) else s)
  | .ring launch queue n => .next (s.modLaunch launch (fun l => { l with queues := l.queues.modify queue (fun q => if 64 * n < 2 ^ q.log2cap * (4 * q.size4) then { q with badl := nsAdd q.badl n } else q) }))
  | .line paddr =>
    if isLocal paddr then
      rasOutcome (State.rasPut { s with poison := nsAdd s.poison (paddr / 64) } 4 4 (homeDie paddr) (paddr % 0xC00000000 / 4096 % 16) (bankOf paddr) (rowOf paddr) (colOf paddr) (paddr / 64 * 64))
    else if isTier2 paddr then .next { (s.countPoison paddr) with poison := nsAdd s.poison (paddr / 64) }
    else .next s
  | .control slot =>
    .next (if 12480 ≤ slot then s.parkedError slot
      else if isCtl slot then (if (s.wave slot).st == .empty then s else s.faultCtl slot controlTrap)
      else match s.holderOf slot with
        | some u => s.controlError u slot
        | none => s)

/-! ## Corrected errors (R397) -/

/-- 24 hours in cycles (R2). -/
def dayCycles : Nat := 24 * 3600 * 1400000000

/-- The entries that have not lapsed. -/
def liveErrs (es : List ErrEntry) (now : Nat) : List ErrEntry := es.filter (fun e => now < e.last + dayCycles)

/-- The table after a correction; a full table loses its oldest entry (log 37). -/
def addErr (es : List ErrEntry) (vault bank row col now : Nat) : List ErrEntry :=
  let same := fun (e : ErrEntry) => e.vault == vault && e.bank == bank && e.row == row && e.col == col
  if es.any same then es.map (fun e => if same e then { e with last := now, count := e.count + 1 } else e)
  else (if es.length < 64 then es else es.drop 1) ++ [⟨vault, bank, row, col, now, 1⟩]

/-- Distinct columns of a row, rows of a column, and the rows and columns of a bank. -/
def colsIn (es : List ErrEntry) (vault bank row : Nat) : Nat := ((es.filter (fun e => e.vault == vault && e.bank == bank && e.row == row)).map (·.col)).eraseDups.length
def rowsIn (es : List ErrEntry) (vault bank col : Nat) : Nat := ((es.filter (fun e => e.vault == vault && e.bank == bank && e.col == col)).map (·.row)).eraseDups.length
def hasBank (es : List ErrEntry) (vault bank : Nat) : Bool :=
  let b := es.filter (fun e => e.vault == vault && e.bank == bank)
  3 ≤ (b.map (·.row)).eraseDups.length && 3 ≤ (b.map (·.col)).eraseDups.length && b.all (fun e => colsIn es vault bank e.row < 3 && rowsIn es vault bank e.col < 3)

/-- The classes that a correction reaches: cell 0, row 1, column 2, bank 3. -/
def reached (old new : List ErrEntry) (vault bank row col : Nat) : List Nat :=
  let n := fun (es : List ErrEntry) => ((es.find? (fun e => e.vault == vault && e.bank == bank && e.row == row && e.col == col)).map (·.count)).getD 0
  (if n old < 2 && 2 ≤ n new then [0] else []) ++ (if colsIn old vault bank row < 3 && 3 ≤ colsIn new vault bank row then [1] else [])
  ++ (if rowsIn old vault bank col < 3 && 3 ≤ rowsIn new vault bank col then [2] else []) ++ (if !hasBank old vault bank && hasBank new vault bank then [3] else [])

/-- Whether a frame has a 4 KiB block in a bank (R82). -/
def inBank (die vault bank a n : Nat) : Bool :=
  isLocal a && homeDie a == die && (List.range (n / 4096)).any (fun k => (a + 4096 * k) % 0xC00000000 / 4096 % 16 == vault && bankOf (a + 4096 * k) == bank)

/-- A class handled: its record, then a repair from the spares, an unrepaired record, or the bank's free frames removed. -/
def State.classed (die vault bank row col : Nat) (s : Option State) (cls : Nat) : Option State :=
  match s with
  | none => none
  | some s =>
    let p := lineOf die vault bank row col
    match s.rasPut 1 cls die vault bank row col p with
    | none => none
    | some s =>
      if cls = 3 then
        some ({ (s.modDie die (fun d => { d with removed := d.removed ++ [(vault, bank)] })) with vfs := s.vfs.map (fun x => (x.1, { x.2 with pool := x.2.pool.filter (fun f => !inBank die vault bank f.1 (pageBytes f.2)) })) })
      else
        let k := 2 * (16 * bank + vault) + cond (cls == 1) 0 1
        let used := mget 0 (s.die die).spares k
        if used < (if cls = 1 then 8 else 4) then
          some (s.modDie die (fun d => { d with spares := mset 0 d.spares k (used + 1), repairs := d.repairs ++ [(vault, bank, cls, row, col)] }))
        else s.rasPut 3 cls die vault bank row col p

/-- CORRECTED_ERROR. -/
def execCorrectedError (die vault bank row col : Nat) (s : State) : Host.Outcome State Fault Refusal :=
  if 4 ≤ die || 16 ≤ vault then .next s
  else
    let old := liveErrs (s.die die).errs s.cycle
    let new := addErr old vault bank row col s.cycle
    let s := s.modDie die (fun d => { d with errs := new })
    rasOutcome ((reached old new vault bank row col).foldl (State.classed die vault bank row col) (some s))

/-- DRAM_REPAIR: the copy to a spare row or column is complete. -/
def execDramRepair (die vault bank : Nat) (isRow : Bool) (n : Nat) (s : State) : Host.Outcome State Fault Refusal :=
  match (s.die die).repairs.find? (fun r => r.1 == vault && r.2.1 == bank && (r.2.2.1 == 1) == isRow && (if isRow then r.2.2.2.1 else r.2.2.2.2) == n) with
  | none => .next s
  | some r =>
    rasOutcome ((s.modDie die (fun d => { d with repairs := d.repairs.erase r })).rasPut 2 r.2.2.1 die vault bank r.2.2.2.1 r.2.2.2.2 (lineOf die vault bank r.2.2.2.1 r.2.2.2.2))

/-- CORRECTION_ENTRY_LAPSE. -/
def execCorrectionEntryLapse (die n : Nat) (s : State) : Host.Outcome State Fault Refusal :=
  .next (match (s.die die).errs[n]? with
    | some e => if e.last + dayCycles ≤ s.cycle then s.modDie die (fun d => { d with errs := d.errs.eraseIdx n }) else s
    | none => s)

/-! ## The reset of a function (R400, R448) -/

/-- The place of a queue's STATE byte in the window. -/
def isQState (k : Nat) : Bool := 0x80000 ≤ k && k < 0x100000 && k % 64 == 0x0B

/-- Steps 1 and 2: queues stop, units and control programs are killed without records, page requests are retired. -/
def State.startReset (s : State) (v : Nat) : State :=
  let s := { s with hw := s.hw.filter (fun e => !(isQState e.1 && s.hwN (e.1 - 2) 1 == v)) }
  let s := (s.setHw (64 * v + 9) 2 1).modVf v (fun f => { f with resetting := true, key := 0 })
  let s := (s.vf v).sweeps.foldl (fun (s : State) w => match w.window with | some n => { s with winOld := mset none s.winOld n none } | none => s) s
  let s := s.units.foldl (fun (s : State) (x : Nat × Option UnitR) => match x.2 with | some r => if r.vf == v then s.tearDown x.1 r else s | none => s) s
  let s := (s.vfCores v).foldl (fun (s : State) c =>
    let id := ctlId c
    if (s.wave id).st == .empty then s
    else
      let lo := (s.own id).pubd
      let s := s.dropWork [id]
      State.vacate { s with purges := s.purges ++ [(⟨id, lo, [], none, v⟩ : Purge)] } id) s
  let mine := fun (l : Nat) => ((s.launch l).map (·.vf)) == some v
  let s := { s with purges := s.purges ++ (s.saved.filter (fun (x : SavedUnit) => x.unit.vf == v)).flatMap (fun (x : SavedUnit) => x.parked.map (fun id => (⟨id, 0, [], none, v⟩ : Purge))) }
  let s := { s with pend := s.pend.filter (fun t => !mine t.launch), saved := s.saved.filter (fun x => x.unit.vf != v), hold := s.hold.filter (fun h => !mine h.launch), hurdles := s.hurdles.filter (fun h => !mine h.launch) }
  let s := { s with launches := s.launches.filter (fun (x : Nat × Option Launch) => match x.2 with | some l => l.vf != v | none => false) }
  s.modVf v (fun f => { f with svcq := [], sweeps := [], asleep := [], quar := (f.quar ++ (f.preqs.filter (fun (e : Nat × PageReq) => e.2.live && e.2.hostdata)).map (fun (e : Nat × PageReq) => (⟨e.2.gen * 256 + e.1, e.2.frame, e.2.psize, s.cycle, false⟩ : Quar))).map (fun (q : Quar) => { q with reset := true }), preqs := f.preqs.map (fun (e : Nat × PageReq) => (e.1, if e.2.live then { e.2 with live := false, gen := (e.2.gen + 1) % 256, joined := [], cmds := [], reset := true } else { e.2 with reset := true })) })

/-- FUNCTION_RESET: CMD = 1, ignored unless STATE is 1. -/
def execFunctionReset (vf : Nat) (s : State) : Host.Outcome State Fault Refusal :=
  .next (if vf < 64 && s.hwN (64 * vf + 9) 1 == 1 then s.startReset vf else s)

/-- A core scrubbed (R400 step 4). -/
def Core.scrubAll (x : Core) (v : Nat) : Core :=
  { x with spad := [], spPoison := [], acc := [], accPoison := [], accTaint := [], banks := [], accQ := [], evq := [], evWait := [], tlb := x.tlb.filter (fun p => p.vf != v), wcache := x.wcache.filter (fun e => e.1 != v), scache := [], cmds := [], locks := [] }

/-- The identities of a function's cores. -/
def coreIds (cs : List Nat) : List Nat := cs.flatMap (fun c => ctlId c :: (List.range 64).map (fun k => 64 * c + k))

/-- Step 4: everything of the function scrubbed, its records purged, those of its parked identities among them, its reservations deleted and their frames zero-filled into the reserve; the free frames of its pool stay. -/
def State.scrubVf (s : State) (v : Nat) : State :=
  let cs := s.vfCores v
  let ids := coreIds cs
  let s := cs.foldl (fun (s : State) c => s.modCore c (fun x => x.scrubAll v)) s
  let mine := fun (p : Purge) => ids.contains p.ident || (12480 ≤ p.ident && p.vf == v)
  let s := (ids ++ (s.purges.filter mine).map (·.ident)).foldl (fun (s : State) id => s.purge ⟨id, 0, [], none, v⟩) s
  let s := { s with purges := s.purges.filter (fun p => !mine p), ends := s.ends.filter (fun e => match e.2 with | some x => x.1 != v | none => false), recs := s.recs.filter (fun x => !(granSpad x.1 && cs.contains ((x.1 - 2 ^ 46) / 24576))) }
  let theirs := fun (x : Nat × Option (List Byte)) => bits (s.winEntry (bits (64 * x.1) 40 11)) 1 6 != v
  let s := ([0, 1, 2, 3] : List Nat).foldl (fun (s : State) d => s.modDie d (fun x => { x with fcache := x.fcache.filter theirs })) s
  let f := s.vf v
  let s := f.resident.foldl (fun (s : State) x => let s := s.unmapPage v x.1 x.2.1; if isFabric x.2.2 then s else s.toReserve x.2.2 x.2.1) s
  s.modVf v (fun f => { f with resvs := [], resident := [], graze := {} })

/-- Step 5: counters and rings start again, with a new key; queues stay stopped with HEAD at TAIL (R448). -/
def State.endReset (s : State) (v : Nat) : State :=
  let heads := (s.hw.filter (fun e => 0x80000 ≤ e.1 && e.1 < 0x100000 && s.hwN (e.1 / 64 * 64 + 9) 1 == v)).map (fun e => e.1 / 64 * 64)
  let s := heads.eraseDups.foldl (fun (s : State) b => s.setHw (b + 0x14) (s.hwN (b + 0x10) 4) 4) s
  let s := ((((s.setHw (64 * v + 0x10) 0 8).setHw (64 * v + 0x20) 0 8).setHw (64 * v + 0x28) (s.hwN (64 * v + 0x28) 8 + 1) 8).setHw (64 * v + 9) 1 1)
  let n := s.fresh
  s.tick.modVf v (fun f => { f with banks := [], bankAt := s.cycle, keyGen := f.keyGen + 1, key := Config.freeKey n, resetting := false, ctab := [], dtvec := 0, ctxsv := 0, ctxrs := 0, ctxpool := 0, areas := [] })

/-- FUNCTION_RESET_COMPLETE: once no request of the function is under way (R400 step 3). -/
def execFunctionResetComplete (vf : Nat) (s : State) : Host.Outcome State Fault Refusal :=
  let ids := coreIds (s.vfCores vf)
  .next (if !(s.vf vf).resetting || s.reqs.any (fun q => ids.contains q.ident || (q.ident == 16384 && s.windowVf q.line == vf)) || s.changes.any (fun c => ids.contains c.ident) then s
    else (s.scrubVf vf).endReset vf)

/-! ## Bellwether records and trace units (R402, R404) -/

/-- Whether a bellwether's instruction has written back (R402): its load, its claims' verdicts and its result are there. -/
def State.bellDone (s : State) (b : Bell) : Bool :=
  let w := s.wave b.ident
  w.loads.all (fun l => !b.ops.contains l.id) && s.claims.all (fun c => !(c.ident == b.ident && b.ops.contains c.op)) && s.verdicts.all (fun v => !(v.claim.ident == b.ident && b.ops.contains v.claim.op))
  && (b.dst.isEmpty || !w.busy.contains b.dst)

/-- BELLWETHER_RECORD: the tagged instruction of a quarter has written back; the times, the LEVEL among those that the instruction admits, and the flags of co-issue and power are free values (log 38). -/
def execBellwetherRecord (core quarter : Nat) (s : State) : Host.Outcome State Fault Refusal :=
  .next (match (s.quarter core quarter).bell with
    | none => s
    | some x =>
      if !s.bellDone x then s
      else
      let v := ((s.core core).vf).getD 0
      let s := s.modQuarter core quarter (fun z => { z with bell := none })
      let b := s.hwN (64 * v + 0x18) 8
      let l := s.hwN (64 * v + 0x0B) 1
      let k := s.hwN (64 * v + 0x20) 8
      if b = 0 || l < 6 || 16 < l then s
      else
        let n := s.fresh
        let s := s.tick
        let fr := fun (j : Nat) => Config.freeNat (2 ^ 200 + 16 * n + j)
        let times := ([1, 2, 3, 4, 5] : List Nat).map fr
        let flags := cond x.var 1 0 + fr 6 % 4 * 2 + cond x.hold 8 0 + cond (times.any (fun t => decide (0xFFFF ≤ t))) 16 0
        let bs := toBytes x.pc.toNat 8 ++ toBytes x.seq 4 ++ toBytes (s.logical core) 2 ++ toBytes (x.ident % 64) 1 ++ toBytes (x.levels.getD (fr 0 % x.levels.length) 0) 1
          ++ times.flatMap (fun t => toBytes (min t 0xFFFF) 2) ++ toBytes flags 1 ++ toBytes 0 1 ++ toBytes x.lid 4
        match s.ringPut v (b + 32 * (k % 2 ^ l)) bs with
        | some s => s.setHw (64 * v + 0x20) (k + 1) 8
        | none => s)

/-- The hypervisor takes a core's trace unit, or releases it (R404). -/
def State.holdTrace (s : State) (c : Nat) (on : Bool) : State :=
  if (s.core c).lent == on then s
  else
    let s := s.modCore c (fun x => { x with lent := on })
    match (s.core c).vf with
    | some v => s.notice v (s.logical c) (if on then 1 else 2)
    | none => s

def execTraceHypervisorHold (core : Nat) (s : State) : Host.Outcome State Fault Refusal := .next (s.holdTrace core true)
def execTraceHypervisorRelease (core : Nat) (s : State) : Host.Outcome State Fault Refusal := .next (s.holdTrace core false)

/-! ## Writes of the hypervisor's registers (R9) -/

/-- The read-only window on a function's Graze settings block (R370): the hypervisor maps its page of grazePages at a virtual address, for the guest kernel, uncached, pinned and not written (DESIGN CHOICE, log 120). -/
def State.mapGraze (s : State) (v va : Nat) : State :=
  let (s, t) := State.tableFor s v va 0
  State.dropTables { s with mem := writeN s.mem (t + 8 * vIndex va 0) (leafBits v 8 0 2 false + (grazePages + 4096 * v)) 8 } v va 0


/-- The bits of lo to lo + n − 1. -/
def keepBits (v : Nat) (fs : List (Nat × Nat)) : Nat := fs.foldl (fun a f => a + bits v f.1 f.2 * 2 ^ f.1) 0

/-- A window entry or kind bit changed: the old one holds until the cores of the window's owner have carried out a sweep, of the reservations of the window or of no page where there is none (R18). The owner is that of the entry in effect, of the new one where that entry is invalid (DEDUCED, log 128). -/
def State.changeWindow (s : State) (n : Nat) (put : State → State) : State :=
  let old := (s.winEntry n, s.winKind n)
  let s := put s
  let v := bits (if old.1.testBit 0 then old.1 else s.hwN (0x2000 + 16 * n) 16) 1 6
  let rs := (s.vf v).resvs.filter (fun r => r.kind == 2 && r.window == n)
  let held := fun (r : Resv) => ((s.vf v).framesIn r.base r.len).map (fun x => (x.2.2, x.2.1))
  let sweep := fun (base len : Nat) (fs : List (Nat × Nat)) (s : State) => s.beginSweep v { base := base, len := len, todo := [], unacked := [], frames := fs, free := false, req := none, window := some n }
  if (s.vfCores v).isEmpty then s
  else (if rs.isEmpty then sweep 0 0 [] else fun s => rs.foldl (fun (s : State) r => sweep r.base r.len (held r) s) s)
    { s with winOld := mset none s.winOld n (some old) }

/-- A write of one of the registers of the hypervisor window or of the blocks behind it: RW fields take the value, the others ignore it. A clear LEND ends the loans of its function's cores (R202). -/
def State.regPut (s : State) (r : HReg) (v : Nat) : State :=
  match r with
  | .frbase f => s.setHw (64 * (f % 64)) v 8
  | .frlog2 f => s.setHw (64 * (f % 64) + 8) v 1
  | .brlog2 f => s.setHw (64 * (f % 64) + 0x0B) v 1
  | .bwlog2 f => s.setHw (64 * (f % 64) + 0x0C) v 1
  | .bwbase f => s.setHw (64 * (f % 64) + 0x18) v 8
  | .cmd f => if v % 256 = 1 ∧ f < 64 ∧ s.hwN (64 * f + 9) 1 = 1 then s.startReset f else s
  | .fcbState _ | .frwrite _ | .bwwrite _ | .resets _ => s
  | .hostEntry f =>
    let s := (s.settlePower).setHw (0x1000 + 8 * (f % 64)) (keepBits v [(32, 16), (31, 1), (24, 5), (0, 13)]) 8
    if v.testBit 31 then s else (s.vfCores (f % 64)).foldl (fun (s : State) c => if (s.core c).lendTo.isSome then s.modCore c (fun x => { x with lendTo := none }) else s) s
  | .rasbase => s.setHw 0x1200 v 8
  | .raslog2 => s.setHw 0x1208 v 1
  | .raswrite => s
  | .pkgid => s
  | .fabctl => if v.testBit 1 then { s with switching := true } else s
  | .linkup => s
  | .linkdir => s.setHw 0x1418 (v % 2 ^ 48) 8
  | .fmnode => s.setHw 0x1420 (keepBits v [(16, 1), (13, 1), (0, 13)]) 8
  | .hvnode => s.setHw 0x1428 (keepBits v [(16, 1), (13, 1), (0, 13)]) 8
  | .pwrlim => s.settlePower.setHw 0x1500 (max 1800 (min 3600 (v % 65536))) 8
  | .pwrnow => s
  | .floor => s.setHw 0x1510 (max 40 (min 90 (v % 128))) 8
  | .tmax => s
  | .window n => if n < 2048 then s.changeWindow n (fun s => s.setHw (0x2000 + 16 * n) (v % 2 ^ 116) 16) else s
  | .kind n =>
    if n < 2048 then s.changeWindow n (fun s =>
      let b := s.hwN (0xA000 + n / 8) 1
      s.setHw (0xA000 + n / 8) (b - cond (b.testBit (n % 8)) (2 ^ (n % 8)) 0 + v % 2 * 2 ^ (n % 8)) 1)
    else s
  | .route b n => if cond b 1 0 = s.bank then s else s.setHw (0x10000 + cond b 0x20000 0 + 8 * (n % 16384)) (keepBits v [(62, 2), (0, 48)]) 8
  | .key b port k => if cond b 1 0 = s.bank then s else s.setHw (0x50000 + cond b 0x400 0 + 16 * (port % 48) + 2 * (k % 8)) v 2
  | .qRingbase q => s.setHw (qBlock (q % 8192)) v 8
  | .qLog2n q => s.setHw (qBlock (q % 8192) + 8) v 1
  | .qVf q => s.setHw (qBlock (q % 8192) + 9) v 1
  | .qPrio q => s.setHw (qBlock (q % 8192) + 0x0A) v 1
  | .qState q => if v % 256 = 1 then s.setHw (qBlock (q % 8192) + 0x0B) 1 1 else s
  | .qErrcode _ | .qHead _ => s
  | .qTail q => if q < 8192 then s.doorbell q v else s
  | .elbase f => s.setHw (gBase (f % 64)) v 8
  | .ellog2 f => s.setHw (gBase (f % 64) + 8) v 1
  | .gqlog2 f => s.setHw (gBase (f % 64) + 9) v 1
  | .thlog2 f => s.setHw (gBase (f % 64) + 0x0A) v 1
  | .gflags f => s.setHw (gBase (f % 64) + 0x0B) (v % 2) 1
  | .gwindow f => s.setHw (gBase (f % 64) + 0x0C) v 4
  | .gqbase f => s.setHw (gBase (f % 64) + 0x10) v 8
  | .elwrite _ | .gqwrite _ => s
  | .gqread f => s.putGqread (f % 64) v
  | .group f n => s.setHw (0x1010000 + 4096 * (f % 64) + 16 * (n % 256)) (keepBits v [(112, 16), (76, 36), (65, 11), (54, 11), (44, 10), (0, 1)]) 16
  | .pageTimeout f => s.setHw (0x1100000 + 8 * (f % 64)) v 8
  | .grazeWindow f => s.mapGraze (f % 64) (v % 2 ^ 57 / 4096 * 4096)

def execRegisterWrite (r : HReg) (value : BitVec 128) (s : State) : Host.Outcome State Fault Refusal := .next (s.regPut r value.toNat)

end Sys2Proof.Machine
end

