-- ==== Sys2Proof/Machine/Fabric.lean ====
section
/-! DEFINITION. The fabric: requests that arrive (R48, R120, R182, R411, R416), what answers and refusals do at the requester (R116, R121, R125, R414, R415), links (R406, R413), the bank switch (R412). -/

namespace Sys2Proof.Machine

/-! ## The hypervisor window as bytes (R416) -/

/-- Where the window begins. -/
def winBase : Nat := 0x2FFF000000
/-- Whether an address lies in the window. -/
def inWindow (p : Nat) : Bool := winBase ≤ p && p < winBase + 0x1000000

/-- A byte of the measurement log (R422). -/
def State.logByte (s : State) (o : Nat) : Byte :=
  match s.mlog[o / 80]? with
  | some b => (toBytes b.1 4 ++ toBytes 0 12 ++ toBytes b.2.toNat 64).getD (o % 80) 0
  | none => 0
/-- A byte of the window as it reads. The spec gives the read-only page of a function's Graze block and its counter banks no place; the model lays them at offsets that R416 leaves free (DESIGN CHOICE, log 120). -/
def State.winByte (s : State) (o : Nat) : Byte :=
  if 0x60000 ≤ o && o < 0x70000 then s.logByte (o - 0x60000)
  else if 0xC00000 ≤ o && o < 0xC40000 then s.grazeByte (o - 0xC00000)
  else if 0xD00000 ≤ o && o < 0xD80000 then
    let k := (o - 0xD00000) % 0x2000 / 8
    (toBytes ((s.bankRead ((o - 0xD00000) / 0x2000) (k / 0x100 % 4) (k % 0x100 / 16) (k % 16)).getD 0) 8).getD (o % 8) 0
  else readB s.hw o

/-- The register of a function control block at an offset, with its place and size (R391). -/
def fcbReg (f k : Nat) : Option (HReg × Nat × Nat) :=
  if k < 8 then some (.frbase f, 0, 8) else if k = 8 then some (.frlog2 f, 8, 1) else if k = 9 then some (.fcbState f, 9, 1)
  else if k = 0x0A then some (.cmd f, 0x0A, 1) else if k = 0x0B then some (.brlog2 f, 0x0B, 1) else if k = 0x0C then some (.bwlog2 f, 0x0C, 1)
  else if k < 0x10 then none else if k < 0x18 then some (.frwrite f, 0x10, 8) else if k < 0x20 then some (.bwbase f, 0x18, 8)
  else if k < 0x28 then some (.bwwrite f, 0x20, 8) else if k < 0x30 then some (.resets f, 0x28, 8) else none

/-- The register of a queue control block at an offset (R182). -/
def qReg (q k : Nat) : Option (HReg × Nat × Nat) :=
  if k < 8 then some (.qRingbase q, 0, 8) else if k = 8 then some (.qLog2n q, 8, 1) else if k = 9 then some (.qVf q, 9, 1)
  else if k = 0x0A then some (.qPrio q, 0x0A, 1) else if k = 0x0B then some (.qState q, 0x0B, 1) else if k < 0x10 then some (.qErrcode q, 0x0C, 4)
  else if k < 0x14 then some (.qTail q, 0x10, 4) else if k < 0x18 then some (.qHead q, 0x14, 4) else none

/-- A register of the blocks at 0x1200, 0x1400 and 0x1500 (R416, R418, R419). -/
def blockReg (o : Nat) : Option (HReg × Nat × Nat) :=
  let at8 := fun (b : Nat) (r : HReg) => if b ≤ o && o < b + 8 then some (r, b, 8) else none
  (at8 0x1200 .rasbase).orElse fun _ => (if o = 0x1208 then some (.raslog2, 0x1208, 1) else none).orElse fun _ => (at8 0x1210 .raswrite).orElse fun _ =>
  (at8 0x1400 .pkgid).orElse fun _ => (at8 0x1408 .fabctl).orElse fun _ => (at8 0x1410 .linkup).orElse fun _ => (at8 0x1418 .linkdir).orElse fun _ =>
  (at8 0x1420 .fmnode).orElse fun _ => (at8 0x1428 .hvnode).orElse fun _ =>
  (at8 0x1500 .pwrlim).orElse fun _ => (at8 0x1508 .pwrnow).orElse fun _ => (at8 0x1510 .floor).orElse fun _ => at8 0x1518 .tmax

/-- The register that a byte of the window belongs to, with its first byte and its size; the kind vector is a matter of bits. -/
def regAt (o : Nat) : Option (HReg × Nat × Nat) :=
  if o < 0x1000 then (fcbReg (o / 64) (o % 64)).map (fun x => (x.1, o / 64 * 64 + x.2.1, x.2.2))
  else if o < 0x1200 then some (.hostEntry ((o - 0x1000) / 8), o / 8 * 8, 8)
  else if o < 0x1600 then blockReg o
  else if 0x2000 ≤ o && o < 0xA000 then some (.window ((o - 0x2000) / 16), o / 16 * 16, 16)
  else if 0x10000 ≤ o && o < 0x50000 then some (.route (0x30000 ≤ o) ((o - 0x10000) % 0x20000 / 8), o / 8 * 8, 8)
  else if (0x50000 ≤ o && o < 0x50300) || (0x50400 ≤ o && o < 0x50700) then some (.key (0x50400 ≤ o) (o % 0x400 / 16) (o % 16 / 2), o / 2 * 2, 2)
  else if 0x80000 ≤ o && o < 0x100000 then (qReg ((o - 0x80000) / 64) (o % 64)).map (fun x => (x.1, o / 64 * 64 + x.2.1, x.2.2))
  else none

/-- Bytes written into the window: each register that they reach takes its old bytes with the new ones over them (R9). -/
def State.winWrite (s : State) (o : Nat) (bs : List Byte) : State :=
  let new := fun (k : Nat) => if o ≤ k && k < o + bs.length then bs[k - o]? else none
  let regs := ((List.range bs.length).filterMap (fun i => regAt (o + i))).eraseDups
  let s := regs.foldl (fun (s : State) (r : HReg × Nat × Nat) =>
    s.regPut r.1 (ofBytes ((List.range r.2.2).map (fun i => (new (r.2.1 + i)).getD (s.winByte (r.2.1 + i)))))) s
  ((List.range bs.length).filter (fun i => 0xA000 ≤ o + i && o + i < 0xA100)).foldl (fun (s : State) i =>
    (List.range 8).foldl (fun (s : State) j => s.regPut (.kind (8 * (o + i - 0xA000) + j)) (cond ((bs.getD i 0).toNat.testBit j) 1 0)) s) s

/-! ## FABRIC_REQUEST_IN -/

/-- The bytes that a request concerns, and whether it writes. -/
def opSize : FabOp → Nat
  | .read n => n
  | .write bs => bs.length
  | .atomic _ sz _ => mszBytes sz
  | .cas sz _ _ => mszBytes sz
  | .atomics _ sz _ => mszBytes sz
  | .swaps sz _ => mszBytes sz
def opWrites : FabOp → Bool
  | .read _ => false
  | _ => true

/-- Lanes that name one address, one after another (R320): the old values in their order, and the last value. -/
def laneRun (n : Nat) : List (Nat → Nat) → Nat → List Byte × Nat
  | [], x => ([], x)
  | f :: r, x => let y := laneRun n r (f x); (toBytes x n ++ y.1, y.2)
/-- What the lanes of a request of several lanes do to the value that they find. -/
def opLanes : FabOp → List (Nat → Nat)
  | .atomics op sz bs => bs.map (fun b x => atomNew op (mszBytes sz) x b.toNat)
  | .swaps sz ps => ps.map (fun p x => if x = p.1.toNat % 2 ^ (8 * mszBytes sz) then p.2.toNat % 2 ^ (8 * mszBytes sz) else x)
  | _ => []
/-- The data of a request's answer, given the bytes that it finds. -/
def opAnswer (old : List Byte) (op : FabOp) : List Byte :=
  match op with
  | .write _ => []
  | .atomics .. | .swaps .. => (laneRun (opSize op) (opLanes op) (ofBytes old)).1
  | _ => old

/-- The bytes that a request leaves, where it leaves any, given those that it finds. -/
def opResult (old : List Byte) : FabOp → Option (List Byte)
  | .read _ => none
  | .write bs => some bs
  | .atomic op sz b => some (toBytes (atomNew op (mszBytes sz) (ofBytes old) b.toNat) (mszBytes sz))
  | .cas sz c n => if ofBytes old = c.toNat % 2 ^ (8 * mszBytes sz) then some (toBytes n.toNat (mszBytes sz)) else none
  | op => let x := (laneRun (opSize op) (opLanes op) (ofBytes old)).2; if x = ofBytes old then none else some (toBytes x (opSize op))

/-- The fabric manager's and the hypervisor's endpoint (R418). -/
def State.nodeAt (s : State) (o : Nat) : Option Endpoint :=
  let v := s.hwN o 8
  if v.testBit 16 then some ⟨v.testBit 13, v % 8192⟩ else none
def State.fmNode (s : State) : Option Endpoint := s.nodeAt 0x1420
def State.hvNode (s : State) : Option Endpoint := s.nodeAt 0x1428

/-- The writer column of R416. -/
def State.writerOf (s : State) (o : Nat) : Option Endpoint :=
  if o < 0x1220 || (0x1500 ≤ o && o < 0x1520) || (0x2000 ≤ o && o < 0xA100) || (0x80000 ≤ o && o < 0x100000) then s.hvNode
  else if (0x1400 ≤ o && o < 0x1440) || (0x10000 ≤ o && o < 0x50300) || (0x50400 ≤ o && o < 0x50700) then s.fmNode
  else none

/-- Whether a byte belongs to the active routing or key bank (R412). -/
def State.activeBank (s : State) (o : Nat) : Bool :=
  let b := s.bank
  (0x10000 + 0x20000 * b ≤ o && o < 0x30000 + 0x20000 * b) || (0x50000 + 0x400 * b ≤ o && o < 0x50300 + 0x400 * b)

/-- The queue whose TAIL word a request writes (R182). -/
def tailOf (o n : Nat) : Option Nat :=
  if 0x80000 ≤ o && o < 0x100000 && 0x10 ≤ o % 64 && o % 64 + n ≤ 0x14 then some ((o - 0x80000) / 64) else none

/-- The reason for which a request to the window is refused, 0 where it is accepted (R182, R412, R416, R448). -/
def State.winRefusal (s : State) (r : FabReq) (o : Nat) : Nat :=
  let n := (opSize r.op)
  let bytes := (List.range n).map (fun i => o + i)
  let strict := if r.pkey.toNat = 0xFFFF then
      (if !(opWrites r.op) then cond (s.hvNode == some r.src || s.fmNode == some r.src) 0 3
       else if bytes.all (fun k => s.writerOf k == some r.src) then cond (bytes.any s.activeBank) 1 0 else 3)
    else 3
  match (if (opWrites r.op) then tailOf o n else none) with
  | some q =>
    let v := s.hwN (0x80000 + 64 * q + 9) 1
    if v < 64 && r.src == s.hostNode v && r.pkey.toNat == s.hwN (0x1000 + 8 * v + 4) 2 then cond (s.vf v).resetting 1 0 else strict
  | none => strict

/-- IncomingCheck of a granule (R120). -/
def State.incoming (s : State) (p : Nat) (write : Bool) : Bool :=
  let g := p / 64
  let d := granDie g
  let x := mget {} s.recs g
  (match x.wr with | some r => s.classify d r none == .published | none => true)
  && (!write || (match x.rd with | some r => s.classify d r none != .opened | none => true))

/-- The function to whose page an address belongs. -/
def State.ownerOf (s : State) (p : Nat) : Option Nat :=
  (s.vfs.find? (fun (x : Nat × VFn) => x.2.resident.any (fun (f : Nat × Nat × Nat) => !isFabric f.2.2 && f.2.2 ≤ p && p < f.2.2 + pageBytes f.2.1))).map (·.1)
/-- The function with an open grant on an address (R48). -/
def State.grantOf (s : State) (p : Nat) : Option Nat :=
  (s.vfs.find? (fun (x : Nat × VFn) => x.2.preqs.any (fun (e : Nat × PageReq) => e.2.live && e.2.hostdata && e.2.frame ≤ p && p < e.2.frame + pageBytes e.2.psize))).map (·.1)

/-- The reason for which a request to memory is refused, 0 where it is accepted (R48, R120, R400, R448): what belongs to no function's page is refused, but for writes under a grant; an atomic or a compare-and-swap counts as a write there (DEDUCED, log 110). -/
def State.memRefusal (s : State) (r : FabReq) : Nat :=
  let bytes := (List.range (opSize r.op)).map (fun i => r.addr + i)
  let ok := bytes.all (fun p => (isLocal p || isTier2 p) && s.incoming p (opWrites r.op)
    && (match s.grantOf p with
      | some v => (opWrites r.op) && r.src == s.hostNode v && !(s.vf v).resetting
      | none => match s.ownerOf p with
        | some v => !(s.vf v).resetting
        | none => false))
  cond ok 0 1

/-- The answer to a request on the channel that answers its own: a status byte, 0 or the reason, and the data (R407, R415). -/
def State.answer (s : State) (r : FabReq) (status : Nat) (bs : List Byte) : State := s.post (r.chan + 1) r.pkey.toNat r.src (BitVec.ofNat 8 status :: bs)

/-- Bytes performed at their homes, line by line (R116). -/
def State.inWrite (s : State) (a : Nat) (bs : List Byte) : State :=
  (((List.range bs.length).map (fun i => (a + i) / 64)).eraseDups).foldl (fun (s : State) l =>
    s.maskWrite (64 * l) ((List.range bs.length).foldl (fun m i => if (a + i) / 64 == l then mput m ((a + i) % 64) (bs[i]?) else m) [])) s

/-- A request performed at this package as its target (R48, R116, R120, R182): the reason for which it is refused, 0 for none, and the data of its answer. -/
def State.serveReq (s : State) (r : FabReq) : State × Nat × List Byte :=
  let n := opSize r.op
  let win := inWindow r.addr
  let o := r.addr - winBase
  let why := if win then s.winRefusal r o else s.memRefusal r
  if why ≠ 0 then (s, why, [])
  else
    let old := (List.range n).map (fun i => if win then s.winByte (o + i) else readB s.mem (r.addr + i))
    let s := if win && 0xD00000 ≤ o && o < 0xD80000 then s.gather ((o - 0xD00000) / 0x2000) else s
    let s := match opResult old r.op with
      | some bs => if win then s.winWrite o bs else s.inWrite r.addr bs
      | none => s
    (s, 0, opAnswer old r.op)

/-- Whether a message travels on a channel of requests: responses, acknowledgements, refusals and link notices do not (R407). -/
def reqAsks (r : FabReq) : Bool := r.chan % 2 == 0

/-- A message in transit (R409): sent on under the package's own table. Where that has no way a request is refused to its source, and any other message is lost (R415; log 127). Its key has been checked at the port by which it came in, and is not checked where it leaves (R411). -/
def State.transit (s : State) (r : FabReq) (d : Endpoint) : State :=
  if (s.linksTo d).isEmpty then (if reqAsks r then s.answer r 2 [] else s)
  else { s with outbox := s.outbox ++ [{ chan := r.chan, key := r.pkey.toNat, dst := d, bytes := [], fwd := some r }] }

/-- FABRIC_REQUEST_IN. A module without power receives nothing. A message names its destination where that is another endpoint than this package; one that is no request and has no other destination answers nothing here, since FABRIC_ACKNOWLEDGE and its like bring the answers (log 127). -/
def execFabricRequestIn (r : FabReq) (s : State) : Host.Outcome State Fault Refusal :=
  .next (
    if !s.power || 48 ≤ r.port then s
    else if !reqAsks r then (match r.dst with | some d => if s.isSelf d then s else s.transit r d | none => s)
    else if !s.keyPasses r.port r.pkey.toNat then s.answer r 3 []
    else match r.dst with
      | some d => if s.isSelf d then (let (s, why, bs) := s.serveReq r; s.answer r why bs) else s.transit r d
      | none => let (s, why, bs) := s.serveReq r; s.answer r why bs)

/-! ## FABRIC_ACKNOWLEDGE (R125) -/

/-- The lanes of a load that a line of the fabric window serves take their values. -/
def State.takeRemote (s : State) (id op line : Nat) (data : List Byte) : State :=
  let ls := (s.wave id).loads.map (fun l =>
    if l.id == op then
      let hit := fun (q : LoadReq) => q.remote && q.addr / 64 == line
      { l with got := l.got ++ (l.reqs.filter hit).map (fun q => (⟨q.lane, BitVec.ofNat 64 (extend l.size l.signed (if l.home then fld data (q.addr % 64) l.size else s.lineN id q.own q.addr l.size data)), false, q.taint⟩ : LoadLane)),
               reqs := l.reqs.filter (fun q => !hit q) }
    else l)
  s.modWave id (fun w => { w with loads := ls })

/-- The lanes of an atomic that a request serves: those that name the address of its first lane (R320). -/
def PendLoad.lanesAt (l : PendLoad) (lane : Nat) : List LoadReq :=
  match l.reqs.find? (fun q => q.lane == lane) with
  | some z => l.reqs.filter (fun q => q.addr == z.addr)
  | none => []

/-- The answer of an atomic: the old values of its lanes, in their order. -/
def State.takeAtomic (s : State) (id op lane : Nat) (data : List Byte) : State :=
  s.modWave id (fun w => { w with loads := w.loads.map (fun l =>
    if l.id == op then
      let ls := l.lanesAt lane
      { l with got := l.got ++ ls.zipIdx.map (fun x => (⟨x.1.lane, BitVec.ofNat 64 (ofBytes ((data.drop (x.2 * l.size)).take l.size)), false, x.1.taint⟩ : LoadLane)),
               reqs := l.reqs.filter (fun q => !ls.contains q) }
    else l) })

/-- Which set of the 16-way last-level cache a line lies in: the device's (R86; log 16). -/
def cacheSet (line : Nat) : Nat := Config.freeNat (2 ^ 237 + line)

/-- A line kept where R78 and R116 let it be kept: in the die's last-level cache, where it takes the place of a line of its set that a free number picks if the set is full (R86), and in the core's scalar cache if a scalar load asked for it. -/
def State.keepLine (s : State) (id line : Nat) (scalar : Bool) (data : List Byte) : State :=
  let s := s.modDie (s.dieOf id) (fun x =>
    let set := if x.fcache.length < 16 then [] else (x.fcache.filter (fun e => e.1 != line && cacheSet e.1 == cacheSet line)).map (·.1)
    let out := if set.length < 16 then none else set[Config.freeNat (2 ^ 233 + s.fresh) % set.length]?
    let gone := fun (l : Nat) => some l == out
    { x with fcache := mset none (x.fcache.filter (fun e => !gone e.1)) line (some data), fbad := x.fbad.filter (fun l => !gone l && l != line) })
  if scalar then (s.scalarRoom (coreOf id) line).modCore (coreOf id) (fun x => { x with scache := mset none x.scache line (some data) }) else s

/-- A request as its target receives it (R17, R320, R414). -/
def State.asRequest (s : State) (q : FabOut) : FabReq :=
  { src := ⟨false, s.hwN 0x1400 8 % 8192⟩, pkey := BitVec.ofNat 16 (s.windowOf q.line).2.2, port := localLink, chan := q.chan,
    addr := match q.write with | [] => (match q.op with | some _ => q.remote | none => q.remote / 64 * 64) | w :: _ => q.remote / 64 * 64 + w.1,
    op := match q.op with | some o => o | none => (match q.write with | [] => .read 64 | w => .write (w.map (·.2))) }

/-- What an answer does (R116, R121, R125). -/
def State.acknowledge (s : State) (q : FabOut) (data : List Byte) : State :=
  let line := q.line / 64
  let s := if q.link = localLink then s else s.bump (s.askerVf q.ident q.use q.line) (s.dieOf q.ident) 4 1 data.length
  let s := State.unhold { s with reqs := s.reqs.filter (fun x => x.id != q.id) }
  match q.use with
  | .load op =>
    let scalar := (s.wave q.ident).loads.any (fun l => l.id == op && l.scalar)
    let s := s.takeRemote q.ident op line data
    if q.cached then s.keepLine q.ident line scalar data else s
  | .drain => s.dropCopies line
  | .home => s.dropCopies line
  | .atomic op lane => (s.takeAtomic q.ident op lane data).dropCopies line
  | .prefetch => if q.cached then s.keepLine q.ident line false data else s
  | .fetch => if q.cached then s.keepLine q.ident line false data else s.modWave q.ident (fun w => if w.st == .empty then w else { w with code := mset none w.code line (some data) })
  | .svc n => match (s.dropCopies line).svcOf n with
    | some x => (s.dropCopies line).svcDone x.1 x.2
    | none => s.dropCopies line
  | .ring => s.dropCopies line
  | .cmd core slot =>
    if !q.write.isEmpty then s.dropCopies line
    else match s.cmd core slot with
      | some x => s.setCmd core slot (some { x with lines := mset none x.lines line (some data) })
      | none => s

/-! ## Refusals (R121, R414, R415) -/

/-- FABRIC with its detail word. -/
def fabTrap (reason : Nat) (d : Endpoint) (lanes : W32) (addr : Nat) : Trap :=
  { cause := 0x14, lanes := lanes, detail := BitVec.ofNat 64 (reason % 256 + d.id % 8192 * 256 + cond d.host (2 ^ 21) 0), addr := BitVec.ofNat 64 addr }

/-- The wave that takes the fault of a drained line: its own, or the wave whose exit carries out the release of its unit (R112, R121). -/
def State.releaser (s : State) (id : Nat) : Nat :=
  if (s.wave id).st != .empty then id
  else match s.units.find? (fun (x : Nat × Option UnitR) => match x.2 with | some r => r.slots.contains id | none => false) with
    | some (u, some r) => ((s.liveSlots u r).head?).getD id
    | _ => id

/-- Whether other requests of the same load or atomic are still out: the fault of a refused line waits for them, since its record names the lowest refused line (R121). -/
def State.othersOut (s : State) (q : FabOut) : Bool :=
  s.reqs.any (fun x => x.id != q.id && x.ident == q.ident && x.fail == 0 && (match q.use, x.use with | .load a, .load b => a == b | .atomic a _, .atomic b _ => a == b | _, _ => false))
/-- The refused requests of the load or atomic of a request, itself among them. -/
def State.refusedOf (s : State) (q : FabOut) : List FabOut :=
  s.reqs.filter (fun x => x.id == q.id || (x.ident == q.ident && x.fail != 0 && (match q.use, x.use with | .load a, .load b => a == b | .atomic a _, .atomic b _ => a == b | _, _ => false)))
/-- The one of some requests with the lowest virtual line, the first on a tie. -/
def lowestReq (q : FabOut) (xs : List FabOut) : FabOut := xs.foldl (fun a x => if x.va / 64 < a.va / 64 then x else a) q

/-- A load refused: the rollback and the replay in serial mode, an ldacq's too, or FABRIC at the load, after its other lines have come back; a load whose request completes in error raises FABRIC at once (R121, R414). A load of an earlier region, or one in a spilled region, cannot be executed again and raises FABRIC (R99, R166, R168; DEDUCED, log 112). -/
def State.refuseLoad (s : State) (q : FabOut) (op reason : Nat) : State :=
  let w := s.wave q.ident
  match w.loads.find? (·.id == op) with
  | none => { s with reqs := s.reqs.filter (fun x => x.id != q.id) }
  | some l =>
    if (reason = 1 || reason = 3) && w.mode == .normal && !w.ctl && !w.rgn.serial && !w.rgn.spilled && (l.acq || (!w.rgn.lead && l.rg == w.rgn.opened)) then
      State.replay { s with reqs := s.reqs.filter (fun x => !(x.ident == q.ident && (match x.use with | .load a => a == op | _ => false))) } q.ident
    else if (reason = 1 || reason = 3) && s.othersOut q then { s with reqs := s.reqs.map (fun x => if x.id == q.id then { x with fail := reason } else x) }
    else
      let bad := s.refusedOf q
      let low := lowestReq q bad
      let ls := l.reqs.filter (fun x => x.remote && bad.any (fun b => b.line / 64 == x.addr / 64))
      (State.modWave { s with reqs := s.reqs.filter (fun x => !bad.any (fun b => b.id == x.id)) } q.ident (fun w => { w with pc := l.pc })).raise q.ident
        (fabTrap (if low.id = q.id then reason else low.fail) low.dst (if l.scalar || l.dst == 0 && l.acq && l.size == 8 then 0 else laneMask (fun k => ls.any (·.lane == k))) low.va)

/-- An atomic refused: FABRIC with the lanes of the refused lines and the lowest of these (R121). -/
def State.refuseAtomic (s : State) (q : FabOut) (reason : Nat) : State :=
  if s.othersOut q then { s with reqs := s.reqs.map (fun x => if x.id == q.id then { x with fail := reason } else x) }
  else
    let bad := s.refusedOf q
    let low := lowestReq q bad
    State.raise { s with reqs := s.reqs.filter (fun x => !bad.any (fun b => b.id == x.id)) } q.ident
      (fabTrap (if low.id = q.id then reason else low.fail) low.dst (laneMask (fun k => bad.any (fun b => match b.use with
        | .atomic op n => n == k || (s.wave q.ident).loads.any (fun l => l.id == op && (l.lanesAt n).any (·.lane == k))
        | _ => false))) (low.va / 64 * 64))

/-- The identities whose lines the release that a wave carries out drains: its own, or at its exit those of its unit (R112). -/
def State.drainGroup (s : State) (id : Nat) : List Nat :=
  match s.unitOf id with
  | some r => if 3 ≤ (s.wave id).step then r.slots else [id]
  | none => [id]

/-- A drained line refused: the releasing instruction raises FABRIC once all its lines have come back, with the lowest of those refused (R121); outside a release the refusal waits for the next one. -/
def State.refuseDrain (s : State) (q : FabOut) (reason : Nat) : State :=
  let id := s.releaser q.ident
  let w := s.wave id
  let ids := s.drainGroup id
  let mine := fun (x : FabOut) => x.use == .drain && ids.contains x.ident
  if (w.rel == .none && w.step < 3) || s.drains.any (fun d => ids.contains d.ident) || s.reqs.any (fun x => x.id != q.id && mine x && x.fail == 0) then
    { s with reqs := s.reqs.map (fun x => if x.id == q.id then { x with fail := reason } else x) }
  else
    let bad := s.reqs.filter (fun x => x.id == q.id || (mine x && x.fail != 0))
    let low := lowestReq q bad
    State.raise { s with reqs := s.reqs.filter (fun x => !bad.any (fun b => b.id == x.id)) } id (fabTrap (if low.id = q.id then reason else low.fail) low.dst 0 low.va)

/-- The virtual address of a line of a command's memory ranges. -/
def Cmd.vaOf (x : Cmd) (line : Nat) : Nat :=
  ((x.parts.findSome? (fun p => match p.phys with | some a => if a / 64 * 64 ≤ line && line < a + p.len then some (p.va + line - a) else none | none => none))).getD 0

/-- A request of a command refused: a copy or a collective completes in error, a tile task or an epilogue kills its unit (R338). -/
def State.refuseCmd (s : State) (q : FabOut) (core slot reason : Nat) : State :=
  match s.cmd core slot with
  | none => s
  | some x =>
    if x.kind == .copy || x.kind == .coll then s.setCmd core slot (some { x with err := if x.err = 0 then 0x14 else x.err })
    else s.faultUnit x.unit (s.cmdBlame x) (fabTrap reason q.dst 0 (x.vaOf q.line))

/-- A request that comes to nothing, for a reason. An instruction whose fetch comes to nothing, and an svc whose STATUS cannot be written, raise FABRIC (DEDUCED, log 127). -/
def State.refuse (s : State) (q : FabOut) (reason : Nat) : State :=
  let gone := { s with reqs := s.reqs.filter (fun x => x.id != q.id) }
  match q.use with
  | .load op => s.refuseLoad q op reason
  | .drain => s.refuseDrain q reason
  | .home => gone.raise q.ident (fabTrap reason q.dst 0 q.va)
  | .atomic _ _ => s.refuseAtomic q reason
  | .prefetch => gone
  | .fetch =>
    let w := s.wave q.ident
    if w.st == .stalled && v57 w.pc.toNat < v57 q.va + 64 && v57 q.va < v57 w.pc.toNat + 12 then gone.raise q.ident (fabTrap reason q.dst 0 q.va) else gone
  | .svc n =>
    match gone.svcOf n with
    | none => gone
    | some x =>
      let t := gone.modVf x.1 (fun f => { f with svcq := f.svcq.filter (fun y => y.ident != n) })
      match gone.askerOf x.2 with
      | some id => t.raise id (fabTrap reason q.dst 0 q.va)
      | none => t
  | .ring => gone
  | .cmd core slot => gone.refuseCmd q core slot reason

/-- FABRIC_ACKNOWLEDGE: the answer to a request that has been sent. One to this package itself is performed at its home here with this event, after those of its channel that were sent before, and may be refused (R124, R409). -/
def execFabricAcknowledge (id : Nat) (data : List Byte) (s : State) : Host.Outcome State Fault Refusal :=
  .next (match s.reqs.find? (fun q => q.id == id && q.fail == 0) with
    | none => s
    | some q =>
      if q.held then s
      else if q.link = localLink then
        if (s.reqs.takeWhile (fun x => x.id != id)).any (fun x => x.link == localLink && x.chan == q.chan && x.fail == 0 && !x.held) then s
        else
        let (s, why, bs) := s.serveReq (s.asRequest q)
        if why ≠ 0 then (s.refuse q why).unhold else s.acknowledge q bs
      else s.acknowledge q data)

/-- A refusal received at the fabric ports of the requester's die counts in its function's bank (R401). -/
def State.countRefusal (s : State) (q : FabOut) : State := s.bump (s.askerVf q.ident q.use q.line) (s.dieOf q.ident) 4 2 1

/-- FABRIC_REFUSAL: a request that could not be sent has its reason already, any other is REFUSED by its target; an id with 2^63 added says that a port in transit, or the target's, turned it away for its key, one with 2^62 added that a package in transit had no route for it (R409, R411, R415). -/
def execFabricRefusal (id : Nat) (s : State) : Host.Outcome State Fault Refusal :=
  .next (match s.reqs.find? (·.id == id % 2 ^ 62) with
    | none => s
    | some q => if q.held then s else ((if q.fail = 0 then s.countRefusal q else s).refuse q (if q.fail = 0 then (if 2 ^ 63 ≤ id then 3 else if 2 ^ 62 ≤ id then 2 else 1) else q.fail)).unhold)

/-- REQUEST_TIMEOUT: no response within 1 ms (R414). -/
def execRequestTimeout (id : Nat) (s : State) : Host.Outcome State Fault Refusal :=
  .next (match s.reqs.find? (fun q => q.id == id && q.fail == 0) with
    | none => s
    | some q => if q.held || s.cycle < q.posted + msCycles then s else (s.refuse q 4).unhold)

/-! ## Links (R406, R413) -/

/-- A link notice. -/
def State.linkNotice (s : State) (kind link : Nat) : List Byte :=
  toBytes kind 1 ++ toBytes link 1 ++ toBytes (s.hwN 0x1400 8 % 8192) 2 ++ toBytes (s.hwN 0x140C 4) 4 ++ toBytes s.cycle 8 ++ toBytes 0 16

/-- The endpoints whose entry in the active routing bank names a link (R408). -/
def State.routedOver (s : State) (link : Nat) : List Endpoint :=
  let b := 0x10000 + 0x20000 * s.bank
  ((((s.hw.filter (fun e => b ≤ e.1 && e.1 < b + 0x20000)).map (fun e => (e.1 - b) / 8)).eraseDups).filter (fun k =>
    let r := s.hwN (b + 8 * k) 8
    r.testBit 63 && r.testBit link)).map (fun k => (⟨8192 ≤ k, k % 8192⟩ : Endpoint))

/-- The notices of a link's change: to the fabric manager, to the endpoints routed over it, to the fault ring of each function. -/
def State.linkNotices (s : State) (kind link : Nat) : State :=
  let m := s.linkNotice kind link
  let s := match s.fmNode with | some e => s.post 5 0 e m | none => s
  let s := (s.routedOver link).foldl (fun (s : State) e => s.post 5 0 e m) s
  (List.range 64).foldl (fun (s : State) v => if s.hwN (64 * v + 9) 1 = 0 then s else s.notice v 0 (3 + 256 * link)) s

/-- A link declared down: its requests complete in error with LINKDOWN. -/
def State.downLink (s : State) (link : Nat) : State :=
  let up := s.hwN 0x1410 8
  if 48 ≤ link || !up.testBit link then s
  else
    let s := State.linkNotices (State.setHw { s with retries := mset 0 s.retries link 0 } 0x1410 (up - 2 ^ link) 8) 1 link
    (s.reqs.filter (fun q => q.link == link && q.fail == 0 && !q.held)).foldl (fun (s : State) q =>
      match s.reqs.find? (·.id == q.id) with
      | some q => s.refuse q 5
      | none => s) s

def execLinkDown (link : Nat) (s : State) : Host.Outcome State Fault Refusal := .next (s.downLink link).unhold.unholdPages

/-- LINK_UP. -/
def execLinkUp (link : Nat) (s : State) : Host.Outcome State Fault Refusal :=
  let up := s.hwN 0x1410 8
  .next (if 48 ≤ link || up.testBit link || !s.power then s else ((s.setHw 0x1410 (up + 2 ^ link) 8).linkNotices 2 link).unhold.unholdPages)

/-- FLIT_RESEND: a flit that fails its check is sent again; the failure after the sixteenth resend of one flit declares the link down. A link number with 64 added says that the flit that was sent again last on the link has failed once more; retries counts its resends. -/
def execFlitResend (link : Nat) (s : State) : Host.Outcome State Fault Refusal :=
  let l := link % 64
  .next (if 48 ≤ l || !(s.hwN 0x1410 8).testBit l then s
    else if link < 64 then { s with retries := mset 0 s.retries l 1 }
    else if mget 0 s.retries l < 16 then { s with retries := mset 0 s.retries l (mget 0 s.retries l + 1) }
    else (s.downLink l).unhold.unholdPages)

/-- BANK_SWITCH: a switch that has been started completes. -/
def execBankSwitch (s : State) : Host.Outcome State Fault Refusal :=
  .next (if !s.switching then s
    else (State.setHw (State.setHw { s with switching := false } 0x1408 (1 - s.bank) 1) 0x140C (s.hwN 0x140C 4 + 1) 4).unhold.unholdPages)

end Sys2Proof.Machine
end

