-- ==== Sys2Proof/Machine/Host.lean ====
section
/-! DEFINITION. The SPDM responder (R423), start and power (R421, R424), the configuration image (R421), a host's cancel (R179), the write-back of a late result (R60, R278). -/

namespace Sys2Proof.Machine

/-! ## SPDM (R423); message codes and layouts are those of DSP0274 (log 39) -/

/-- A requester's state. -/
def State.spdmOf (s : State) (who : Endpoint) : Spdm := (s.spdm.find? (fun x => x.who == who)).getD { who := who }
def State.setSpdm (s : State) (x : Spdm) : State := { s with spdm := s.spdm.filter (fun y => y.who != x.who) ++ [x] }

/-- A response, on channel 7. -/
def State.respond (s : State) (who : Endpoint) (code p1 p2 : Nat) (bs : List Byte) : State :=
  s.post 7 0 who (BitVec.ofNat 8 (if code = 0x04 then 0x10 else 0x13) :: BitVec.ofNat 8 code :: BitVec.ofNat 8 p1 :: BitVec.ofNat 8 p2 :: bs)
/-- ERROR: InvalidRequest 1, UnexpectedRequest 4, UnsupportedRequest 7. -/
def State.spdmError (s : State) (who : Endpoint) (code data : Nat) : State := s.respond who 0x7F code data []

/-- The responder works while the module runs. -/
def State.spdmDo (s : State) (f : State → State) : Host.Outcome State Fault Refusal := .next (if s.power then f s else s)

/-- GET_VERSION: version 1.3; the requester starts again. -/
def execGetVersion (requester : Endpoint) (s : State) : Host.Outcome State Fault Refusal :=
  s.spdmDo (fun s => (s.setSpdm { who := requester, version := true }).respond requester 0x04 0 0 (toBytes 0x13000100 4))

/-- GET_CAPABILITIES: certificates, challenges and signed measurements, and no secured session; the sizes are free values (log 39). -/
def execGetCapabilities (requester : Endpoint) (s : State) : Host.Outcome State Fault Refusal :=
  s.spdmDo (fun s =>
    let x := s.spdmOf requester
    if !x.version then s.spdmError requester 4 0
    else (s.setSpdm { x with caps := true }).respond requester 0x61 0 0 (toBytes 0 4 ++ toBytes 0x16 4 ++ toBytes (Config.freeNat (2 ^ 210)) 4 ++ toBytes (Config.freeNat (2 ^ 210 + 1)) 4))

/-- An extended algorithm structure (R423): Registry ID 4, which is IANA in DSP0274, and the algorithm's value in the IANA COSE Algorithms registry, in 16 bits of two's complement (PRESUMED, log 39). -/
def extAlg (id : Int) : List Byte := toBytes 4 1 ++ toBytes 0 1 ++ toBytes (id % 65536).toNat 2
/-- ML-DSA-65 and SHAKE256 in that registry. -/
def coseMlDsa65 : Int := -49
def coseShake256 : Int := -45

/-- NEGOTIATE_ALGORITHMS: asym and hash say whether the requester offers the ML-DSA-65 and the SHAKE256 entry. No base bit is set; what is offered is selected. DSP0274 has no bit for SHAKE256 in MeasurementHashAlgo either, and what that field holds is a free value (log 39). -/
def execNegotiateAlgorithms (requester : Endpoint) (asym hash : Bool) (s : State) : Host.Outcome State Fault Refusal :=
  s.spdmDo (fun s =>
    let x := s.spdmOf requester
    if !x.caps then s.spdmError requester 4 0
    else
      let body := toBytes 1 1 ++ toBytes 0 1 ++ toBytes (Config.freeNat (2 ^ 210 + 2)) 4 ++ toBytes 0 4 ++ toBytes 0 4 ++ toBytes 0 12 ++ toBytes (cond asym 1 0) 1 ++ toBytes (cond hash 1 0) 1 ++ toBytes 0 2
        ++ (if asym then extAlg coseMlDsa65 else []) ++ (if hash then extAlg coseShake256 else [])
      (s.setSpdm { x with algs := some (asym, hash) }).respond requester 0x63 0 0 (toBytes (4 + 2 + body.length) 2 ++ body))

/-- A request that needs a signature or a digest: UnexpectedRequest where it was not selected. -/
def State.spdmNeeds (s : State) (who : Endpoint) (sign hash : Bool) (f : State → State) : Host.Outcome State Fault Refusal :=
  s.spdmDo (fun s => match (s.spdmOf who).algs with
    | none => s.spdmError who 4 0
    | some a => if (sign && !a.1) || (hash && !a.2) then s.spdmError who 4 0 else f s)

/-- The certificate chain, of a length that is a free value (log 30), and the digest of it. -/
def chainLen : Nat := Config.freeNat (2 ^ 210 + 5) % 65536
def chainDigest : List Byte := toBytes (Config.digest 5 []).toNat 64
/-- A nonce of 32 bytes, and a signature of 3,309, each new. -/
def nonceBytes (n : Nat) : List Byte := (List.range 32).map (fun k => BitVec.ofNat 8 (Config.freeNat (2 ^ 220 + 32 * n + k)))
def signBytes (n : Nat) : List Byte := (List.range 3309).map (Config.signature n)

/-- GET_DIGESTS. -/
def execGetDigests (requester : Endpoint) (s : State) : Host.Outcome State Fault Refusal :=
  s.spdmNeeds requester false true (fun s => s.respond requester 0x01 1 1 chainDigest)

/-- GET_CERTIFICATE: a portion of the chain. -/
def execGetCertificate (requester : Endpoint) (offset length : Nat) (s : State) : Host.Outcome State Fault Refusal :=
  s.spdmNeeds requester false true (fun s =>
    if chainLen ≤ offset then s.spdmError requester 1 0
    else
      let n := min length (chainLen - offset)
      s.respond requester 0x02 0 0 (toBytes n 2 ++ toBytes (chainLen - offset - n) 2 ++ (List.range n).map (fun k => Config.certificate (offset + k))))

/-- CHALLENGE: signed with the device identity key. -/
def execChallenge (requester : Endpoint) (_nonce : List Byte) (s : State) : Host.Outcome State Fault Refusal :=
  s.spdmNeeds requester true true (fun s =>
    s.tick.respond requester 0x03 0 1 (chainDigest ++ nonceBytes s.fresh ++ toBytes 0 2 ++ toBytes 0 8 ++ signBytes s.fresh))

/-- A block of the measurement log as MEASUREMENTS carries it. -/
def measBlock (b : Nat × BitVec 512) : List Byte := toBytes b.1 1 ++ toBytes 1 1 ++ toBytes 67 2 ++ toBytes (if b.1 = 1 then 0 else if b.1 = 4 then 3 else 1) 1 ++ toBytes 64 2 ++ toBytes b.2.toNat 64

/-- GET_MEASUREMENTS: index 0 asks for the number of blocks, 255 for all of them; a nonce asks for a signature. -/
def execGetMeasurements (requester : Endpoint) (index : Nat) (nonce : List Byte) (s : State) : Host.Outcome State Fault Refusal :=
  s.spdmNeeds requester (!nonce.isEmpty) true (fun s =>
    let bs := if index = 0 then [] else s.mlog.filter (fun b => b.1 == index || index == 255)
    if index ≠ 0 ∧ bs = [] then s.spdmError requester 1 0
    else
      let r := bs.flatMap measBlock
      s.tick.respond requester 0x60 (if index = 0 then s.mlog.length else 0) 0
        (toBytes bs.length 1 ++ toBytes r.length 3 ++ r ++ nonceBytes s.fresh ++ toBytes 0 2 ++ toBytes 0 8 ++ (if nonce.isEmpty then [] else signBytes s.fresh)))

/-- Any other request: UnsupportedRequest. -/
def execSpdmUnsupportedRequest (requester : Endpoint) (code : Nat) (s : State) : Host.Outcome State Fault Refusal :=
  s.spdmDo (fun s => s.spdmError requester 7 code)

/-! ## Start and power (R421, R424) -/

/-- The bytes of the hypervisor window that the configuration image holds. -/
def inImage (o : Nat) : Bool :=
  (0x1000 ≤ o && o < 0x1200) || (0x1400 ≤ o && o < 0x1408) || (0x1418 ≤ o && o < 0x1430) || (0x1500 ≤ o && o < 0x1508) || (0x1510 ≤ o && o < 0x1518)
  || (0x10000 ≤ o && o < 0x50300) || (0x50400 ≤ o && o < 0x50700)

/-- The machine without power: nothing is left but the image in module flash. -/
def State.dark (s : State) : State :=
  { agenda := s.agenda, fresh := s.fresh, power := false, image := s.image, tier2Cxl := s.tier2Cxl }

/-- COLD_START: measured, memory zero, the image loaded, the ports open. -/
def execColdStart (s : State) : Host.Outcome State Fault Refusal :=
  .next (if s.power then s
    else { State.reset with agenda := s.agenda, fresh := s.fresh, image := s.image, tier2Cxl := s.tier2Cxl, hw := s.image, mlog := startLog s.image s.tier2Cxl })

/-- CONFIG_IMAGE_REWRITE. -/
def execConfigImageRewrite (s : State) : Host.Outcome State Fault Refusal :=
  .next (if s.power then { s with image := s.hw.filter (fun e => inImage e.1) } else s)

/-- THERMAL_SHUTDOWN: a core sensor at 115 °C or above, or no coolant. -/
def execThermalShutdown (c : ShutdownCause) (s : State) : Host.Outcome State Fault Refusal :=
  .next (match c with
    | .coolant => s.dark
    | .sensor core => if 115 ≤ (s.core core).temp then s.dark else s)

/-- POWER_OFF. -/
def execPowerOff (s : State) : Host.Outcome State Fault Refusal := .next s.dark

/-! ## A host's cancel, and late results -/

/-- HOST_CANCEL (R179). -/
def execHostCancel (launch : Nat) (lvl : CLvl) (s : State) : Host.Outcome State Fault Refusal := .next (s.cancelLevel launch (clvlNum lvl))

/-- RESULT_WRITEBACK: the oldest late result of a wave is there. -/
def execResultWriteback (slot : Nat) (s : State) : Host.Outcome State Fault Refusal := .next (s.modWave slot (fun w => { w with busy := w.busy.drop 1 }))

end Sys2Proof.Machine
end

