-- ==== Sys2Proof/Machine/Predicate.lean ====
section
/-! DEFINITION. Group 2: the predicate instructions (R266). -/

namespace Sys2Proof.Machine

def execPand (g : Guard) (d : Nat) (a : Nat) (b : Nat) (s : State) : Host.Outcome State Fault Refusal :=
  runEff (.pand g d a b) (effPand g d a b) s

def execPor (g : Guard) (d : Nat) (a : Nat) (b : Nat) (s : State) : Host.Outcome State Fault Refusal :=
  runEff (.por g d a b) (effPor g d a b) s

def execPxor (g : Guard) (d : Nat) (a : Nat) (b : Nat) (s : State) : Host.Outcome State Fault Refusal :=
  runEff (.pxor g d a b) (effPxor g d a b) s

def execPnot (g : Guard) (d : Nat) (a : Nat) (s : State) : Host.Outcome State Fault Refusal :=
  runEff (.pnot g d a) (effPnot g d a) s

def execPmov (g : Guard) (d : Nat) (a : PSrc) (s : State) : Host.Outcome State Fault Refusal :=
  runEff (.pmov g d a) (effPmov g d a) s

def execPany (g : Guard) (d : Nat) (a : Nat) (s : State) : Host.Outcome State Fault Refusal :=
  runEff (.pany g d a) (effPany g d a) s

def execPall (g : Guard) (d : Nat) (a : Nat) (s : State) : Host.Outcome State Fault Refusal :=
  runEff (.pall g d a) (effPall g d a) s

def execPcnt (g : Guard) (d : Nat) (a : Nat) (s : State) : Host.Outcome State Fault Refusal :=
  runEff (.pcnt g d a) (effPcnt g d a) s

def execPfirst (g : Guard) (d : Nat) (a : Nat) (s : State) : Host.Outcome State Fault Refusal :=
  runEff (.pfirst g d a) (effPfirst g d a) s

def execPballot (g : Guard) (d : Dst) (a : Nat) (s : State) : Host.Outcome State Fault Refusal :=
  runEff (.pballot g d a) (effPballot g d a) s

end Sys2Proof.Machine
end

