-- ==== Sys2Proof/Machine/Scalar.lean ====
section
/-! DEFINITION. Group 1: the scalar instructions (R261 to R265). -/

namespace Sys2Proof.Machine

def execSadd (d : Nat) (a : Src) (b : Src) (s : State) : Host.Outcome State Fault Refusal :=
  runEff (.sadd d a b) (effSadd d a b) s

def execSsub (d : Nat) (a : Src) (b : Src) (s : State) : Host.Outcome State Fault Refusal :=
  runEff (.ssub d a b) (effSsub d a b) s

def execSmul (d : Nat) (a : Src) (b : Src) (s : State) : Host.Outcome State Fault Refusal :=
  runEff (.smul d a b) (effSmul d a b) s

def execSmulh (sg : Bool) (d : Nat) (a : Src) (b : Src) (s : State) : Host.Outcome State Fault Refusal :=
  runEff (.smulh sg d a b) (effSmulh sg d a b) s

def execSdiv (sg : Bool) (d : Nat) (a : Src) (b : Src) (s : State) : Host.Outcome State Fault Refusal :=
  runEff (.sdiv sg d a b) (effSdiv sg d a b) s

def execSrem (sg : Bool) (d : Nat) (a : Src) (b : Src) (s : State) : Host.Outcome State Fault Refusal :=
  runEff (.srem sg d a b) (effSrem sg d a b) s

def execSand (d : Nat) (a : Src) (b : Src) (s : State) : Host.Outcome State Fault Refusal :=
  runEff (.sand d a b) (effSand d a b) s

def execSor (d : Nat) (a : Src) (b : Src) (s : State) : Host.Outcome State Fault Refusal :=
  runEff (.sor d a b) (effSor d a b) s

def execSxor (d : Nat) (a : Src) (b : Src) (s : State) : Host.Outcome State Fault Refusal :=
  runEff (.sxor d a b) (effSxor d a b) s

def execSshl (d : Nat) (a : Src) (b : Src) (s : State) : Host.Outcome State Fault Refusal :=
  runEff (.sshl d a b) (effSshl d a b) s

def execSshr (d : Nat) (a : Src) (b : Src) (s : State) : Host.Outcome State Fault Refusal :=
  runEff (.sshr d a b) (effSshr d a b) s

def execSsar (d : Nat) (a : Src) (b : Src) (s : State) : Host.Outcome State Fault Refusal :=
  runEff (.ssar d a b) (effSsar d a b) s

def execSmin (sg : Bool) (d : Nat) (a : Src) (b : Src) (s : State) : Host.Outcome State Fault Refusal :=
  runEff (.smin sg d a b) (effSmin sg d a b) s

def execSmax (sg : Bool) (d : Nat) (a : Src) (b : Src) (s : State) : Host.Outcome State Fault Refusal :=
  runEff (.smax sg d a b) (effSmax sg d a b) s

def execScmp (sg : Bool) (cond : ICond) (p : Nat) (a : Src) (b : Src) (s : State) : Host.Outcome State Fault Refusal :=
  runEff (.scmp sg cond p a b) (effScmp sg cond p a b) s

def execSmov (d : Dst) (a : Src) (s : State) : Host.Outcome State Fault Refusal :=
  runEff (.smov d a) (effSmov d a) s

def execSli (d : Nat) (i : Int) (s : State) : Host.Outcome State Fault Refusal :=
  runEff (.sli d i) (effSli d i) s

def execSclz (d : Nat) (a : Src) (s : State) : Host.Outcome State Fault Refusal :=
  runEff (.sclz d a) (effSclz d a) s

def execSpopc (d : Nat) (a : Src) (s : State) : Host.Outcome State Fault Refusal :=
  runEff (.spopc d a) (effSpopc d a) s

def execSbfx (sg : Bool) (d : Nat) (a : Src) (pos : Src) (len : Src) (s : State) : Host.Outcome State Fault Refusal :=
  runEff (.sbfx sg d a pos len) (effSbfx sg d a pos len) s

def execSbfi (d : Nat) (a : Src) (pos : Src) (len : Src) (s : State) : Host.Outcome State Fault Refusal :=
  runEff (.sbfi d a pos len) (effSbfi d a pos len) s

def execSadr (d : Nat) (base : Src) (index : Src) (scale : Src) (s : State) : Host.Outcome State Fault Refusal :=
  runEff (.sadr d base index scale) (effSadr d base index scale) s

def execSext (sg : Bool) (d : Nat) (a : Src) (len : Src) (s : State) : Host.Outcome State Fault Refusal :=
  runEff (.sext sg d a len) (effSext sg d a len) s

end Sys2Proof.Machine
end

