-- ==== Sys2Proof/Machine/VectorInt.lean ====
section
/-! DEFINITION. Group 3: vector integer and lane instructions (R283 to R292). -/

namespace Sys2Proof.Machine

def execAdd (t : ITy) (g : Guard) (d : Dst) (a : HSrc) (b : HSrc) (s : State) : Host.Outcome State Fault Refusal :=
  runEff (.add t g d a b) (effAdd t g d a b) s

def execSub (t : ITy) (g : Guard) (d : Dst) (a : HSrc) (b : HSrc) (s : State) : Host.Outcome State Fault Refusal :=
  runEff (.sub t g d a b) (effSub t g d a b) s

def execMul (t : ITy) (g : Guard) (d : Dst) (a : HSrc) (b : HSrc) (s : State) : Host.Outcome State Fault Refusal :=
  runEff (.mul t g d a b) (effMul t g d a b) s

def execMulh (t : ITy) (sg : Bool) (g : Guard) (d : Dst) (a : HSrc) (b : HSrc) (s : State) : Host.Outcome State Fault Refusal :=
  runEff (.mulh t sg g d a b) (effMulh t sg g d a b) s

def execMad (t : ITy) (g : Guard) (d : Dst) (a : HSrc) (b : HSrc) (c : HSrc) (s : State) : Host.Outcome State Fault Refusal :=
  runEff (.mad t g d a b c) (effMad t g d a b c) s

def execDiv (t : ITy) (sg : Bool) (g : Guard) (d : Dst) (a : HSrc) (b : HSrc) (s : State) : Host.Outcome State Fault Refusal :=
  runEff (.div t sg g d a b) (effDiv t sg g d a b) s

def execRem (t : ITy) (sg : Bool) (g : Guard) (d : Dst) (a : HSrc) (b : HSrc) (s : State) : Host.Outcome State Fault Refusal :=
  runEff (.rem t sg g d a b) (effRem t sg g d a b) s

def execMin (t : ITy) (sg : Bool) (g : Guard) (d : Dst) (a : HSrc) (b : HSrc) (s : State) : Host.Outcome State Fault Refusal :=
  runEff (.min t sg g d a b) (effMin t sg g d a b) s

def execMax (t : ITy) (sg : Bool) (g : Guard) (d : Dst) (a : HSrc) (b : HSrc) (s : State) : Host.Outcome State Fault Refusal :=
  runEff (.max t sg g d a b) (effMax t sg g d a b) s

def execAbs (t : ITy) (sg : Bool) (g : Guard) (d : Dst) (a : HSrc) (s : State) : Host.Outcome State Fault Refusal :=
  runEff (.abs t sg g d a) (effAbs t sg g d a) s

def execAnd (t : ITy) (g : Guard) (d : Dst) (a : HSrc) (b : HSrc) (s : State) : Host.Outcome State Fault Refusal :=
  runEff (.and t g d a b) (effAnd t g d a b) s

def execOr (t : ITy) (g : Guard) (d : Dst) (a : HSrc) (b : HSrc) (s : State) : Host.Outcome State Fault Refusal :=
  runEff (.or t g d a b) (effOr t g d a b) s

def execXor (t : ITy) (g : Guard) (d : Dst) (a : HSrc) (b : HSrc) (s : State) : Host.Outcome State Fault Refusal :=
  runEff (.xor t g d a b) (effXor t g d a b) s

def execNot (t : ITy) (g : Guard) (d : Dst) (a : HSrc) (s : State) : Host.Outcome State Fault Refusal :=
  runEff (.not t g d a) (effNot t g d a) s

def execShl (t : ITy) (g : Guard) (d : Dst) (a : HSrc) (b : HSrc) (s : State) : Host.Outcome State Fault Refusal :=
  runEff (.shl t g d a b) (effShl t g d a b) s

def execShr (t : ITy) (g : Guard) (d : Dst) (a : HSrc) (b : HSrc) (s : State) : Host.Outcome State Fault Refusal :=
  runEff (.shr t g d a b) (effShr t g d a b) s

def execSar (t : ITy) (g : Guard) (d : Dst) (a : HSrc) (b : HSrc) (s : State) : Host.Outcome State Fault Refusal :=
  runEff (.sar t g d a b) (effSar t g d a b) s

def execClz (t : ITy) (g : Guard) (d : Dst) (a : HSrc) (s : State) : Host.Outcome State Fault Refusal :=
  runEff (.clz t g d a) (effClz t g d a) s

def execPopc (t : ITy) (g : Guard) (d : Dst) (a : HSrc) (s : State) : Host.Outcome State Fault Refusal :=
  runEff (.popc t g d a) (effPopc t g d a) s

def execBfx (t : ITy) (sg : Bool) (g : Guard) (d : Dst) (a : HSrc) (pos : HSrc) (len : HSrc) (s : State) : Host.Outcome State Fault Refusal :=
  runEff (.bfx t sg g d a pos len) (effBfx t sg g d a pos len) s

def execBfi (t : ITy) (g : Guard) (d : Dst) (a : HSrc) (pos : HSrc) (len : HSrc) (s : State) : Host.Outcome State Fault Refusal :=
  runEff (.bfi t g d a pos len) (effBfi t g d a pos len) s

def execSel (t : ITy) (g : Guard) (d : Dst) (a : HSrc) (b : HSrc) (p : Nat) (s : State) : Host.Outcome State Fault Refusal :=
  runEff (.sel t g d a b p) (effSel t g d a b p) s

def execCmp (t : ITy) (sg : Bool) (cond : ICond) (g : Guard) (p : Nat) (a : HSrc) (b : HSrc) (s : State) : Host.Outcome State Fault Refusal :=
  runEff (.cmp t sg cond g p a b) (effCmp t sg cond g p a b) s

def execMov (t : ITy) (g : Guard) (d : Dst) (a : HSrc) (s : State) : Host.Outcome State Fault Refusal :=
  runEff (.mov t g d a) (effMov t g d a) s

def execShfl (t : ITy) (mode : ShflMode) (g : Guard) (d : Dst) (a : HSrc) (b : HSrc) (s : State) : Host.Outcome State Fault Refusal :=
  runEff (.shfl t mode g d a b) (effShfl t mode g d a b) s

def execBcast (t : ITy) (g : Guard) (d : Dst) (a : HSrc) (n : Src) (s : State) : Host.Outcome State Fault Refusal :=
  runEff (.bcast t g d a n) (effBcast t g d a n) s

def execLred (t : ITy) (sg : Bool) (op : RedOp) (g : Guard) (d : Dst) (a : HSrc) (s : State) : Host.Outcome State Fault Refusal :=
  runEff (.lred t sg op g d a) (effLred t sg op g d a) s

def execLscan (t : ITy) (sg : Bool) (op : RedOp) (excl : Bool) (g : Guard) (d : Dst) (a : HSrc) (s : State) : Host.Outcome State Fault Refusal :=
  runEff (.lscan t sg op excl g d a) (effLscan t sg op excl g d a) s

def execAddSat (t : ITy) (sg : Bool) (g : Guard) (d : Dst) (a : HSrc) (b : HSrc) (s : State) : Host.Outcome State Fault Refusal :=
  runEff (.addSat t sg g d a b) (effAddSat t sg g d a b) s

def execSubSat (t : ITy) (sg : Bool) (g : Guard) (d : Dst) (a : HSrc) (b : HSrc) (s : State) : Host.Outcome State Fault Refusal :=
  runEff (.subSat t sg g d a b) (effSubSat t sg g d a b) s

def execMulSat (t : ITy) (sg : Bool) (g : Guard) (d : Dst) (a : HSrc) (b : HSrc) (s : State) : Host.Outcome State Fault Refusal :=
  runEff (.mulSat t sg g d a b) (effMulSat t sg g d a b) s

end Sys2Proof.Machine
end

