-- ==== Sys2Proof/Machine/Dispatch.lean ====
section
/-! DEFINITION. The dispatch: one arm for each constructor of Instr, a direct call of its meaning. -/

namespace Sys2Proof.Machine

def exec (i : Instr) (s : State) : Host.Outcome State Fault Refusal :=
  match i with
  | .nop => Sys2Proof.Machine.execNop s
  | .region vlive olive => Sys2Proof.Machine.execRegion vlive olive s
  | .ifP neg p off => Sys2Proof.Machine.execIfP neg p off s
  | .elseP off => Sys2Proof.Machine.execElseP off s
  | .endif => Sys2Proof.Machine.execEndif s
  | .loop => Sys2Proof.Machine.execLoop s
  | .endloop off => Sys2Proof.Machine.execEndloop off s
  | .breakP neg p => Sys2Proof.Machine.execBreakP neg p s
  | .contP neg p => Sys2Proof.Machine.execContP neg p s
  | .callRelative d off => Sys2Proof.Machine.execCallRelative d off s
  | .callIndirect d t => Sys2Proof.Machine.execCallIndirect d t s
  | .ret t => Sys2Proof.Machine.execRet t s
  | .exit => Sys2Proof.Machine.execExit s
  | .trap code => Sys2Proof.Machine.execTrap code s
  | .tret => Sys2Proof.Machine.execTret s
  | .bkpt tag => Sys2Proof.Machine.execBkpt tag s
  | .spawn t arg => Sys2Proof.Machine.execSpawn t arg s
  | .yield => Sys2Proof.Machine.execYield s
  | .svc code => Sys2Proof.Machine.execSvc code s
  | .rdsys d index => Sys2Proof.Machine.execRdsys d index s
  | .wrsys a index => Sys2Proof.Machine.execWrsys a index s
  | .rdtime d => Sys2Proof.Machine.execRdtime d s
  | .rdid d sel => Sys2Proof.Machine.execRdid d sel s
  | .sadd d a b => Sys2Proof.Machine.execSadd d a b s
  | .ssub d a b => Sys2Proof.Machine.execSsub d a b s
  | .smul d a b => Sys2Proof.Machine.execSmul d a b s
  | .smulh sg d a b => Sys2Proof.Machine.execSmulh sg d a b s
  | .sdiv sg d a b => Sys2Proof.Machine.execSdiv sg d a b s
  | .srem sg d a b => Sys2Proof.Machine.execSrem sg d a b s
  | .sand d a b => Sys2Proof.Machine.execSand d a b s
  | .sor d a b => Sys2Proof.Machine.execSor d a b s
  | .sxor d a b => Sys2Proof.Machine.execSxor d a b s
  | .sshl d a b => Sys2Proof.Machine.execSshl d a b s
  | .sshr d a b => Sys2Proof.Machine.execSshr d a b s
  | .ssar d a b => Sys2Proof.Machine.execSsar d a b s
  | .smin sg d a b => Sys2Proof.Machine.execSmin sg d a b s
  | .smax sg d a b => Sys2Proof.Machine.execSmax sg d a b s
  | .scmp sg cond p a b => Sys2Proof.Machine.execScmp sg cond p a b s
  | .smov d a => Sys2Proof.Machine.execSmov d a s
  | .sli d imm => Sys2Proof.Machine.execSli d imm s
  | .sclz d a => Sys2Proof.Machine.execSclz d a s
  | .spopc d a => Sys2Proof.Machine.execSpopc d a s
  | .sbfx sg d a pos len => Sys2Proof.Machine.execSbfx sg d a pos len s
  | .sbfi d a pos len => Sys2Proof.Machine.execSbfi d a pos len s
  | .sadr d base index scale => Sys2Proof.Machine.execSadr d base index scale s
  | .sext sg d a len => Sys2Proof.Machine.execSext sg d a len s
  | .pand g d a b => Sys2Proof.Machine.execPand g d a b s
  | .por g d a b => Sys2Proof.Machine.execPor g d a b s
  | .pxor g d a b => Sys2Proof.Machine.execPxor g d a b s
  | .pnot g d a => Sys2Proof.Machine.execPnot g d a s
  | .pmov g d a => Sys2Proof.Machine.execPmov g d a s
  | .pany g d a => Sys2Proof.Machine.execPany g d a s
  | .pall g d a => Sys2Proof.Machine.execPall g d a s
  | .pcnt g d a => Sys2Proof.Machine.execPcnt g d a s
  | .pfirst g d a => Sys2Proof.Machine.execPfirst g d a s
  | .pballot g d a => Sys2Proof.Machine.execPballot g d a s
  | .add t g d a b => Sys2Proof.Machine.execAdd t g d a b s
  | .sub t g d a b => Sys2Proof.Machine.execSub t g d a b s
  | .mul t g d a b => Sys2Proof.Machine.execMul t g d a b s
  | .mulh t sg g d a b => Sys2Proof.Machine.execMulh t sg g d a b s
  | .mad t g d a b c => Sys2Proof.Machine.execMad t g d a b c s
  | .div t sg g d a b => Sys2Proof.Machine.execDiv t sg g d a b s
  | .rem t sg g d a b => Sys2Proof.Machine.execRem t sg g d a b s
  | .min t sg g d a b => Sys2Proof.Machine.execMin t sg g d a b s
  | .max t sg g d a b => Sys2Proof.Machine.execMax t sg g d a b s
  | .abs t sg g d a => Sys2Proof.Machine.execAbs t sg g d a s
  | .and t g d a b => Sys2Proof.Machine.execAnd t g d a b s
  | .or t g d a b => Sys2Proof.Machine.execOr t g d a b s
  | .xor t g d a b => Sys2Proof.Machine.execXor t g d a b s
  | .not t g d a => Sys2Proof.Machine.execNot t g d a s
  | .shl t g d a b => Sys2Proof.Machine.execShl t g d a b s
  | .shr t g d a b => Sys2Proof.Machine.execShr t g d a b s
  | .sar t g d a b => Sys2Proof.Machine.execSar t g d a b s
  | .clz t g d a => Sys2Proof.Machine.execClz t g d a s
  | .popc t g d a => Sys2Proof.Machine.execPopc t g d a s
  | .bfx t sg g d a pos len => Sys2Proof.Machine.execBfx t sg g d a pos len s
  | .bfi t g d a pos len => Sys2Proof.Machine.execBfi t g d a pos len s
  | .sel t g d a b p => Sys2Proof.Machine.execSel t g d a b p s
  | .cmp t sg cond g p a b => Sys2Proof.Machine.execCmp t sg cond g p a b s
  | .mov t g d a => Sys2Proof.Machine.execMov t g d a s
  | .shfl t mode g d a b => Sys2Proof.Machine.execShfl t mode g d a b s
  | .bcast t g d a n => Sys2Proof.Machine.execBcast t g d a n s
  | .lred t sg op g d a => Sys2Proof.Machine.execLred t sg op g d a s
  | .lscan t sg op excl g d a => Sys2Proof.Machine.execLscan t sg op excl g d a s
  | .addSat t sg g d a b => Sys2Proof.Machine.execAddSat t sg g d a b s
  | .subSat t sg g d a b => Sys2Proof.Machine.execSubSat t sg g d a b s
  | .mulSat t sg g d a b => Sys2Proof.Machine.execMulSat t sg g d a b s
  | .fadd t g d a b => Sys2Proof.Machine.execFadd t g d a b s
  | .fsub t g d a b => Sys2Proof.Machine.execFsub t g d a b s
  | .fmul t g d a b => Sys2Proof.Machine.execFmul t g d a b s
  | .fma t g d a b c => Sys2Proof.Machine.execFma t g d a b c s
  | .fmin t g d a b => Sys2Proof.Machine.execFmin t g d a b s
  | .fmax t g d a b => Sys2Proof.Machine.execFmax t g d a b s
  | .fdiv t g d a b => Sys2Proof.Machine.execFdiv t g d a b s
  | .fsqrt t g d a => Sys2Proof.Machine.execFsqrt t g d a s
  | .frcp t g d a => Sys2Proof.Machine.execFrcp t g d a s
  | .frsq t g d a => Sys2Proof.Machine.execFrsq t g d a s
  | .fexp2 t g d a => Sys2Proof.Machine.execFexp2 t g d a s
  | .flog2 t g d a => Sys2Proof.Machine.execFlog2 t g d a s
  | .fsin t g d a => Sys2Proof.Machine.execFsin t g d a s
  | .fcos t g d a => Sys2Proof.Machine.execFcos t g d a s
  | .ftanh t g d a => Sys2Proof.Machine.execFtanh t g d a s
  | .fcmp t cond g p a b => Sys2Proof.Machine.execFcmp t cond g p a b s
  | .fcls t g p a mask => Sys2Proof.Machine.execFcls t g p a mask s
  | .fround t mode g d a => Sys2Proof.Machine.execFround t mode g d a s
  | .fdot2 t g d a b c => Sys2Proof.Machine.execFdot2 t g d a b c s
  | .cvt dst src g d a => Sys2Proof.Machine.execCvt dst src g d a s
  | .pack dst src g d a b => Sys2Proof.Machine.execPack dst src g d a b s
  | .packTile dst d f n => Sys2Proof.Machine.execPackTile dst d f n s
  | .unpk dst src g d a k => Sys2Proof.Machine.execUnpk dst src g d a k s
  | .qnt dst g d a sc => Sys2Proof.Machine.execQnt dst g d a sc s
  | .dqnt src g d a sc => Sys2Proof.Machine.execDqnt src g d a sc s
  | .csum kind g d a => Sys2Proof.Machine.execCsum kind g d a s
  | .chk kind g a b => Sys2Proof.Machine.execChk kind g a b s
  | .ld sz sp g d a c => Sys2Proof.Machine.execLd sz sp g d a c s
  | .ldSigned sz sp g d a c => Sys2Proof.Machine.execLdSigned sz sp g d a c s
  | .st sz sp g a b c => Sys2Proof.Machine.execSt sz sp g a b c s
  | .sld sz sp d a c => Sys2Proof.Machine.execSld sz sp d a c s
  | .sst sz sp a b c => Sys2Proof.Machine.execSst sz sp a b c s
  | .prf sp g a c => Sys2Proof.Machine.execPrf sp g a c s
  | .atom op sz sp scope g d a b => Sys2Proof.Machine.execAtom op sz sp scope g d a b s
  | .cas sz sp scope g d a b => Sys2Proof.Machine.execCas sz sp scope g d a b s
  | .ldacq sz sp scope g d a => Sys2Proof.Machine.execLdacq sz sp scope g d a s
  | .strel sz sp scope g a b => Sys2Proof.Machine.execStrel sz sp scope g a b s
  | .fence scope => Sys2Proof.Machine.execFence scope s
  | .rel scope => Sys2Proof.Machine.execRel scope s
  | .acq scope => Sys2Proof.Machine.execAcq scope s
  | .bar lvl => Sys2Proof.Machine.execBar lvl s
  | .poll space p q => Sys2Proof.Machine.execPoll space p q s
  | .wait nl ns nc nt => Sys2Proof.Machine.execWait nl ns nc nt s
  | .qput q b => Sys2Proof.Machine.execQput q b s
  | .qget d q => Sys2Proof.Machine.execQget d q s
  | .qprobe d q => Sys2Proof.Machine.execQprobe d q s
  | .cncl lvl => Sys2Proof.Machine.execCncl lvl s
  | .cpy h desc => Sys2Proof.Machine.execCpy h desc s
  | .stadv n => Sys2Proof.Machine.execStadv n s
  | .hwait full p h => Sys2Proof.Machine.execHwait full p h s
  | .hrel h => Sys2Proof.Machine.execHrel h s
  | .mtask t a b fb => Sys2Proof.Machine.execMtask t a b fb s
  | .aalloc n => Sys2Proof.Machine.execAalloc n s
  | .afree => Sys2Proof.Machine.execAfree s
  | .ald g d a c => Sys2Proof.Machine.execAld g d a c s
  | .ast g a b c => Sys2Proof.Machine.execAst g a b c s
  | .azero t => Sys2Proof.Machine.execAzero t s
  | .aep t dst ed => Sys2Proof.Machine.execAep t dst ed s
  | .cpyc h desc grp => Sys2Proof.Machine.execCpyc h desc grp s
  | .evget d => Sys2Proof.Machine.execEvget d s
  | .gpol lvl => Sys2Proof.Machine.execGpol lvl s
  | .gqry d id => Sys2Proof.Machine.execGqry d id s
  | .gcul id => Sys2Proof.Machine.execGcul id s
  | .pair x y => Sys2Proof.Machine.execPair x y s
  | .addU32Compact d a b => Sys2Proof.Machine.execAddU32Compact d a b s
  | .subU32Compact d a b => Sys2Proof.Machine.execSubU32Compact d a b s
  | .mulU32Compact d a b => Sys2Proof.Machine.execMulU32Compact d a b s
  | .madU32Compact d a b => Sys2Proof.Machine.execMadU32Compact d a b s
  | .andU32Compact d a b => Sys2Proof.Machine.execAndU32Compact d a b s
  | .orU32Compact d a b => Sys2Proof.Machine.execOrU32Compact d a b s
  | .xorU32Compact d a b => Sys2Proof.Machine.execXorU32Compact d a b s
  | .shlU32Compact d a b => Sys2Proof.Machine.execShlU32Compact d a b s
  | .shrU32Compact d a b => Sys2Proof.Machine.execShrU32Compact d a b s
  | .sarI32Compact d a b => Sys2Proof.Machine.execSarI32Compact d a b s
  | .minI32Compact d a b => Sys2Proof.Machine.execMinI32Compact d a b s
  | .maxI32Compact d a b => Sys2Proof.Machine.execMaxI32Compact d a b s
  | .minU32Compact d a b => Sys2Proof.Machine.execMinU32Compact d a b s
  | .maxU32Compact d a b => Sys2Proof.Machine.execMaxU32Compact d a b s
  | .addSatI32Compact d a b => Sys2Proof.Machine.execAddSatI32Compact d a b s
  | .subSatI32Compact d a b => Sys2Proof.Machine.execSubSatI32Compact d a b s
  | .movU32Compact d a => Sys2Proof.Machine.execMovU32Compact d a s
  | .notU32Compact d a => Sys2Proof.Machine.execNotU32Compact d a s
  | .absI32Compact d a => Sys2Proof.Machine.execAbsI32Compact d a s
  | .clzU32Compact d a => Sys2Proof.Machine.execClzU32Compact d a s
  | .popcU32Compact d a => Sys2Proof.Machine.execPopcU32Compact d a s
  | .mulhI32Compact d a b => Sys2Proof.Machine.execMulhI32Compact d a b s
  | .mulhU32Compact d a b => Sys2Proof.Machine.execMulhU32Compact d a b s
  | .addSatU32Compact d a b => Sys2Proof.Machine.execAddSatU32Compact d a b s
  | .faddF32Compact d a b => Sys2Proof.Machine.execFaddF32Compact d a b s
  | .fsubF32Compact d a b => Sys2Proof.Machine.execFsubF32Compact d a b s
  | .fmulF32Compact d a b => Sys2Proof.Machine.execFmulF32Compact d a b s
  | .fmaF32Compact d a b => Sys2Proof.Machine.execFmaF32Compact d a b s
  | .fminF32Compact d a b => Sys2Proof.Machine.execFminF32Compact d a b s
  | .fmaxF32Compact d a b => Sys2Proof.Machine.execFmaxF32Compact d a b s
  | .faddF16Compact d a b => Sys2Proof.Machine.execFaddF16Compact d a b s
  | .fmulF16Compact d a b => Sys2Proof.Machine.execFmulF16Compact d a b s
  | .fmaF16Compact d a b => Sys2Proof.Machine.execFmaF16Compact d a b s
  | .faddBf16Compact d a b => Sys2Proof.Machine.execFaddBf16Compact d a b s
  | .fmulBf16Compact d a b => Sys2Proof.Machine.execFmulBf16Compact d a b s
  | .fmaBf16Compact d a b => Sys2Proof.Machine.execFmaBf16Compact d a b s
  | .frcpF32Compact d a => Sys2Proof.Machine.execFrcpF32Compact d a s
  | .frsqF32Compact d a => Sys2Proof.Machine.execFrsqF32Compact d a s
  | .fexp2F32Compact d a => Sys2Proof.Machine.execFexp2F32Compact d a s
  | .flog2F32Compact d a => Sys2Proof.Machine.execFlog2F32Compact d a s
  | .fsubF16Compact d a b => Sys2Proof.Machine.execFsubF16Compact d a b s
  | .fsubBf16Compact d a b => Sys2Proof.Machine.execFsubBf16Compact d a b s
  | .addU16Compact d a b => Sys2Proof.Machine.execAddU16Compact d a b s
  | .subU16Compact d a b => Sys2Proof.Machine.execSubU16Compact d a b s
  | .fminF16Compact d a b => Sys2Proof.Machine.execFminF16Compact d a b s
  | .fmaxF16Compact d a b => Sys2Proof.Machine.execFmaxF16Compact d a b s
  | .fminBf16Compact d a b => Sys2Proof.Machine.execFminBf16Compact d a b s
  | .fmaxBf16Compact d a b => Sys2Proof.Machine.execFmaxBf16Compact d a b s
  | .subSatU32Compact d a b => Sys2Proof.Machine.execSubSatU32Compact d a b s
  | .cnop => Sys2Proof.Machine.execCnop s
  | .translationWalk slot => Sys2Proof.Machine.execTranslationWalk slot s
  | .reserve vf => Sys2Proof.Machine.execReserve vf s
  | .populate vf => Sys2Proof.Machine.execPopulate vf s
  | .unmap vf => Sys2Proof.Machine.execUnmap vf s
  | .protect vf => Sys2Proof.Machine.execProtect vf s
  | .invalidationSweep core => Sys2Proof.Machine.execInvalidationSweep core s
  | .sweepAcknowledge vf core => Sys2Proof.Machine.execSweepAcknowledge vf core s
  | .pageRequestAnswer vf tag status frames => Sys2Proof.Machine.execPageRequestAnswer vf tag status frames s
  | .pageRequestTimeout vf entry => Sys2Proof.Machine.execPageRequestTimeout vf entry s
  | .quarantineRelease vf entry => Sys2Proof.Machine.execQuarantineRelease vf entry s
  | .engineTranslationMiss core cmd => Sys2Proof.Machine.execEngineTranslationMiss core cmd s
  | .claim n => Sys2Proof.Machine.execClaim n s
  | .verdictReturn n => Sys2Proof.Machine.execVerdictReturn n s
  | .claimSpaceTimeout n => Sys2Proof.Machine.execClaimSpaceTimeout n s
  | .loadWriteback slot id => Sys2Proof.Machine.execLoadWriteback slot id s
  | .lineDrain n => Sys2Proof.Machine.execLineDrain n s
  | .drainAcknowledge n => Sys2Proof.Machine.execDrainAcknowledge n s
  | .slotStatusChange n => Sys2Proof.Machine.execSlotStatusChange n s
  | .recordPurge n => Sys2Proof.Machine.execRecordPurge n s
  | .recordRewriteComplete identity => Sys2Proof.Machine.execRecordRewriteComplete identity s
  | .fabricRequestIn r => Sys2Proof.Machine.execFabricRequestIn r s
  | .fabricAcknowledge id data => Sys2Proof.Machine.execFabricAcknowledge id data s
  | .fabricRefusal id => Sys2Proof.Machine.execFabricRefusal id s
  | .commandStart core cmd => Sys2Proof.Machine.execCommandStart core cmd s
  | .copyComplete core cmd => Sys2Proof.Machine.execCopyComplete core cmd s
  | .tileTaskStart core cmd => Sys2Proof.Machine.execTileTaskStart core cmd s
  | .tileTaskComplete core cmd => Sys2Proof.Machine.execTileTaskComplete core cmd s
  | .aepComplete core cmd => Sys2Proof.Machine.execAepComplete core cmd s
  | .aallocGrant core => Sys2Proof.Machine.execAallocGrant core s
  | .collectiveTimeout core cmd => Sys2Proof.Machine.execCollectiveTimeout core cmd s
  | .starvationPromotion slot => Sys2Proof.Machine.execStarvationPromotion slot s
  | .parkExpiry slot => Sys2Proof.Machine.execParkExpiry slot s
  | .yieldExpiry slot => Sys2Proof.Machine.execYieldExpiry slot s
  | .barrierArrivalUp unit => Sys2Proof.Machine.execBarrierArrivalUp unit s
  | .barrierRelease unit => Sys2Proof.Machine.execBarrierRelease unit s
  | .preemptionRequest unit => Sys2Proof.Machine.execPreemptionRequest unit s
  | .ctxdatRead d => Sys2Proof.Machine.execCtxdatRead d s
  | .ctxdatWrite a => Sys2Proof.Machine.execCtxdatWrite a s
  | .unitPlacement vf => Sys2Proof.Machine.execUnitPlacement vf s
  | .tailDoorbell q tail => Sys2Proof.Machine.execTailDoorbell q tail s
  | .launchRecordTake q => Sys2Proof.Machine.execLaunchRecordTake q s
  | .queueRestart q => Sys2Proof.Machine.execQueueRestart q s
  | .eventRecordDeliver core => Sys2Proof.Machine.execEventRecordDeliver core s
  | .unitKill slot cause lanes detail addr => Sys2Proof.Machine.execUnitKill slot cause lanes detail addr s
  | .sensorSample readings => Sys2Proof.Machine.execSensorSample readings s
  | .refreshMultiplierFall vault => Sys2Proof.Machine.execRefreshMultiplierFall vault s
  | .thermalMigration core => Sys2Proof.Machine.execThermalMigration core s
  | .droverSample launch => Sys2Proof.Machine.execDroverSample launch s
  | .droverRebalance launch => Sys2Proof.Machine.execDroverRebalance launch s
  | .nearThresholdTransition core quarter busy => Sys2Proof.Machine.execNearThresholdTransition core quarter busy s
  | .lendingStart core => Sys2Proof.Machine.execLendingStart core s
  | .lendingRecall core => Sys2Proof.Machine.execLendingRecall core s
  | .candidateBuild vf target code => Sys2Proof.Machine.execCandidateBuild vf target code s
  | .candidateTest vf cand => Sys2Proof.Machine.execCandidateTest vf cand s
  | .hurdleComparison slot => Sys2Proof.Machine.execHurdleComparison slot s
  | .comparisonAbandon slot => Sys2Proof.Machine.execComparisonAbandon slot s
  | .cullWithdrawalRecord vf id => Sys2Proof.Machine.execCullWithdrawalRecord vf id s
  | .gqrdWrite vf value => Sys2Proof.Machine.execGqrdWrite vf value s
  | .uncorrectableError t => Sys2Proof.Machine.execUncorrectableError t s
  | .correctedError die vault bank row col => Sys2Proof.Machine.execCorrectedError die vault bank row col s
  | .dramRepair die vault bank isRow n => Sys2Proof.Machine.execDramRepair die vault bank isRow n s
  | .correctionEntryLapse die n => Sys2Proof.Machine.execCorrectionEntryLapse die n s
  | .functionReset vf => Sys2Proof.Machine.execFunctionReset vf s
  | .functionResetComplete vf => Sys2Proof.Machine.execFunctionResetComplete vf s
  | .bellwetherRecord core quarter => Sys2Proof.Machine.execBellwetherRecord core quarter s
  | .trcfgWrite k value => Sys2Proof.Machine.execTrcfgWrite k value s
  | .traceHypervisorHold core => Sys2Proof.Machine.execTraceHypervisorHold core s
  | .traceHypervisorRelease core => Sys2Proof.Machine.execTraceHypervisorRelease core s
  | .runhaltWrite c value => Sys2Proof.Machine.execRunhaltWrite c value s
  | .runbkWrite c value => Sys2Proof.Machine.execRunbkWrite c value s
  | .registerWrite r value => Sys2Proof.Machine.execRegisterWrite r value s
  | .flitResend link => Sys2Proof.Machine.execFlitResend link s
  | .linkDown link => Sys2Proof.Machine.execLinkDown link s
  | .linkUp link => Sys2Proof.Machine.execLinkUp link s
  | .bankSwitch => Sys2Proof.Machine.execBankSwitch s
  | .requestTimeout id => Sys2Proof.Machine.execRequestTimeout id s
  | .getVersion requester => Sys2Proof.Machine.execGetVersion requester s
  | .getCapabilities requester => Sys2Proof.Machine.execGetCapabilities requester s
  | .negotiateAlgorithms requester asym hash => Sys2Proof.Machine.execNegotiateAlgorithms requester asym hash s
  | .getDigests requester => Sys2Proof.Machine.execGetDigests requester s
  | .getCertificate requester offset length => Sys2Proof.Machine.execGetCertificate requester offset length s
  | .challenge requester nonce => Sys2Proof.Machine.execChallenge requester nonce s
  | .getMeasurements requester index nonce => Sys2Proof.Machine.execGetMeasurements requester index nonce s
  | .spdmUnsupportedRequest requester code => Sys2Proof.Machine.execSpdmUnsupportedRequest requester code s
  | .coldStart => Sys2Proof.Machine.execColdStart s
  | .configImageRewrite => Sys2Proof.Machine.execConfigImageRewrite s
  | .thermalShutdown c => Sys2Proof.Machine.execThermalShutdown c s
  | .powerAllowanceRefill core quarter => Sys2Proof.Machine.execPowerAllowanceRefill core quarter s
  | .hostCancel launch lvl => Sys2Proof.Machine.execHostCancel launch lvl s
  | .powerOff => Sys2Proof.Machine.execPowerOff s
  | .resultWriteback slot => Sys2Proof.Machine.execResultWriteback slot s

end Sys2Proof.Machine
end

