-- ==== Sys2Proof/Machine/Fetch.lean ====
section
/-! DEFINITION. Around the execution of an instruction: which identity issues (R148, R150, R173, R199, R258), the fetch (R49, R216, R217, R376), what an issue and a cycle cost and count (R199, R272, R402, R403), and the device's events that are due (log 4). -/

namespace Sys2Proof.Machine

/-! ## Fetch -/

/-- What a fetch comes to: an instruction with its first parcel, a fault, misses, a fabric line that has to be read first, or the end of a variant. -/
inductive Fetched where
  | ok (i : Instr) (parcel : Nat)
  | trap (t : Trap) (parcel : Nat)
  | miss (addrs : List (Nat × W64))
  | line (p va : Nat) (cached : Bool)
  | done
  deriving DecidableEq, Repr

/-- One parcel, or what stands in its way. -/
def State.parcel (s : State) (id va : Nat) : Except Fetched Nat :=
  let w := s.wave id
  match s.xlate (coreOf id) w.vf w.level .fetch va with
  | .ok p g =>
    if isFabric p then
      match (if g.attr == 0 then s.cachedLine id false (p / 64) else mget none w.code (p / 64)) with
      | some l => .ok (fld l (p % 64) 4)
      | none => .error (.line (p / 64 * 64) (va - p % 64) (g.attr == 0))
    else .ok (readN s.mem p 4)
  | .access => .error (.trap { cause := 6, addr := BitVec.ofNat 64 va } 0)
  | .priv => .error (.trap { cause := 2, addr := BitVec.ofNat 64 va } 0)
  | .miss => .error (.miss [(0, BitVec.ofNat 64 va)])

/-- Several parcels as one number; of what stands in their way a fault comes first, then the misses (R38, R217). -/
def joinParcels (xs : List (Except Fetched Nat)) : Except Fetched Nat :=
  let bad := xs.filterMap (fun x => match x with | .error e => some e | .ok _ => none)
  match bad.find? (fun e => match e with | .trap _ _ => true | _ => false) with
  | some e => .error e
  | none =>
    match bad.flatMap (fun e => match e with | .miss a => a | _ => []) with
    | [] => match bad with
      | e :: _ => .error e
      | [] => .ok (xs.foldr (fun x a => match x with | .ok p => p + 2 ^ 32 * a | .error _ => a) 0)
    | a => .error (.miss a)

/-- The decoder's answer for the word at the PC (R243, R244). -/
def decoded (bud w : Nat) : Fetched :=
  match decodeWord bud w with
  | .ok i => .ok i (w % 2 ^ 32)
  | .bad b => .trap (illop b.reason b.field) (w % 2 ^ 32)
  | .short => .done

/-- The instruction at a place in memory (R216, R217). -/
def State.fetchAt (s : State) (id va : Nat) : Fetched :=
  match s.parcel id va with
  | .error e => e
  | .ok p0 =>
    match joinParcels ((List.range (classLength (p0 % 256) / 4)).map (fun k => if k = 0 then .ok p0 else s.parcel id ((va + 4 * k) % 2 ^ 64))) with
    | .error e => e
    | .ok w => decoded (s.wave id).budget w

/-- The next instruction of a wave: from memory, or from the Fold while it executes a variant (R376). -/
def State.fetch (s : State) (id : Nat) : Fetched :=
  let w := s.wave id
  match w.gz.choice with
  | .variant q off =>
    match s.fold w.vf q with
    | none => .done
    | some f =>
      match f.code.drop (off / 4) with
      | [] => .done
      | p :: r => decoded f.bud ((((p :: r).take 3).zipIdx).foldl (fun a x => a + x.1.toNat * 2 ^ (32 * x.2)) 0)
  | _ => s.fetchAt id w.pc.toNat

/-! ## Which identity issues -/

/-- Whether an identity can try an instruction: READY, or STALLED on a wait that is tried again; not halted (R172), without a walk under way, not stopped for a migration (R192). An instruction already issued completes under HALT (R405). -/
def State.canIssue (s : State) (id : Nat) : Bool :=
  let w := s.wave id
  (w.st == .ready || w.st == .stalled) && w.walk == none && (!(w.halt && w.mode == .normal) || (w.st == .stalled && decide (2 ≤ w.step))) && !w.stopped

/-- Whether a READY wave has waited 4,096 cycles (R173). -/
def State.starved (s : State) (id : Nat) : Bool := (s.wave id).st == .ready && decide ((s.wave id).lastIssue + 4096 ≤ s.cycle)

/-- What the next issue of a wave costs (R199). -/
def State.nextCost (s : State) (id : Nat) : Nat :=
  let w := s.wave id
  match s.instrAt w.vf w.budget w.pc.toNat with
  | some (i, _) => issueCost w i
  | none => 1

/-- Whether a wave is withheld for power (R199); no cost is above 24, and a counter below 24 is up to date (State.quartersPass). -/
def State.withheld (s : State) (id : Nat) : Bool :=
  if isCtl id then false
  else
    let p := (s.quarter (coreOf id) (id % 64 / 16)).power
    if 24 ≤ p then false
    else
      let c : Int := (s.nextCost id : Int)
      decide (p < c) && !(s.starved id && decide (-4096 ≤ p - c))

/-- Whether a quarter passes a wave over after its yield (R258): another READY wave of at least its priority has not issued since. A starved wave is not passed over (R173). -/
def State.passedOver (s : State) (id : Nat) : Bool :=
  let w := s.wave id
  w.yielded.isSome && !s.starved id && (quarterSlots (coreOf id) (id % 64 / 16)).any (fun k => k != id && (s.wave k).st == .ready && !(s.wave k).halt && decide (w.prio ≤ (s.wave k).prio) && !w.yieldBy.contains k)

/-- The order in which a quarter prefers its waves (R148, R173), and after it the number of the identity. -/
def State.preference (s : State) (id : Nat) : List Nat :=
  let w := s.wave id
  [cond (s.starved id) 0 1, cond (w.lastIssue == 0 || decide (w.lastIssue + 4 ≤ s.cycle)) 0 1, cond (w.st == .ready) 0 1, 7 - w.prio, w.placed, id]

/-- Lists of numbers in their order. -/
def listLt : List Nat → List Nat → Bool
  | a :: x, b :: y => decide (a < b) || (a == b && listLt x y)
  | [], _ :: _ => true
  | _, [] => false

/-- The identity with the least key. -/
def leastOf (key : Nat → List Nat) : List Nat → Option Nat
  | [] => none
  | x :: r => some (r.foldl (fun a b => if listLt (key b) (key a) then b else a) x)

/-- The identities that can issue now: of each quarter, and of the control cores. -/
def State.candidates (s : State) : List Nat := ((s.waves.map (·.1)).filter s.canIssue).filter (fun id => !s.withheld id && (isCtl id || !s.passedOver id))

/-- The READY waves that are withheld for power in this cycle, and the count of them by their cores' trace units (R403). -/
def State.heldWaves (s : State) : List Nat := ((s.waves.map (·.1)).filter s.canIssue).filter (fun id => (s.wave id).st == .ready && s.withheld id)
def State.noteWithheld (s : State) : State := s.heldWaves.foldl (fun (s : State) id => s.trace (coreOf id) 7 1) s

/-- The wave that issues where nothing else is laid down: the preferred one of each quarter, and among the quarters the one that has waited longest (log 4). -/
def State.choose (s : State) : Option Nat :=
  let cs := s.candidates
  let firsts := ((cs.map (· / 16)).eraseDups).filterMap (fun q => leastOf s.preference (cs.filter (fun id => id / 16 == q && !isCtl id)))
  leastOf (fun id => [(s.wave id).lastIssue, id]) (firsts ++ cs.filter isCtl)

/-! ## Issue and time -/

/-- The identity that issues, with the parcel that an ILLOP would name (R244). -/
def State.ready (s : State) (id parcel : Nat) : State :=
  let s := State.modWave { s with cur := id } id (fun w => { w with parcel := BitVec.ofNat 32 parcel, lastIssue := s.cycle, yielded := none, yieldBy := [] })
  if isCtl id then s
  else (quarterSlots (coreOf id) (id % 64 / 16)).foldl (fun (s : State) k => if (s.wave k).yielded.isSome then s.modWave k (fun w => { w with yieldBy := w.yieldBy.insert id }) else s) s

/-- A core's counts for n cycles (R149, R403): cycles, slices offered to Graze by the quarters that offer any, of which an issue in quarter q has occupied some, near-threshold cycles of its quarters. -/
def State.countCycles (s : State) (c q used n : Nat) : State :=
  if (s.core c).trcfg.isEmpty then s
  else
    let nt := (([0, 1, 2, 3] : List Nat).filter (fun k => (s.quarter c k).slow s.cycle)).length
    let free := (([0, 1, 2, 3] : List Nat).map (fun k => if s.shut c k then 0 else if k = q then 8 - used else 8)).foldl (· + ·) 0
    ((s.trace c 1 n).trace c 4 (free * n)).trace c 0x0A (nt * n)

/-- The tile engines of a quarter of a core that are active. -/
def Core.engineOn (x : Core) (q : Nat) : Bool := x.cmds.any (fun e => match e.2 with | some k => k.kind == .tile && decide (2 ≤ k.phase) && decide (e.1 % 4 = q) | none => false)

/-- What n cycles do to the quarters of a core: a counter that an issue may find short gains its refill (R199, R201), an active tile engine spends 24 units a cycle (R199), busy cycles are noted (R200). -/
def State.quartersPass (s : State) (c n : Nat) : State :=
  ([0, 1, 2, 3] : List Nat).foldl (fun (s : State) q =>
    let b := s.busyNow c q
    let z := s.quarter c q
    let h := logBusy (s.cycle - n) b z.hist
    let s := if z.power < 24 then s.refillQuarter c q else s
    let s := if (s.core c).engineOn q then s.spend c q (24 * n) else s
    if h == z.hist then s else s.modQuarter c q (fun z => { z with hist := h })) s

/-- A cycle passes (R272, R202): an issue in quarter q occupied used slices on a core. -/
def State.pass (s : State) (core q used : Nat) : State :=
  let now := s.cycle + 1
  let s := { s with cycle := now, waves := s.waves.map (fun (x : Nat × Wave) => (x.1, if x.2.st == WState.empty then x.2 else { x.2 with clock := x.2.clock + 1 })) }
  s.cores.foldl (fun (s : State) (x : Nat × Core) =>
    let s := (s.countCycles x.1 (if x.1 = core then q else 4) used 1).quartersPass x.1 1
    if x.2.vf.isSome && s.readyOn x.1 != 0 then s.modCore x.1 (fun y => { y with idleSince := now }) else s) s

/-- The LEVELs that an instruction admits (R402; log 38): 0 without memory, 1 for the scratchpad, 8 for accumulator memory, 3 to 7 for a value that memory gives, and 2 for an s register's; none or that of the home for a store; none, that of the queue's ring or that of a descriptor for the rest. Which of them is timing. -/
def bellLevels (i : Instr) : List Nat :=
  let home := fun (sp : Bool) (none : List Nat) => if sp then [1] else none ++ [3, 4, 5, 6, 7]
  match i with
  | .ald .. | .ast .. | .azero .. => [8]
  | .ld _ sp .. => home sp []
  | .ldSigned _ sp .. => home sp []
  | .sld _ sp .. => home sp [2]
  | .atom _ _ sp .. => home sp []
  | .cas _ sp .. => home sp []
  | .ldacq _ sp .. => home sp []
  | .st _ sp .. => home sp [0]
  | .sst _ sp .. => home sp [0]
  | .strel _ sp .. => home sp [0]
  | .prf sp .. => home sp [0]
  | .qput .. | .qget .. => [0, 3, 4]
  | .cpy .. | .cpyc .. | .mtask .. | .aep .. | .stadv .. => [0, 3, 4, 5, 6, 7]
  | _ => [0]

/-- Whether a hold of an operand field takes effect: the source is a main vector or operand-file register and its slot's latch is valid with its code (R62). -/
def heldOpd (latch : Option Latch) : Opd → Bool
  | .src _ _ x => x.hold && (match x.src with | .v _ | .o _ => (match latch with | some l => l.tag == x.src.code | none => false) | _ => false)
  | _ => false

/-- Whether a hold of an instruction takes effect (R62). -/
def heldBy (w : Wave) (i : Instr) : Bool :=
  match i.view with
  | some v => heldOpd w.latA v.a || heldOpd w.latB v.b || heldOpd w.latC v.c
  | none => false

/-- A bellwether is tagged with probability 2^−BWLOG2, at most one in a quarter (R402); which issue it falls on is a free value (log 38). -/
def State.tagBell (s : State) (id : Nat) (w : Wave) (i : Instr) : State :=
  let e := s.hwN (64 * w.vf + 0x0C) 1
  if isCtl id || e < 8 || 24 < e || (s.wave id).st == .empty || (s.quarter (coreOf id) (id % 64 / 16)).bell.isSome then s
  else
    let n := s.fresh
    let var := match w.gz.choice with | .variant _ _ => true | _ => false
    let s := s.tick
    let loads := ((s.wave id).loads.filter (fun l => !w.loads.any (fun x => x.id == l.id))).map (·.id)
    let claims := (s.claims.filter (fun c => c.ident == id && c.since == s.cycle && c.op != 0)).map (·.op)
    if Config.freeNat (2 ^ 230 + n) % 2 ^ e = 0 then s.modQuarter (coreOf id) (id % 64 / 16) (fun q => { q with bell := some { ident := id, pc := w.recPc, seq := w.seq.toNat, var := var, levels := bellLevels i, lid := ((s.launch w.launch).map (fun (l : Launch) => l.launchid.toNat)).getD 0, hold := heldBy w i, ops := loads ++ claims, dst := if latency i = 0 then [] else runDst w i } }) else s

/-- What an issue adds to the state t that the instruction i of wave w left (R199, R402, R403): nothing where the instruction waits. Lines that its fetch alone has read are gone (R78). -/
def State.account (t : State) (id : Nat) (w : Wave) (i : Instr) : State :=
  if (t.wave id).st == .stalled then t.pass 192 4 0
  else
    let t := if (t.wave id).code.isEmpty then t else t.modWave id (fun w => { w with code := [] })
    let c := coreOf id
    let g := instrGroup i
    let used := if 3 ≤ g && g ≤ 5 then activeSlices w i else 0
    let t := if isCtl id then t else t.spend c (id % 64 / 16) (issueCost w i)
    (((t.tagBell id w i).trace c 2 1).trace c 3 used).pass c (if isCtl id then 4 else id % 64 / 16) used

/-! ## The device's events that may be due (log 4) -/

/-- An event of the opcode table, as its meaning. -/
abbrev Event := State → Host.Outcome State Fault Refusal

/-- Numbers of the entries of a list. -/
def numbers {α : Type} (xs : List α) : List Nat := List.range xs.length

/-- A number put before the first one with a greater key. -/
def insertBy (key : Nat → Nat) (n : Nat) : List Nat → List Nat
  | [] => [n]
  | x :: r => if key n ≤ key x then n :: x :: r else x :: insertBy key n r
/-- Numbers in rising order of a key. -/
def orderBy (key : Nat → Nat) (xs : List Nat) : List Nat := xs.foldr (insertBy key) []

/-- The verdicts that are on their way, the waves of lower index first (R395). -/
def State.verdictOrder (s : State) : List Nat := orderBy (fun n => ((s.verdicts[n]?).map (fun (v : Verdict) => (s.wave v.claim.ident).widx)).getD 0) (numbers s.verdicts)
/-- A core's commands in SEQ order (R395). -/
def Core.cmdOrder (x : Core) : List Nat := orderBy (fun k => ((mget none x.cmds k).map (fun (z : Cmd) => z.seq.toNat)).getD 0) (x.cmds.map (·.1))

/-- Events of ordering, of loads and of drains. -/
def State.dueOrder (s : State) : List Event :=
  (numbers s.changes).map execSlotStatusChange ++ (numbers s.purges).map execRecordPurge ++ s.rewrites.map execRecordRewriteComplete
  ++ (numbers s.claims).map execClaim ++ s.verdictOrder.map execVerdictReturn ++ (numbers s.drains).map execLineDrain ++ (numbers s.acks).map execDrainAcknowledge
  ++ (s.reqs.filter (fun q => q.fail != 0)).map (fun q => execFabricRefusal q.id) ++ (s.reqs.filter (fun q => q.link == localLink && q.fail == 0 && !q.held)).map (fun q => execFabricAcknowledge q.id []) ++ (numbers s.claims).map execClaimSpaceTimeout

/-- Events of waves. -/
def State.dueWaves (s : State) : List Event :=
  s.waves.flatMap (fun x =>
    (if x.2.walk.isSome then [execTranslationWalk x.1] else [])
    ++ (x.2.loads.filter (fun l => l.reqs.isEmpty && !l.acq)).map (fun l => execLoadWriteback x.1 l.id)
    ++ (if x.2.busy.isEmpty then [] else [execResultWriteback x.1])
    ++ (if x.2.st == .parked then [execParkExpiry x.1] else []) ++ (if x.2.yielded.isSome then [execYieldExpiry x.1] else []))

/-- Events of engines, of a core; a quarter's counter is brought up to date at least once in 4,096 cycles (log 4). -/
def dueCore (now c : Nat) (x : Core) : List Event :=
  x.cmdOrder.flatMap (fun k => [execEngineTranslationMiss c k, execCommandStart c k, execCopyComplete c k, execTileTaskStart c k, execTileTaskComplete c k, execAepComplete c k])
  ++ (if x.accQ.isEmpty then [] else [execAallocGrant c]) ++ (if x.evWait.isEmpty then [] else [execEventRecordDeliver c])
  ++ (if x.migReq then [execThermalMigration c] else []) ++ (if x.lendTo.isSome then [execLendingRecall c] else [])
  ++ x.quarters.flatMap (fun q => (if q.2.bell.isSome then [execBellwetherRecord c q.1] else []) ++ (if q.2.power < 4096 && decide (q.2.refill + 4096 ≤ now) then [execPowerAllowanceRefill c q.1] else []))

/-- Events of functions: svc requests, sweeps, placement, resets, withdrawals. -/
def dueVf (v : Nat) (f : VFn) : List Event :=
  (match f.svcq with
    | [] => []
    | q :: _ => if q.code = 0x40 then [execReserve v] else if q.code = 0x41 then [execPopulate v] else if q.code = 0x42 then [execUnmap v] else [execProtect v])
  ++ f.sweeps.flatMap (fun w => w.todo.map execInvalidationSweep ++ w.unacked.map (fun c => execSweepAcknowledge v c))
  ++ (if f.resetting then [execFunctionResetComplete v] else [])
  ++ (f.graze.folds.filter (fun e => e.st == .culled && !e.posted)).map (fun e => execCullWithdrawalRecord v e.seq)

/-- Events of units, queues, launches and comparisons. -/
def State.dueUnits (s : State) : List Event :=
  s.units.flatMap (fun (x : Nat × Option UnitR) => match x.2 with
    | some r => (if r.bar.count = 0 then [] else [execBarrierArrivalUp x.1, execBarrierRelease x.1])
      ++ (if r.preReq && r.preDef && !(s.liveSlots x.1 r).any (fun id => (s.wave id).deferred) then [execPreemptionRequest x.1] else [])
    | none => [])
  ++ (s.hw.filter (fun e => 0x80000 ≤ e.1 && e.1 < 0x100000 && e.1 % 64 == 0x0B && e.2 == 1)).map (fun e => execLaunchRecordTake ((e.1 - 0x80000) / 64))
  ++ (if s.pend.isEmpty && s.saved.isEmpty && !s.launches.any (fun (x : Nat × Option Launch) => match x.2 with | some l => !l.placed && !l.cnt.done | none => false) then []
      else ((s.cores.filterMap (fun x => x.2.vf)).eraseDups).map execUnitPlacement)
  ++ (s.launches.filter (fun (x : Nat × Option Launch) => match x.2 with | some l => l.kind == 1 && l.placed && !l.cnt.done | none => false)).flatMap (fun x => [execDroverSample x.1, execDroverRebalance x.1])
  ++ (numbers s.hurdles).flatMap (fun k => [execHurdleComparison k, execComparisonAbandon k]) ++ (if s.switching then [execBankSwitch] else [])

/-- Every event that may be due, in the order in which the model tries them where the agenda is empty. -/
def State.due (s : State) : List Event :=
  s.dueOrder ++ s.dueWaves ++ s.cores.flatMap (fun x => dueCore s.cycle x.1 x.2) ++ s.vfs.flatMap (fun x => dueVf x.1 x.2) ++ s.dueUnits

/-- Whether a state differs from another in more than the counter of free values; the measurement log and the device key, which are free values, change at a start alone. -/
def State.differs (s t : State) : Bool := { t with fresh := s.fresh, mlog := [], devKey := 0 } != { s with mlog := [], devKey := 0 }

/-- n more cycles. -/
def State.jump (s : State) (n : Nat) : State :=
  let s := { s with cycle := s.cycle + n, waves := s.waves.map (fun (x : Nat × Wave) => (x.1, if x.2.st == WState.empty then x.2 else { x.2 with clock := x.2.clock + n })) }
  s.cores.foldl (fun (s : State) (x : Nat × Core) => (s.countCycles x.1 4 0 n).quartersPass x.1 n) s

/-- A cycle in which nothing issues; where some waves back off and none is withheld for power, time goes on to the first end of a back-off (R198). -/
def State.idle (s : State) : State :=
  if !s.heldWaves.isEmpty then s.pass 192 4 0
  else match (s.waves.filter (fun x => x.2.st == .parked && decide (s.cycle + 1 < x.2.parkEnd))).map (fun x => x.2.parkEnd) with
  | [] => s.pass 192 4 0
  | e :: r => (s.pass 192 4 0).jump (r.foldl min e - (s.cycle + 1))

/-! ## An instruction where the next one is fetched -/

/-- The page that withFetchWord maps: the whole of it readable, writable and executable at user level. -/
def probePage : Page := { vf := 0, base := 0x10000000, size := 4096, frame := 0x40000000, w := true, u := true, x := true, attr := 0 }

/-- The wave of withFetchWord: running, at a restart region's first instruction, with the largest budget. -/
def probeWave (w : Wave) : Wave :=
  { w with st := .ready, halt := false, ctl := false, mode := .normal, unit := 0, launch := 0, pc := BitVec.ofNat 64 probePage.base, walk := none, stopped := false, step := 0, rel := .none,
           vf := 0, budget := 240, busy := [], loads := [], gz := {}, regs := { w.regs with exec := 0xFFFFFFFF }, rgn := { first := true, opened := 1 } }

end Sys2Proof.Machine
end

