-- ==== Sys2Proof/Machine/Step.lean ====
section
/-! DEFINITION. The step: what the agenda lays down, else an event that is due, else the issue of a wave, else a cycle without one (log 4). -/

namespace Sys2Proof.Machine

/-- The outcome of an instruction, with what its issue adds. -/
def finishIssue (id : Nat) (w : Wave) (i : Instr) (r : Host.Outcome State Fault Refusal) : Host.Outcome State Fault Refusal :=
  match r with
  | .next t => .next (t.account id w i)
  | .fault f => .fault f
  | .refused r => .refused r

/-- An identity issues: the instruction at its PC is executed, or its fetch faults, misses or waits; the issues that are withheld in this cycle are counted first (R403). An identity that cannot issue does nothing. -/
def issue (id : Nat) (s : State) : Host.Outcome State Fault Refusal :=
  if !s.canIssue id then .next s
  else
    let s := s.noteWithheld
    match s.fetch id with
    | .ok i p => finishIssue id (s.wave id) i (exec i (s.ready id p))
    | .trap t p => .next (((s.ready id p).trapCur t).pass 192 4 0)
    | .miss a => .next (((s.ready id 0).awaitWalk .fetch 0 a).pass 192 4 0)
    | .line p va c => .next (((if s.reqs.any (fun q => q.line == p && q.ident == id && q.use == .fetch) then s else s.fabSend id .fetch p va c []).modWave id (fun w => { w with st := .stalled, lastIssue := s.cycle })).pass 192 4 0)
    | .done => .next ((s.grazeCommit id).pass 192 4 0)

/-- The first of some events that changes the state. -/
def firstEvent (s : State) : List Event → Option (Host.Outcome State Fault Refusal)
  | [] => none
  | e :: r =>
    match e s with
    | .next t => if s.differs t then some (.next t) else firstEvent s r
    | o => some o

/-- Whether a term of Instr is an event: it has no encoding. -/
def isEvent (i : Instr) : Bool := i.word.isNone

/-- One step. -/
def step (s : State) : Host.Outcome State Fault Refusal :=
  match s.agenda with
  | .event i :: r => if isEvent i then exec i { s with agenda := r } else .next { s with agenda := r }
  | .issue id :: r => issue id { s with agenda := r }
  | [] =>
    if !s.power then .next s
    else match firstEvent s s.due with
      | some o => o
      | none => match s.choose with
        | some id => issue id s
        | none => .next s.noteWithheld.idle

/-- The state with an instruction where wave slot 0 of core 0 fetches its next one: its bytes in a page that the core's TLB maps, the wave running in a unit of a launch of function 0, its turn next (log 40). -/
def State.withFetchWord (s : State) (nbits w : Nat) : State :=
  let s := State.modWave { s with agenda := [.issue 0], power := true, mem := writeBytes s.mem probePage.frame (leBytes 12 (w % 2 ^ nbits)) } 0 probeWave
  let s := s.modCore 0 (fun x => { x with vf := some 0, tlb := probePage :: x.tlb })
  let s := if (s.unit 0).isSome then s else s.setUnit 0 (some { task := default, slots := [0] })
  if (s.launch 0).isSome then s else s.setLaunch 0 (some { stages := [default] })

end Sys2Proof.Machine
end

