-- ==== Sys2Proof/WellFormed.lean ====
section
/-! DEFINITION. Which instructions are well formed for a wave of register budget B: every operand of its kind and inside its range (R219, R220, R228), 64-bit operands even (R53), at most one literal (R225), guards legal (R222). -/

namespace Sys2Proof

/-- Whether a source names an odd register of the main or the operand file (R53). -/
def Src.odd : Src → Bool
  | .v n => n % 2 == 1
  | .o n => n % 2 == 1
  | _ => false

/-- Whether a source is accepted by a field of kind k (R219, R220, R236). -/
def Src.wf (k : SrcKind) (bud : Nat) : Src → Bool
  | .v n => (k == .v || k == .uniPlus) && n < 240 && n < bud
  | .s n => n < 64
  | .o n => k == .v && n < 8
  | .y n => k == .v && n < 2
  | .exec => k == .v || k == .scal
  | .imm i => -128 ≤ i && i ≤ 127
  | .lit _ => true

/-- Whether a hold bit may be kept on a source: main vector and operand-file registers alone (R62). -/
def Src.holds : Src → Bool
  | .v _ => true
  | .o _ => true
  | _ => false

/-- Whether an operand field is well formed (R220, R53). -/
def Opd.wf (bud : Nat) : Opd → Bool
  | .none => true
  | .src k wide x => x.src.wf k bud && (!wide || !x.src.odd) && (!x.hold || x.src.holds)
  | .dst vo s exec wide x =>
    match x with
    | .v n => vo && n < 240 && n < bud && (!wide || n % 2 == 0)
    | .o n => vo && n < 8 && (!wide || n % 2 == 0)
    | .s n => s && n < 64
    | .exec => exec
  | .sdst even n => n < 64 && (!even || n % 2 == 0)
  | .pred n => n < 128
  | .tile (.v n) => n < 240 && n < bud
  | .tile (.s n) => n < 64 && n % 2 == 0
  | .vreg n => n < 240 && n < bud
  | .kval _ ok => ok

/-- How many literals an operand field names. -/
def Opd.lits (x : Opd) : Nat := cond x.lit?.isSome 1 0

/-- A guard names p0 to p127 and is not p0 negated (R222). -/
def Guard.wf (g : Guard) : Bool := g.p < 128 && !(g.p == 0 && g.neg)

/-- Whether the view of an instruction is well formed. -/
def View.wf (bud : Nat) (v : View) : Bool :=
  v.ok && ((v.guard.map Guard.wf).getD true) && v.d.wf bud && v.a.wf bud && v.b.wf bud && v.c.wf bud
    && v.a.lits + v.b.lits + v.c.lits ≤ 1

/-- A half is well formed at its position: every operand has a code there, registers below the budget, and b is absent exactly in the unary forms (R228, R229). -/
def Half.wf (pos : RPos) (bud : Nat) (h : Half) : Bool :=
  (pos.dstCode h.d).isSome && h.d.below bud && (pos.srcCode h.a).isSome && h.a.below bud && (h.b.isNone == h.op.unary)
    && (match h.b with
      | none => true
      | some b => (pos.srcCode b).isSome && b.below bud)
    && (pos != .compact || h.op.code < 64)

/-- Whether an atomic, cas or ldacq names an s destination, which the control core alone has (R335). -/
def Instr.scalarAtom : Instr → Bool
  | .atom _ _ _ _ _ (.s _) _ _ | .cas _ _ _ _ (.s _) _ _ | .ldacq _ _ _ _ (.s _) _ => true
  | _ => false

/-- Whether an instruction is well formed for a wave of budget bud, or for a control core's program, where bud is ctlBudget; events are the device's own and have no encoding. -/
def WellFormed (bud : Nat) (i : Instr) : Bool :=
  match i with
  | .pair x y => x.wf .first bud && y.wf .second bud
  | .cnop => true
  | .region vl ol => vl < 256 && vl ≤ bud && ol < 256
  | i => match i.view with
    | some v => v.wf bud && !(bud != ctlBudget && i.scalarAtom)
    | none => match i.compactHalf with
      | some h => h.wf .compact bud
      | none => false

end Sys2Proof
end

