-- ==== Sys2Proof/Safety.lean ====
section
/-! DEFINITION. The terms in which statements about the machine are made: when an instruction issues, what its completion leaves alone, what a register file reads, and the invariant of memory. -/

namespace Sys2Proof.Safety

open Sys2Proof.Machine

/-! ## The invariant -/

/-- The machine's memory, the hypervisor window and the configuration image are in canonical form. -/
def Inv (s : State) : Prop := Memory.wf s.mem = true ∧ mwf 0 s.hw = true ∧ mwf 0 s.image = true

/-! ## Issuing -/

/-- The wave or control core whose instruction executes. -/
def me (s : State) : Wave := s.wave s.cur

/-- The instruction is one that its wave may execute now and does not have to wait: the control core's set (R174), the set of save and restore mode (R432), the place of a non-idempotent instruction (R166), no register that it names still to be written (R60, R103), no claim of the wave unverified (R95), in save and restore mode no access of the wave under way (R431). -/
def Issues (s : State) (i : Instr) : Prop :=
  ((me s).ctl = true → ctlAllows i = true)
  ∧ ((me s).mode ≠ .normal → modeAllows (me s).mode i = true)
  ∧ ((me s).mode = .normal → (me s).ctl = false → nonIdem i = true → (me s).rgn.first = true)
  ∧ hazard (me s) i = false
  ∧ ((me s).mode ≠ .normal → s.accessOut = false)
  ∧ ((me s).mode = .normal → nonIdem i = true → s.unverified s.cur = false)

/-- Whether the wave executes a variant's code (R376), where its place is no address. -/
def inVariant (w : Wave) : Bool :=
  match w.gz.choice with
  | .variant _ _ => true
  | _ => false

/-- w' is w but for the register files and their marks, the latches, the PC, and what completing an instruction touches: the wave's state, the step, the engine words and the schedule plan of an instruction in progress, the restart region, results on their way, Graze. Every special register, exception register, the mask stack and the mode are w's. -/
def Keeps (w w' : Wave) : Prop :=
  w' = { w with regs := w'.regs, poison := w'.poison, taint := w'.taint, latA := w'.latA, latB := w'.latB, latC := w'.latC, pc := w'.pc, st := w'.st, step := w'.step, wait := w'.wait,
                eng := w'.eng, engi := w'.engi, sched := w'.sched, rgn := w'.rgn, busy := w'.busy, gz := w'.gz }

/-- The wave is READY at the next instruction, n bytes on. -/
def Advances (n : Nat) (w w' : Wave) : Prop := w'.st = .ready ∧ (inVariant w = false → w'.pc = w.pc + BitVec.ofNat 64 n)

/-- Executing i gives a next state in which nothing but the executing wave differs, that wave differs only as Keeps says and stands at the next instruction, and P relates it to what it was. -/
def Gives (s : State) (i : Instr) (P : Wave → Wave → Prop) : Prop :=
  ∃ w', exec i s = .next (s.setWave s.cur w') ∧ Keeps (me s) w' ∧ Advances i.length (me s) w' ∧ P (me s) w'

/-- Wherever i issues, executing it gives that. -/
def Completes (s : State) (i : Instr) (P : Wave → Wave → Prop) : Prop := Issues s i → Gives s i P

/-- Executing i gives a next state of which P holds. -/
def Does (s : State) (i : Instr) (P : State → Prop) : Prop := ∃ t, exec i s = .next t ∧ P t

/-- Wherever i issues, executing it gives a next state of which P holds. -/
def Runs (s : State) (i : Instr) (P : State → Prop) : Prop := Issues s i → Does s i P

/-! ## What the register files hold -/

/-- Lane l of v register n. -/
def vAt (w : Wave) (n l : Nat) : W32 := mget 0 w.regs.v (key n l)
/-- Lane l of o register n. -/
def oAt (w : Wave) (n l : Nat) : W32 := mget 0 w.regs.o (key n l)
/-- Lane l of y register n. -/
def yAt (w : Wave) (n l : Nat) : W64 := mget 0 w.regs.y (key n l)
/-- Scalar register n. -/
def sAt (w : Wave) (n : Nat) : W64 := mget 0 w.regs.s n
/-- The poison marks of the same. -/
def vBad (w : Wave) (n l : Nat) : Bool := mget false w.poison.v (key n l)
def oBad (w : Wave) (n l : Nat) : Bool := mget false w.poison.o (key n l)
def yBad (w : Wave) (n l : Nat) : Bool := mget false w.poison.y (key n l)
def sBad (w : Wave) (n : Nat) : Bool := mget false w.poison.s n
def pBad (w : Wave) (n l : Nat) : Bool := mget false w.poison.p (key n l)

/-! ## Operands that are not poisoned -/

/-- The 64-bit value of a scalar source (R261). -/
def sVal (w : Wave) (x : Src) : W64 := BitVec.ofNat 64 (scalarLV w 2 x).val

/-- No scalar source is poisoned. -/
def ScalarsClean (w : Wave) (xs : List Src) : Prop := ∀ x ∈ xs, (scalarLV w 2 x).poison = none

/-- The guard's predicate is poisoned in no lane whose EXEC bit is set (R396). -/
def GuardClean (w : Wave) (g : Guard) : Prop := ∀ l ∈ execLanes w, (predLV w 5 g.p l).poison = none

/-- No operand is poisoned in a lane of Active. -/
def LanesClean (w : Wave) (g : Guard) (xs : List Opn) : Prop := GuardClean w g ∧ ∀ l ∈ active w g, ∀ x ∈ xs, (x.at w 2 l).poison = none

/-- No predicate of a list is poisoned in a lane of Active. -/
def PredsClean (w : Wave) (g : Guard) (ps : List Nat) : Prop := GuardClean w g ∧ ∀ l ∈ active w g, ∀ p ∈ ps, (predLV w 2 p l).poison = none

/-! ## Integer arithmetic of the spec on n-bit words -/

/-- Bits [2n−1:n] of the exact product (R262, R284). -/
def mulHigh {n : Nat} (sg : Bool) (a b : BitVec n) : BitVec n :=
  if sg then BitVec.ofInt n (a.toInt * b.toInt / 2 ^ n) else BitVec.ofNat n (a.toNat * b.toNat / 2 ^ n)

/-- Division toward zero, with the stated results for a zero divisor (R263, R285). -/
def quotient {n : Nat} (sg : Bool) (a b : BitVec n) : BitVec n :=
  if b = 0 then (if sg && !a.msb then 0 else BitVec.allOnes n) else if sg then BitVec.ofInt n (a.toInt.tdiv b.toInt) else BitVec.ofNat n (a.toNat / b.toNat)

/-- The remainder, with the sign of the dividend (R263, R285). -/
def remainder {n : Nat} (sg : Bool) (a b : BitVec n) : BitVec n :=
  if b = 0 then (if sg && !a.msb then 0 else BitVec.allOnes n) else if sg then BitVec.ofInt n (a.toInt.tmod b.toInt) else BitVec.ofNat n (a.toNat % b.toNat)

/-- Less, read signed or unsigned. -/
def less {n : Nat} (sg : Bool) (a b : BitVec n) : Bool := if sg then decide (a.toInt < b.toInt) else decide (a.toNat < b.toNat)

/-- An integer condition (R234, R264, R287). -/
def holds {n : Nat} (c : ICond) (sg : Bool) (a b : BitVec n) : Bool :=
  match c with
  | .eq => a == b
  | .ne => a != b
  | .lt => less sg a b
  | .le => !less sg b a
  | .gt => less sg b a
  | .ge => !less sg a b

/-- An exact integer clamped to the range of n bits (R284). -/
def clamp (n : Nat) (sg : Bool) (x : Int) : BitVec n :=
  if sg then BitVec.ofInt n (max (-(2 ^ (n - 1))) (min (2 ^ (n - 1) - 1) x)) else BitVec.ofInt n (max 0 (min (2 ^ n - 1) x))

/-- The signed or unsigned reading. -/
def asInt {n : Nat} (sg : Bool) (a : BitVec n) : Int := if sg then a.toInt else (a.toNat : Int)

/-- Leading zero bits, 0 to n. -/
def leadingZeros {n : Nat} (a : BitVec n) : Nat := ((List.range n).filter (fun k => a.toNat < 2 ^ k)).length

/-- Set bits. -/
def setBits {n : Nat} (a : BitVec n) : Nat := ((List.range n).filter (fun k => a.getLsbD k)).length

/-- Extend(x[w−1:0]) of R265 from w < n bits. -/
def extendField {n : Nat} (sg : Bool) (w : Nat) (x : BitVec n) : BitVec n :=
  if sg then BitVec.signExtend n (BitVec.setWidth w x) else BitVec.setWidth n (BitVec.setWidth w x)

/-- sbfx and bfx (R265, R286), pos and w as reduced there. -/
def extractField {n : Nat} (sg : Bool) (a : BitVec n) (pos w : Nat) : BitVec n :=
  let x := if sg then a.sshiftRight pos else a >>> pos
  if w = 0 then 0 else if n ≤ w then x else extendField sg w x

/-- sbfi and bfi (R265, R286). -/
def insertField {n : Nat} (d a : BitVec n) (pos w : Nat) : BitVec n :=
  let m := (if n ≤ w then BitVec.allOnes n else BitVec.ofNat n (2 ^ w - 1)) <<< pos
  (d &&& ~~~m) ||| ((a <<< pos) &&& m)

/-- A function of n-bit elements, on each element of a lane. -/
def each1 (t : ITy) (f : BitVec t.width → BitVec t.width) (a : Nat) : Nat := packEls t.width t.count (fun k => (f (BitVec.ofNat _ (elem t.width k a))).toNat)
def each2 (t : ITy) (f : BitVec t.width → BitVec t.width → BitVec t.width) (a b : Nat) : Nat :=
  packEls t.width t.count (fun k => (f (BitVec.ofNat _ (elem t.width k a)) (BitVec.ofNat _ (elem t.width k b))).toNat)
def each3 (t : ITy) (f : BitVec t.width → BitVec t.width → BitVec t.width → BitVec t.width) (a b c : Nat) : Nat :=
  packEls t.width t.count (fun k => (f (BitVec.ofNat _ (elem t.width k a)) (BitVec.ofNat _ (elem t.width k b)) (BitVec.ofNat _ (elem t.width k c))).toNat)
def each4 (t : ITy) (f : BitVec t.width → BitVec t.width → BitVec t.width → BitVec t.width → BitVec t.width) (a b c d : Nat) : Nat :=
  packEls t.width t.count (fun k => (f (BitVec.ofNat _ (elem t.width k a)) (BitVec.ofNat _ (elem t.width k b)) (BitVec.ofNat _ (elem t.width k c)) (BitVec.ofNat _ (elem t.width k d))).toNat)
/-- A relation that holds in every element of a lane (R287). -/
def every2 (t : ITy) (f : BitVec t.width → BitVec t.width → Bool) (a b : Nat) : Bool :=
  (List.range t.count).all (fun k => f (BitVec.ofNat _ (elem t.width k a)) (BitVec.ofNat _ (elem t.width k b)))

/-- The combination of lred and lscan (R291), and its identity. -/
def combine {n : Nat} (op : RedOp) (sg : Bool) (a b : BitVec n) : BitVec n :=
  match op with
  | .add => a + b
  | .min => if less sg b a then b else a
  | .max => if less sg a b then b else a
  | .and => a &&& b
  | .or => a ||| b
  | .xor => a ^^^ b
def neutral {n : Nat} (op : RedOp) (sg : Bool) : BitVec n :=
  match op with
  | .add | .or | .xor => 0
  | .and => BitVec.allOnes n
  | .min => if sg then BitVec.intMax n else BitVec.allOnes n
  | .max => if sg then BitVec.intMin n else 0
/-- A combination over the values of some lanes, element by element. -/
def combined (t : ITy) (op : RedOp) (sg : Bool) (xs : List Nat) : Nat :=
  packEls t.width t.count (fun k => (xs.foldl (fun acc x => combine op sg acc (BitVec.ofNat t.width (elem t.width k x))) (neutral op sg)).toNat)

/-! ## The one rounding (R208, R210 to R212) -/

/-- R is the exact value X rounded to a multiple of the spacing U (R208, R210): itself where it is one; else the multiple on the side that the rounding names, or the nearer of the two that bracket X, at a tie the even multiple or the one of larger magnitude; under dither the upper one where floor(32·t) exceeds D (R212). -/
def RoundsTo (rm : Rm) (X U R : Int) : Prop :=
  (∃ k : Int, R = k * U ∧ (rm = .rne → 2 * (R - X).natAbs = U.natAbs → k % 2 = 0))
  ∧ match rm with
    | .rtz => R.natAbs ≤ X.natAbs ∧ X.natAbs < R.natAbs + U.natAbs ∧ 0 ≤ R * X
    | .rup => X ≤ R ∧ R < X + U
    | .rdn => R ≤ X ∧ X < R + U
    | .rne => 2 * (R - X).natAbs ≤ U.natAbs
    | .rna => 2 * (R - X).natAbs ≤ U.natAbs ∧ (2 * (R - X).natAbs = U.natAbs → X.natAbs < R.natAbs)
    | .dither d => R = if (d : Int) < 32 * (X % U) / U then X / U * U + U else X / U * U

/-- The binary formats of R204, which have a layout of their own. -/
def isBinary (f : Fmt) : Bool := !f.isInt && f != .t8 && f != .e8m0

/-- The exponent of the spacing of a binary format at m · 2^e, m ≠ 0: that of its binade, or of the subnormals (R204). -/
def spacing (f : Fmt) (m : Nat) (e : Int) : Int := max (leadExp m e) (1 - (f.layout.bias : Int)) - f.layout.mb

/-- The largest finite encoding, and what stands for a larger value without saturation, of sign + (R204, R208, R211). -/
def largest : Fmt → Nat
  | .fp64 => 0x7FEFFFFFFFFFFFFF | .fp32 => 0x7F7FFFFF | .fp16 => 0x7BFF | .bf16 => 0x7F7F | .e5m2 => 0x7B | .e4m3 => 0x7E | .e2m1 => 0x7 | _ => 0
def beyond : Fmt → Nat
  | .fp64 => 0x7FF0000000000000 | .fp32 => 0x7F800000 | .fp16 => 0x7C00 | .bf16 => 0x7F80 | .e5m2 => 0x7C | .e4m3 => 0x7F | .e2m1 => 0x7 | _ => 0
/-- The largest finite value as n · 2^q (R204, R210). -/
def largestValue : Fmt → Nat × Int
  | .fp64 => (2 ^ 53 - 1, 971) | .fp32 => (2 ^ 24 - 1, 104) | .fp16 => (2047, 5) | .bf16 => (255, 120) | .e5m2 => (7, 13) | .e4m3 => (14, 5) | .e2m1 => (3, 1) | _ => (0, 0)
/-- An encoding with a sign. -/
def withSign (f : Fmt) (s : Bool) (z : Nat) : Nat := z + cond s (2 ^ (f.width - 1)) 0

/-- The encoding z of a binary format is ±m · 2^e rounded once, where that value lies within the format's largest; all counted in units of 2^(c − 1), c the lesser of e and the exponent of the spacing. -/
def RoundsOnce (f : Fmt) (rm : Rm) (s : Bool) (m : Nat) (e : Int) (z : Nat) : Prop :=
  let q := spacing f m e
  let c := min e q - 1
  ∃ n g, toExact f false z = .fin s n g ∧ c ≤ g ∧ RoundsTo rm (atExp s m e c) (2 ^ (q - c).toNat) (atExp s n g c)

/-- m · 2^e is at most a · 2^b. -/
def atMost (m : Nat) (e : Int) (a : Nat) (b : Int) : Prop := atExp false m e (min e b) ≤ atExp false a b (min e b)

/-! ## Lane operands -/

/-- The operands of an instruction of group 3 in its type, and a 32-bit operand where R286 makes it one. -/
def opI (t : ITy) (x : HSrc) : Opn := ⟨intKind t, t.wide, x.src⟩
def opCount (t : ITy) (x : HSrc) : Opn := ⟨countKind t, false, x.src⟩
def opF (t : FTy) (x : HSrc) : Opn := ⟨floatKind t, t.wide, x.src⟩
/-- The value of an operand in lane l (R276). -/
def laneVal (w : Wave) (x : Opn) (l : Nat) : Nat := (x.at w 2 l).val

/-! ## Results -/

/-- Nothing in the register files changes but scalar register d, which takes v and loses its poison (R52, R245). -/
def ScalarGets (d : Nat) (v : W64) (w w' : Wave) : Prop :=
  (∀ n, sAt w' n = if n = d then v else sAt w n) ∧ (∀ n, sBad w' n = (n != d && sBad w n))
  ∧ w'.regs = { w.regs with s := w'.regs.s } ∧ w'.poison = { w.poison with s := w'.poison.s }

/-- Nothing in the register files changes but predicate d, which takes f in the lanes ls and loses its poison there; a write of p0 is discarded (R54). -/
def PredGets (d : Nat) (ls : List Nat) (f : Nat → Bool) (w w' : Wave) : Prop :=
  (∀ n l, l < 32 → predBit w' n l = if n = d ∧ n ≠ 0 ∧ l ∈ ls then f l else predBit w n l)
  ∧ (∀ n l, l < 32 → n ≠ 0 → pBad w' n l = (!(n == d && ls.contains l) && pBad w n l))
  ∧ w'.regs = { w.regs with p := w'.regs.p } ∧ w'.poison = { w.poison with p := w'.poison.p }

/-- Nothing in the register files changes but destination d, a v or o register (a pair of them where wide), and the last-result registers, in the lanes ls: d takes f, y1 takes y0 and y0 takes f (R53, R58, R277); their poison goes with it (R280). -/
def LanesGet (wide : Bool) (d : Dst) (ls : List Nat) (f : Nat → Nat) (w w' : Wave) : Prop :=
  (∀ n l, l < 32 → vAt w' n l = if l ∈ ls ∧ d = .v n then BitVec.ofNat 32 (f l)
      else if l ∈ ls ∧ wide = true ∧ n ≠ 0 ∧ d = .v (n - 1) then BitVec.ofNat 32 (f l / 2 ^ 32) else vAt w n l)
  ∧ (∀ n l, l < 32 → oAt w' n l = if l ∈ ls ∧ d = .o n then BitVec.ofNat 32 (f l)
      else if l ∈ ls ∧ wide = true ∧ n ≠ 0 ∧ d = .o (n - 1) then BitVec.ofNat 32 (f l / 2 ^ 32) else oAt w n l)
  ∧ (∀ l, l < 32 → yAt w' 0 l = if l ∈ ls then BitVec.ofNat 64 (f l) else yAt w 0 l)
  ∧ (∀ l, l < 32 → yAt w' 1 l = if l ∈ ls then yAt w 0 l else yAt w 1 l)
  ∧ (∀ n l, l < 32 → vBad w' n l = (!(ls.contains l && (d == .v n || (wide && n != 0 && d == .v (n - 1)))) && vBad w n l))
  ∧ (∀ n l, l < 32 → oBad w' n l = (!(ls.contains l && (d == .o n || (wide && n != 0 && d == .o (n - 1)))) && oBad w n l))
  ∧ (∀ l, l < 32 → yBad w' 0 l = (!ls.contains l && yBad w 0 l)) ∧ (∀ l, l < 32 → yBad w' 1 l = if l ∈ ls then yBad w 0 l else yBad w 1 l)
  ∧ w'.regs = { w.regs with v := w'.regs.v, o := w'.regs.o, y := w'.regs.y } ∧ w'.poison = { w.poison with v := w'.poison.v, o := w'.poison.o, y := w'.poison.y }

/-- Nothing in the register files changes. -/
def RegsSame (w w' : Wave) : Prop := w'.regs = w.regs ∧ w'.poison = w.poison

/-- A destination that a result-producing instruction can have. -/
def isVO (d : Dst) : Bool :=
  match d with
  | .v _ | .o _ => true
  | _ => false

/-! ## Control -/

/-- w' is w but for EXEC, the latches, the mask stack, the PC, and what completing an instruction touches. -/
def KeepsControl (w w' : Wave) : Prop :=
  w' = { w with regs := { w.regs with exec := w'.regs.exec }, latA := w'.latA, latB := w'.latB, latC := w'.latC, depth := w'.depth, stack := w'.stack, pc := w'.pc, st := .ready, step := 0, wait := .none, eng := [], engi := 0, sched := none, rgn := w'.rgn }

/-- Executing i gives a next state in which the executing wave alone differs, with EXEC m, the PC pc, the depth n and the mask-stack entries st. -/
def Steers (s : State) (i : Instr) (m : W32) (pc : W64) (n : Nat) (st : Nat → MEntry) : Prop :=
  Issues s i → ∃ w', exec i s = .next (s.setWave s.cur w') ∧ KeepsControl (me s) w' ∧ w'.regs.exec = m ∧ w'.pc = pc ∧ w'.depth = n ∧ ∀ k, w'.ment k = st k

/-- A uniform 64-bit operand has the value v in the wave (R155, R220): a register pair holds it in every lane of EXEC. -/
def UniformIs (w : Wave) (x : Src) (v : W64) : Prop :=
  match x with
  | .v n => execLanes w ≠ [] ∧ ∀ l ∈ execLanes w, (vLV w 2 true n l).poison = none ∧ (vLV w 2 true n l).val = v.toNat
  | x => (scalarLV w 2 x).poison = none ∧ sVal w x = v

/-- The wave's part of a transfer to t: registers but for a link register are as they were. -/
def Transfers (s : State) (i : Instr) (link : Option (Nat × W64)) (t : W64) : Prop :=
  Issues s i → ∃ w', exec i s = .next (s.setWave s.cur w') ∧ Keeps (me s) w' ∧ w'.st = .ready ∧ w'.pc = t
    ∧ (match link with
      | some (d, r) => ScalarGets d r (me s) w'
      | none => RegsSame (me s) w')

/-- The wave in its trap handler as R254 leaves it: what is saved, the level, the handler's address, the last-result registers zero; every other register and special register as before. -/
def EntersTrap (w : Wave) (cause value : Nat) (w' : Wave) : Prop :=
  w'.tepc = BitVec.ofNat 64 ((w.pc.toNat + 8) % 2 ^ 57) ∧ w'.tcause = BitVec.ofNat 64 (value % 2 ^ 20 * 256 + cause) ∧ w'.tstat = BitVec.ofNat 64 (2 * w.level + 1)
  ∧ w'.level = max w.level 1 ∧ w'.pc = BitVec.ofNat 64 (w.tvec.toNat % 2 ^ 57 / 4 * 4) ∧ w'.st = .ready
  ∧ w'.regs = { w.regs with y := [] } ∧ w'.tvec = w.tvec ∧ w'.fmode = w.fmode ∧ w'.nmode = w.nmode ∧ w'.depth = w.depth ∧ w'.stack = w.stack ∧ w'.mode = w.mode ∧ w'.poison = { w.poison with y := [] }

/-! ## Memory, scratchpad and what is under way -/

/-- The executing wave goes on behind i with its register files as they were, and no byte of memory has changed. -/
def Passes (s : State) (i : Instr) (t : State) : Prop :=
  Advances i.length (me s) (t.wave s.cur) ∧ RegsSame (me s) (t.wave s.cur) ∧ t.mem = s.mem

/-- At their homes every byte of memory and of the scratchpads reads as before, but for the bytes bs at a. -/
def Stored (s t : State) (sp : Space) (a : Nat) (bs : List Byte) : Prop :=
  ∀ q p, t.homeByte q p = if q = sp ∧ a ≤ p ∧ p < a + bs.length then bs.getD (p - a) 0 else s.homeByte q p

/-- Nothing of the executing identity is under way, it has nothing in a store buffer that others could see, and it has claimed memory on its own die alone: a synchronising instruction completes at its first attempt. -/
def Quiet (s : State) : Prop :=
  s.unverified s.cur = false ∧ (me s).cpc = 0 ∧ (me s).ttc = 0 ∧ s.draining s.cur = false ∧ (me s).rel = .none ∧ (me s).step = 0 ∧ s.changes = [] ∧ s.interval s.cur < 0xFFFF
  ∧ (∀ d ∈ (me s).dies, d = s.dieOf s.cur) ∧ (me s).stage1 = [] ∧ (∀ r, s.unitOf s.cur = some r → ∀ e ∈ r.sb, e.ident ≠ s.cur)

/-- Besides, no store of the unit is buffered, no granule has a record, and no register is tainted. -/
def Alone (s : State) : Prop := Quiet s ∧ (∀ r, s.unitOf s.cur = some r → r.sb = []) ∧ s.recs = [] ∧ (me s).taint = {}

/-- The lanes of an access with their addresses and the taint of these (R311). -/
def addresses (w : Wave) (g : Guard) (sp : Bool) (a c : Src) : List (Nat × Int × Bool) :=
  (active w g).map fun l => (l, (addrLV w sp a c l).1, (addrLV w sp a c l).2.taint)

/-- No part of an address is poisoned in a lane of Active, nor the guard. -/
def AddressesClean (w : Wave) (g : Guard) (sp : Bool) (a c : Src) : Prop := GuardClean w g ∧ ∀ l ∈ active w g, (addrLV w sp a c l).2.poison = none

/-- Where a lane's address is not a multiple of the access's size, i raises ALIGN with the mask of those lanes, none for a scalar access, and their lowest address (R313, R316). -/
def AlignTraps (s : State) (i : Instr) (size : Nat) (vec : Bool) (xs : List (Nat × Int × Bool)) : Prop :=
  let bad := xs.filter fun x => x.2.1 % (size : Int) != 0
  let at_ := fun (x : Nat × Int × Bool) => (x.2.1 % 2 ^ 64).toNat
  ∀ x ∈ bad, (∀ y ∈ bad, at_ x ≤ at_ y) → Issues s i →
    exec i s = .next (s.trapCur { cause := 0x04, lanes := if vec then laneMask (fun l => bad.any (·.1 == l)) else 0, addr := BitVec.ofNat 64 (at_ x) })

/-- A lane's access of n bytes conflicts with a range lock: it is in the entry's space, overlaps its range, and one of the two writes (R131). -/
def Conflicts (l : Lock) (y : Acc) (n : Nat) (write : Bool) : Prop :=
  l.space = spaceCode y.sp ∧ l.first ≤ (y.pa + n - 1) / 32 ∧ y.pa / 32 ≤ l.last ∧ (l.wl = true ∨ write = true)

/-- Where the lanes of an access translate, or lie in the scratchpad, and one entry of the core's range-lock table conflicts with some of them and no other entry with any, i raises MMLOCK with the mask of those lanes, none for a scalar access, their lowest address, and a detail that names the entry (R131, R313). -/
def LockTraps (s : State) (i : Instr) (sp : Bool) (k : AccKind) (size : Nat) (vec : Bool) (xs : List (Nat × Int × Bool)) : Prop :=
  let c := s.core (coreOf s.cur)
  let write := k == .write
  ∀ (ys : List Acc) (m : SMap (Option Page)) (e : Nat) (l : Lock) (bad : List Acc) (low : Acc), (me s).mode = .normal →
    (if sp then s.lookSpad s.cur size vec xs else s.lookVirt s.cur k size vec (xs.map fun x => (x.1, x.2.1.toNat, x.2.2))) = .ok ys m →
    (e, some l) ∈ c.locks → (∀ z ∈ c.locks, z ≠ (e, some l) → ∀ q, z.2 = some q → ∀ y ∈ ys, ¬Conflicts q y size write) →
    (∀ y, y ∈ bad ↔ y ∈ ys ∧ Conflicts l y size write) → low ∈ bad → (∀ y ∈ bad, low.va ≤ y.va) → Issues s i →
    exec i s = .next (s.trapCur { cause := 0x09, lanes := if vec then laneMask (fun n => bad.any (·.lane == n)) else 0, addr := BitVec.ofNat 64 low.va, detail := BitVec.ofNat 64 (e * 2 ^ 36 + l.owner * 2 ^ 28 + l.unit * 2 ^ 24 + l.space * 2 ^ 16 + (if l.wl then 2 else 0) + (if write then 1 else 0)) })

/-- The release marks of an entry after a release at a scope that closed interval n: below n + 1 everything is published at every scope from .u to sc (R91). -/
def Marks (old new : SlotStatus) (sc n : Nat) : Prop :=
  new.cur = n + 1 ∧ new.pubu = (if 2 ≤ sc then n + 1 else old.pubu) ∧ new.pubd = (if 3 ≤ sc then n + 1 else old.pubd)
  ∧ new.pubk = (if 4 ≤ sc then n + 1 else old.pubk) ∧ new.pubf = (if 5 ≤ sc then n + 1 else old.pubf)

/-- A response of the SPDM responder with a code, on channel 7 (R423). -/
def Responds (s : State) (who : Endpoint) (code : Nat) (t : State) : Prop :=
  t.mem = s.mem ∧ ∃ v r, t.outbox = s.outbox ++ [⟨7, 0, who, v :: BitVec.ofNat 8 code :: r, none⟩]

end Sys2Proof.Safety
end

