-- ==== Sys2Proof/Certificates/Slice0/Obligations.lean ====
section
/-! DEFINITION. The statements about the machine that are to be proved. -/

open Sys2Proof Sys2Proof.Machine Sys2Proof.Safety

/-! ## Scalar instructions (R261 to R265) -/

/-- R262: the scalar arithmetic instructions complete with the stated result in D, and change nothing else. -/
def Obligations.ScalarArithmetic : Prop :=
  ∀ (s : State) (sg : Bool) (d : Nat) (a b : Src), ScalarsClean (me s) [a, b] →
    let A := sVal (me s) a
    let B := sVal (me s) b
    Completes s (.sadd d a b) (ScalarGets d (A + B))
    ∧ Completes s (.ssub d a b) (ScalarGets d (A - B))
    ∧ Completes s (.smul d a b) (ScalarGets d (A * B))
    ∧ Completes s (.smulh sg d a b) (ScalarGets d (mulHigh sg A B))
    ∧ Completes s (.sand d a b) (ScalarGets d (A &&& B))
    ∧ Completes s (.sor d a b) (ScalarGets d (A ||| B))
    ∧ Completes s (.sxor d a b) (ScalarGets d (A ^^^ B))
    ∧ Completes s (.sshl d a b) (ScalarGets d (A <<< (B.toNat % 64)))
    ∧ Completes s (.sshr d a b) (ScalarGets d (A >>> (B.toNat % 64)))
    ∧ Completes s (.ssar d a b) (ScalarGets d (A.sshiftRight (B.toNat % 64)))
    ∧ Completes s (.smin sg d a b) (ScalarGets d (if less sg B A then B else A))
    ∧ Completes s (.smax sg d a b) (ScalarGets d (if less sg A B then B else A))
    ∧ Completes s (.sclz d a) (ScalarGets d (BitVec.ofNat 64 (leadingZeros A)))
    ∧ Completes s (.spopc d a) (ScalarGets d (BitVec.ofNat 64 (setBits A)))
    ∧ (∀ c : Src, ScalarsClean (me s) [c] → Completes s (.sadr d a b c) (ScalarGets d (A + B <<< ((sVal (me s) c).toNat % 8))))
    ∧ (∀ imm : Int, Completes s (.sli d imm) (ScalarGets d (BitVec.ofInt 64 imm)))

/-- R263: the results of sdiv and srem, with the defined cases of a zero divisor and of −2^63 by −1. -/
def Obligations.ScalarDivision : Prop :=
  ∀ (s : State) (sg : Bool) (d : Nat) (a b : Src), ScalarsClean (me s) [a, b] →
    let A := sVal (me s) a
    let B := sVal (me s) b
    ∃ Q R : W64,
      Completes s (.sdiv sg d a b) (ScalarGets d Q) ∧ Completes s (.srem sg d a b) (ScalarGets d R)
      ∧ (B = 0 → sg = false → Q = BitVec.allOnes 64 ∧ R = BitVec.allOnes 64)
      ∧ (B = 0 → sg = true → Q = (if A.msb then BitVec.allOnes 64 else 0) ∧ R = (if A.msb then BitVec.allOnes 64 else 0))
      ∧ (sg = true → A = BitVec.intMin 64 → B = BitVec.allOnes 64 → Q = BitVec.intMin 64 ∧ R = 0)
      ∧ (B ≠ 0 → sg = false → Q.toNat = A.toNat / B.toNat ∧ R.toNat = A.toNat % B.toNat)
      ∧ (B ≠ 0 → sg = true → ¬(A = BitVec.intMin 64 ∧ B = BitVec.allOnes 64) → Q.toInt = A.toInt.tdiv B.toInt ∧ R.toInt = A.toInt.tmod B.toInt)
      ∧ (B ≠ 0 → A = B * Q + R)

/-- R264: scmp writes its predicate in every lane whose EXEC bit is set, and a write of p0 is discarded. -/
def Obligations.ScalarCompare : Prop :=
  ∀ (s : State) (sg : Bool) (c : ICond) (p : Nat) (a b : Src), ScalarsClean (me s) [a, b] →
    Completes s (.scmp sg c p a b) (PredGets p (execLanes (me s)) (fun _ => holds c sg (sVal (me s) a) (sVal (me s) b)))

/-- R265 and smov of R262: the bit-field instructions, with pos and w reduced as stated, and the move to an s register or to EXEC. -/
def Obligations.ScalarFieldsAndMove : Prop :=
  ∀ (s : State) (sg : Bool) (d : Nat) (a b c : Src), ScalarsClean (me s) [a, b, c] →
    let A := sVal (me s) a
    let P := (sVal (me s) b).toNat
    let W := (sVal (me s) c).toNat
    Completes s (.sbfx sg d a b c) (ScalarGets d (extractField sg A (P % 64) (W % 128)))
    ∧ (sBad (me s) d = false → Completes s (.sbfi d a b c) (ScalarGets d (insertField (sAt (me s) d) A (P % 64) (W % 128))))
    ∧ Completes s (.sext sg d a b) (ScalarGets d (if P % 128 = 0 then 0 else if 64 ≤ P % 128 then A else extendField sg (P % 128) A))
    ∧ Completes s (.smov (.s d) a) (ScalarGets d A)
    ∧ Completes s (.smov .exec a) (fun w w' => w'.regs = { w.regs with exec := if w.ctl then BitVec.ofNat 32 (A.toNat % 2) else A.setWidth 32 } ∧ w'.poison = w.poison)

/-! ## Predicate instructions (R266) -/

/-- R266: the predicate instructions act on the lanes in Active alone; the results in an s register are written even when Active is empty; pballot gives the mask of the lanes in Active where the predicate is true, to an s register, to EXEC, or to a v or o register in each lane in Active. -/
def Obligations.PredicateResults : Prop :=
  ∀ (s : State) (g : Guard) (d p q : Nat), PredsClean (me s) g [p, q] →
    let w := me s
    let ls := active w g
    let on := ls.filter (predBit w p)
    Completes s (.pand g d p q) (PredGets d ls (fun l => predBit w p l && predBit w q l))
    ∧ Completes s (.por g d p q) (PredGets d ls (fun l => predBit w p l || predBit w q l))
    ∧ Completes s (.pxor g d p q) (PredGets d ls (fun l => predBit w p l != predBit w q l))
    ∧ Completes s (.pnot g d p) (PredGets d ls (fun l => !predBit w p l))
    ∧ Completes s (.pmov g d (.p p)) (PredGets d ls (fun l => predBit w p l))
    ∧ (∀ x : HSrc, LanesClean w g [⟨.i32, false, x.src⟩] → Completes s (.pmov g d (.val x)) (PredGets d ls (fun l => laneVal w ⟨.i32, false, x.src⟩ l % 2 == 1)))
    ∧ Completes s (.pany g d p) (PredGets d ls (fun _ => ls.any (predBit w p)))
    ∧ Completes s (.pall g d p) (PredGets d ls (fun _ => ls.all (predBit w p)))
    ∧ Completes s (.pcnt g d p) (ScalarGets d (BitVec.ofNat 64 on.length))
    ∧ Completes s (.pfirst g d p) (ScalarGets d (BitVec.ofNat 64 (on.headD 32)))
    ∧ (let M : W32 := laneMask (fun l => ls.contains l && predBit w p l)
      Completes s (.pballot g (.s d) p) (ScalarGets d (M.setWidth 64))
      ∧ Completes s (.pballot g .exec p) (fun w w' => w'.regs = { w.regs with exec := M } ∧ w'.poison = w.poison)
      ∧ Completes s (.pballot g (.v d) p) (fun w w' => (∀ m l, l < 32 → vAt w' m l = if m = d ∧ l ∈ ls then M else vAt w m l) ∧ w'.regs = { w.regs with v := w'.regs.v })
      ∧ Completes s (.pballot g (.o d) p) (fun w w' => (∀ m l, l < 32 → oAt w' m l = if m = d ∧ l ∈ ls then M else oAt w m l) ∧ w'.regs = { w.regs with o := w'.regs.o }))

/-! ## Integer and lane instructions (R283 to R292) -/

/-- R284 and R285: the element results of the integer instructions but for shifts and fields, in the lanes in Active. -/
def Obligations.IntegerArithmetic : Prop :=
  ∀ (s : State) (t : ITy) (sg : Bool) (g : Guard) (d : Dst) (a b : HSrc), isVO d = true → LanesClean (me s) g [opI t a, opI t b] →
    let w := me s
    let A := laneVal w (opI t a)
    let B := laneVal w (opI t b)
    let To := fun (f : Nat → Nat) => LanesGet t.wide d (active w g) f
    Completes s (.add t g d a b) (To fun l => each2 t (· + ·) (A l) (B l))
    ∧ Completes s (.sub t g d a b) (To fun l => each2 t (· - ·) (A l) (B l))
    ∧ Completes s (.mul t g d a b) (To fun l => each2 t (· * ·) (A l) (B l))
    ∧ Completes s (.mulh t sg g d a b) (To fun l => each2 t (mulHigh sg) (A l) (B l))
    ∧ Completes s (.min t sg g d a b) (To fun l => each2 t (fun x y => if less sg y x then y else x) (A l) (B l))
    ∧ Completes s (.max t sg g d a b) (To fun l => each2 t (fun x y => if less sg x y then y else x) (A l) (B l))
    ∧ Completes s (.abs t sg g d a) (To fun l => each1 t (fun x => if sg && x.msb then -x else x) (A l))
    ∧ Completes s (.and t g d a b) (To fun l => each2 t (· &&& ·) (A l) (B l))
    ∧ Completes s (.or t g d a b) (To fun l => each2 t (· ||| ·) (A l) (B l))
    ∧ Completes s (.xor t g d a b) (To fun l => each2 t (· ^^^ ·) (A l) (B l))
    ∧ Completes s (.not t g d a) (To fun l => each1 t (fun x => ~~~x) (A l))
    ∧ Completes s (.clz t g d a) (To fun l => each1 t (fun x => BitVec.ofNat _ (leadingZeros x)) (A l))
    ∧ Completes s (.popc t g d a) (To fun l => each1 t (fun x => BitVec.ofNat _ (setBits x)) (A l))
    ∧ Completes s (.addSat t sg g d a b) (To fun l => each2 t (fun x y => clamp _ sg (asInt sg x + asInt sg y)) (A l) (B l))
    ∧ Completes s (.subSat t sg g d a b) (To fun l => each2 t (fun x y => clamp _ sg (asInt sg x - asInt sg y)) (A l) (B l))
    ∧ Completes s (.mulSat t sg g d a b) (To fun l => each2 t (fun x y => clamp _ sg (asInt sg x * asInt sg y)) (A l) (B l))
    ∧ (∀ c : HSrc, LanesClean w g [opI t c] → Completes s (.mad t g d a b c) (To fun l => each3 t (fun x y z => x * y + z) (A l) (B l) (laneVal w (opI t c) l)))
    ∧ Completes s (.div t sg g d a b) (To fun l => each2 t (quotient sg) (A l) (B l))
    ∧ Completes s (.rem t sg g d a b) (To fun l => each2 t (remainder sg) (A l) (B l))

/-- R286: shifts and bit fields, with counts, positions and lengths reduced per element and read as 32-bit operands of a 64-bit type. -/
def Obligations.ShiftsAndFields : Prop :=
  ∀ (s : State) (t : ITy) (sg : Bool) (g : Guard) (d : Dst) (a b c : HSrc), isVO d = true → LanesClean (me s) g [opI t a, opCount t b, opCount t c] →
    let w := me s
    let A := laneVal w (opI t a)
    let P := laneVal w (opCount t b)
    let N := laneVal w (opCount t c)
    let To := fun (f : Nat → Nat) => LanesGet t.wide d (active w g) f
    Completes s (.shl t g d a b) (To fun l => each2 t (fun x n => x <<< (n.toNat % t.width)) (A l) (P l))
    ∧ Completes s (.shr t g d a b) (To fun l => each2 t (fun x n => x >>> (n.toNat % t.width)) (A l) (P l))
    ∧ Completes s (.sar t g d a b) (To fun l => each2 t (fun x n => x.sshiftRight (n.toNat % t.width)) (A l) (P l))
    ∧ Completes s (.bfx t sg g d a b c) (To fun l => each3 t (fun x p n => extractField sg x (p.toNat % t.width) (n.toNat % (2 * t.width))) (A l) (P l) (N l))
    ∧ (LanesClean w g [opI t ⟨dstSrc d, false⟩] → Completes s (.bfi t g d a b c) (To fun l =>
        each4 t (fun o x p n => insertField o x (p.toNat % t.width) (n.toNat % (2 * t.width))) (laneVal w (opI t ⟨dstSrc d, false⟩) l) (A l) (P l) (N l)))

/-- R287 and R288: cmp, sel, and mov to a v or o register. mov to EXEC writes the one value of the lanes in Active; where they differ it raises NONUNIFORM and writes nothing (that its mask names all lanes in Active is the model's reading, log 24); where Active is empty EXEC is unchanged. -/
def Obligations.CompareSelectMove : Prop :=
  ∀ (s : State) (t : ITy) (sg : Bool) (c : ICond) (g : Guard) (d : Dst) (p : Nat) (a b : HSrc), LanesClean (me s) g [opI t a, opI t b] →
    let w := me s
    let A := laneVal w (opI t a)
    let B := laneVal w (opI t b)
    let ls := active w g
    Completes s (.cmp t sg c g p a b) (PredGets p ls fun l => every2 t (holds c sg) (A l) (B l))
    ∧ (isVO d = true → (PredsClean w g [p] → Completes s (.sel t g d a b p) (LanesGet t.wide d ls fun l => if predBit w p l then A l else B l))
      ∧ Completes s (.mov t g d a) (LanesGet t.wide d ls A))
    ∧ (t = .w32 →
      (ls = [] → Completes s (.mov t g .exec a) RegsSame)
      ∧ (∀ v, ls ≠ [] → (∀ l ∈ ls, A l = v) → Completes s (.mov t g .exec a) fun w w' => w'.regs = { w.regs with exec := BitVec.ofNat 32 v } ∧ w'.poison = w.poison)
      ∧ ((∃ l ∈ ls, ∃ k ∈ ls, A l ≠ A k) → Issues s (.mov t g .exec a) →
          exec (.mov t g .exec a) s = .next (s.trapCur { cause := 0x03, lanes := laneMask (fun l => ls.contains l), detail := 2 })))

/-- R289 and R290: shfl and bcast read their source lane whatever its EXEC bit holds. -/
def Obligations.LaneMoves : Prop :=
  ∀ (s : State) (t : ITy) (m : ShflMode) (g : Guard) (d : Dst) (a b : HSrc) (n : Src), isVO d = true →
    let w := me s
    let A := laneVal w (opI t a)
    let K := laneVal w ⟨.i32, false, b.src⟩
    let N := laneVal w ⟨.i32, false, n⟩
    let src := fun l => match m with
      | .idx => K l % 32
      | .up => if l < K l then l else l - K l
      | .down => if 31 < l + K l then l else l + K l
      | .xor => l ^^^ (K l % 32)
    (LanesClean w g [⟨.i32, false, b.src⟩] → (∀ l ∈ active w g, ((opI t a).at w 2 (src l)).poison = none) →
      Completes s (.shfl t m g d a b) (LanesGet t.wide d (active w g) fun l => A (src l)))
    ∧ (LanesClean w g [⟨.i32, false, n⟩] → (∀ l ∈ active w g, ((opI t a).at w 2 (N l % 32)).poison = none) →
      Completes s (.bcast t g d a n) (LanesGet t.wide d (active w g) fun l => A (N l % 32)))

/-- R291 and R292: lred combines the lanes in Active, lscan the lanes of Active up to each lane, or below it with .excl; an s destination of lred is written whatever Active holds, and takes the identity where Active is empty. -/
def Obligations.LaneCombinations : Prop :=
  ∀ (s : State) (t : ITy) (sg : Bool) (op : RedOp) (excl : Bool) (g : Guard) (d : Dst) (n : Nat) (a : HSrc), isVO d = true → LanesClean (me s) g [opI t a] →
    let w := me s
    let ls := active w g
    let A := laneVal w (opI t a)
    let R := combined t op sg (ls.map A)
    Completes s (.lred t sg op g d a) (LanesGet t.wide d ls fun _ => R)
    ∧ Completes s (.lred t sg op g (.s n) a) (ScalarGets n (if t.wide = false ∧ sg = true then BitVec.signExtend 64 (BitVec.ofNat 32 R) else BitVec.ofNat 64 R))
    ∧ Completes s (.lscan t sg op excl g d a) (LanesGet t.wide d ls fun l => combined t op sg ((ls.filter fun k => if excl then decide (k < l) else decide (k ≤ l)).map A))

/-! ## Floating point (R293 to R300) -/

/-- R294, R295, R298 and R299: the arithmetic instructions of group 4, fround and the bounded functions compute each element under FMODE, in the lanes in Active; a bounded function gives the exact result of its table, or the device's choice inside the bound (log 6). The exact sum, product or product-sum of finite elements is rounded once, a flush of subnormal operands and results apart; a NaN result is the first NaN of A, B and C made quiet, or the canonical one under DNAN (R208). -/
def Obligations.FloatArithmetic : Prop :=
  ∀ (s : State) (t : FTy) (r : RndMode) (g : Guard) (d : Dst) (a b : HSrc), isVO d = true → LanesClean (me s) g [opF t a, opF t b] →
    let w := me s
    let A := laneVal w (opF t a)
    let B := laneVal w (opF t b)
    let To := fun (f : Nat → Nat) => LanesGet t.wide d (active w g) f
    let Two := fun (f : W32 → Fmt → Nat → Nat → Nat) => To fun l => map2 t.fmt.width t.count (f w.fmode t.fmt) (A l) (B l)
    Completes s (.fadd t g d a b) (Two fAdd) ∧ Completes s (.fsub t g d a b) (Two fSub) ∧ Completes s (.fmul t g d a b) (Two fMul)
    ∧ Completes s (.fmin t g d a b) (Two (fMinMax false)) ∧ Completes s (.fmax t g d a b) (Two (fMinMax true)) ∧ Completes s (.fdiv t g d a b) (Two fDiv)
    ∧ Completes s (.fsqrt t g d a) (To fun l => map1 t.fmt.width t.count (fSqrt w.fmode t.fmt) (A l))
    ∧ Completes s (.fround t r g d a) (To fun l => map1 t.fmt.width t.count (fFround w.fmode t.fmt r) (A l))
    ∧ (∀ c : HSrc, LanesClean w g [opF t c] → Completes s (.fma t g d a b c) (To fun l => map3 t.fmt.width t.count (fFma w.fmode t.fmt) (A l) (B l) (laneVal w (opF t c) l)))
    ∧ (let Of := fun (k : SpKind) => To fun l => map1 t.fmt.width t.count (fSpecial k w.fmode t.fmt) (A l)
      Completes s (.frcp t g d a) (Of .rcp) ∧ Completes s (.frsq t g d a) (Of .rsq) ∧ Completes s (.fexp2 t g d a) (Of .exp2) ∧ Completes s (.flog2 t g d a) (Of .log2)
      ∧ Completes s (.fsin t g d a) (Of .sin) ∧ Completes s (.fcos t g d a) (Of .cos) ∧ Completes s (.ftanh t g d a) (Of .tanh))
    ∧ (∀ (fm : W32) (sa sb sc : Bool) (ma mb mc : Nat) (ea eb ec : Int) (x y z : Nat),
      let f := t.fmt
      let rm := fmRm fm f
      let Once := fun (sg : Bool) (m : Nat) (e : Int) (r : Nat) => m ≠ 0 → fmFtz fm f = false → atMost m e (largestValue f).1 (largestValue f).2 → RoundsOnce f rm sg m e r
      let c := min ea eb
      let k := min (ea + eb) ec
      let sum := atExp sa ma ea c + atExp sb mb eb c
      let dif := atExp sa ma ea c - atExp sb mb eb c
      let acc := atExp (sa != sb) (ma * mb) (ea + eb) k + atExp sc mc ec k
      let Quiet := fun (r : Nat) => if fm.getLsbD 1 then withSign f false (beyond f + 2 ^ (f.layout.mb - 1)) else r ||| 2 ^ (f.layout.mb - 1)
      let Nan := fun (r : Nat) => r < 2 ^ f.width ∧ beyond f < r % 2 ^ (f.width - 1)
      (fIn fm f x = .fin sa ma ea → fIn fm f y = .fin sb mb eb → Once (decide (sum < 0)) sum.natAbs c (fAdd fm f x y) ∧ Once (decide (dif < 0)) dif.natAbs c (fSub fm f x y)
        ∧ Once (sa != sb) (ma * mb) (ea + eb) (fMul fm f x y) ∧ (fIn fm f z = .fin sc mc ec → Once (decide (acc < 0)) acc.natAbs k (fFma fm f x y z)))
      ∧ (Nan x → fAdd fm f x y = Quiet x ∧ fSub fm f x y = Quiet x ∧ fMul fm f x y = Quiet x ∧ fDiv fm f x y = Quiet x ∧ fSqrt fm f x = Quiet x ∧ fFma fm f x y z = Quiet x)
      ∧ (¬Nan x → x < 2 ^ f.width → Nan y → fAdd fm f x y = Quiet y ∧ fSub fm f x y = Quiet y ∧ fMul fm f x y = Quiet y ∧ fDiv fm f x y = Quiet y ∧ fFma fm f x y z = Quiet y)
      ∧ (¬Nan x → x < 2 ^ f.width → ¬Nan y → y < 2 ^ f.width → Nan z → fFma fm f x y z = Quiet z))

/-- R294, R296 and R297: fcmp and fcls write their predicate where the condition or the class holds in every element of the lane; fdot2 is one rounding of c + a0·b0 + a1·b1. -/
def Obligations.FloatTests : Prop :=
  ∀ (s : State) (t : FTy) (c : FCond) (mask : Nat) (g : Guard) (d : Dst) (p : Nat) (a b : HSrc), isVO d = true → LanesClean (me s) g [opF t a, opF t b] →
    let w := me s
    let A := laneVal w (opF t a)
    let B := laneVal w (opF t b)
    Completes s (.fcmp t c g p a b) (PredGets p (active w g) fun l => (List.range t.count).all fun k =>
      c.eval (cmpFV (fIn w.fmode t.fmt (elem t.fmt.width k (A l))) (fIn w.fmode t.fmt (elem t.fmt.width k (B l)))))
    ∧ Completes s (.fcls t g p a mask) (PredGets p (active w g) fun l => (List.range t.count).all fun k => mask.testBit (fclass t.fmt (elem t.fmt.width k (A l))))
    ∧ (∀ x : HSrc, t.wide = false → LanesClean w g [⟨.f32, false, x.src⟩] →
        Completes s (.fdot2 t g d a b x) (LanesGet false d (active w g) fun l => fDot2 w.fmode t.fmt (A l) (B l) (laneVal w ⟨.f32, false, x.src⟩ l)))

/-! ## Conversion and checks (R301 to R310) -/

/-- R302 to R307: cvt, pack, unpk, qnt and dqnt in the lanes in Active; and the one rounding that they and group 4 share (R208, R210 to R212): a value within the largest of a binary format gives the multiple of the spacing that the rounding names, with its sign, and with a flush zero where that is subnormal; a larger one the largest, the infinity, or what R211 puts in its place; an integer format takes the rounded integer, clamped or its low bits; a T8 value that is representable gives itself, one between two codes the nearer, or toward zero the smaller. NaNs and infinities narrow as R211 says. -/
def Obligations.Conversions : Prop :=
  ∀ (s : State) (ds sr : Fmt) (g : Guard) (d : Dst) (a b : HSrc), isVO d = true →
    let w := me s
    let A := fun (wide : Bool) => laneVal w ⟨fmtKind sr, wide, a.src⟩
    let B := laneVal w ⟨.i32, false, b.src⟩
    (LanesClean w g [⟨fmtKind sr, fmtWide sr.code, a.src⟩] →
      Completes s (.cvt ds sr g d a) (LanesGet (fmtWide ds.code) d (active w g) fun l => convert w.fmode w.nmode ds sr l (A (fmtWide sr.code) l)))
    ∧ (LanesClean w g [⟨fmtKind sr, false, a.src⟩, ⟨fmtKind sr, false, b.src⟩] →
      Completes s (.pack ds sr g d a b) (LanesGet false d (active w g) fun l => packPair w.fmode w.nmode ds sr l (A false l) (laneVal w ⟨fmtKind sr, false, b.src⟩ l)))
    ∧ (LanesClean w g [⟨fmtKind sr, false, a.src⟩, ⟨.i32, false, b.src⟩] →
      Completes s (.unpk ds sr g d a b) (LanesGet false d (active w g) fun l => unpack w.nmode ds sr l (A false l) (B l))
      ∧ Completes s (.dqnt sr g d a b) (LanesGet false d (active w g) fun l => dequantise w.fmode sr (A false l) (B l)))
    ∧ (LanesClean w g [⟨.f32, false, a.src⟩, ⟨.i32, false, b.src⟩] →
      Completes s (.qnt ds g d a b) (LanesGet false d (active w g) fun l => quantise w.nmode ds l (laneVal w ⟨.f32, false, a.src⟩ l) (B l)))
    ∧ (∀ (f : Fmt) (rm : Rm) (sat narrow sg : Bool) (m : Nat) (e : Int),
      let Z := fun (ftz : Bool) => roundTo f rm sat ftz narrow (.fin sg m e)
      let n := (largestValue f).1
      let q := (largestValue f).2
      let c := min e q - 1
      let X := atExp false m e c
      let M := atExp false n q c
      let U : Int := 2 ^ (q - c).toNat
      let big := withSign f sg (largest f)
      let past := withSign f sg (if sat then largest f else beyond f)
      (isBinary f = true →
        (m = 0 → Z false = withSign f sg 0)
        ∧ (m ≠ 0 → atMost m e n q → RoundsOnce f rm sg m e (Z false))
        ∧ (m ≠ 0 → ¬atMost m e n q →
          (rm = .rtz ∨ (rm = .rup ∧ sg = true) ∨ (rm = .rdn ∧ sg = false) → Z false = big)
          ∧ ((rm = .rup ∧ sg = false) ∨ (rm = .rdn ∧ sg = true) → Z false = past)
          ∧ (rm = .rne ∨ rm = .rna → 2 * X < 2 * M + U ∨ (2 * X = 2 * M + U ∧ rm = .rne ∧ f = .e4m3) → Z false = big)
          ∧ (rm = .rne ∨ rm = .rna → ¬(2 * X < 2 * M + U ∨ (2 * X = 2 * M + U ∧ rm = .rne ∧ f = .e4m3)) → Z false = past)
          ∧ (∀ d, rm = .dither d → M + U ≤ X → Z false = past))
        ∧ Z true = (if Z false % 2 ^ (f.width - 1) < 2 ^ f.layout.mb then withSign f sg 0 else Z false))
      ∧ (f.isInt = true → ∃ k : Int, RoundsTo rm (atExp sg m e (min e 0 - 1)) (2 ^ (1 - min e 0).toNat) (k * 2 ^ (1 - min e 0).toNat)
          ∧ Z false = if sat then (clamp f.width f.isSigned k).toNat else (BitVec.ofInt f.width k).toNat)
      ∧ (∀ z, z < 256 → z ≠ 0x80 → roundTo .t8 rm sat false narrow (toExact .t8 false z) = z)
      ∧ (m ≠ 0 → atMost m e 1 11 →
        let u := min e (-11)
        let V := fun (z : Nat) => match toExact .t8 false z with | .fin s n g => atExp s n g u | _ => 0
        let X := atExp sg m e u
        let R := V (roundTo .t8 rm sat false narrow (.fin sg m e))
        (rm = .rne ∨ rm = .rna → ∀ z, z < 256 → z ≠ 0x80 → (R - X).natAbs ≤ (V z - X).natAbs)
        ∧ (rm = .rtz → R.natAbs ≤ X.natAbs ∧ ∀ z, z < 256 → z ≠ 0x80 → (V z).natAbs ≤ X.natAbs → (V z).natAbs ≤ R.natAbs)))
    ∧ (∀ (f : Fmt) (rm : Rm) (sat sg : Bool) (fr : Nat), fr < 2 ^ 52 → fr ≠ 0 →
      (isBinary f = true → roundTo f rm sat false true (.inf sg) = withSign f sg (if sat then largest f else beyond f) ∧ roundTo f rm sat false false (.inf sg) = withSign f sg (if f = .e4m3 ∧ sat = true then 0x7E else beyond f))
      ∧ roundTo .t8 rm sat false true (.inf sg) = (if sat then (if sg then 0x81 else 0x01) else 0x80) ∧ roundTo .int8 rm sat false true (.inf sg) = (if sat then (if sg then 0x80 else 0x7F) else 0)
      ∧ roundTo .e5m2 rm sat false true (.nan sg fr) = withSign .e5m2 sg 0x7E ∧ roundTo .e4m3 rm sat false true (.nan sg fr) = withSign .e4m3 sg 0x7F
      ∧ roundTo .e2m1 rm sat false true (.nan sg fr) = 0 ∧ roundTo .t8 rm sat false true (.nan sg fr) = 0x80 ∧ roundTo .int8 rm sat false true (.nan sg fr) = 0
      ∧ (f = .fp16 ∨ f = .bf16 → roundTo f rm sat false true (.nan sg fr) = withSign f sg (beyond f + (fr / 2 ^ (52 - f.layout.mb) ||| 2 ^ (f.layout.mb - 1)))))

/-- R308 to R310: csum folds A into D; a check that holds changes no register, and a check that fails raises CHKFAIL with the lanes and the two values of its lowest failing lane. -/
def Obligations.ChecksAndFolds : Prop :=
  ∀ (s : State) (k : FoldKind) (c : ChkKind) (g : Guard) (d : Dst) (a b : HSrc), isVO d = true →
    let w := me s
    let ls := active w g
    let A := laneVal w ⟨.i32, false, a.src⟩
    let B := laneVal w ⟨.i32, false, b.src⟩
    let D := laneVal w ⟨.i32, false, dstSrc d⟩
    let bad := ls.filter fun l => chkFails c (A l) (B l)
    let xa := ls.foldl (fun v l => v ^^^ A l) 0
    let xb := ls.foldl (fun v l => v ^^^ B l) 0
    (LanesClean w g [⟨.i32, false, a.src⟩, ⟨.i32, false, dstSrc d⟩] → Completes s (.csum k g d a) (LanesGet false d ls fun l => fold k (D l) (A l)))
    ∧ (LanesClean w g [⟨.i32, false, a.src⟩, ⟨.i32, false, b.src⟩] →
      (c ≠ .fold → bad = [] → Completes s (.chk c g a b) RegsSame)
      ∧ (c ≠ .fold → ∀ l r, bad = l :: r → Issues s (.chk c g a b) →
          exec (.chk c g a b) s = .next (s.trapCur { cause := 0x0B, lanes := laneMask (fun k => bad.contains k), detail := BitVec.ofNat 64 (A l * 2 ^ 32 + B l) }))
      ∧ (xa = xb → Completes s (.chk .fold g a b) RegsSame)
      ∧ (xa ≠ xb → Issues s (.chk .fold g a b) →
          exec (.chk .fold g a b) s = .next (s.trapCur { cause := 0x0B, lanes := laneMask (fun k => ls.contains k), detail := BitVec.ofNat 64 (xa * 2 ^ 32 + xb) })))

/-- R304: pack.tile writes element (r, j) into element j mod E of v(D + j / E) in lane r, for the lanes of EXEC, with NMODE as it is at issue, and NMODE.PH advances by one; no other v register changes. -/
def Obligations.PackTile : Prop :=
  ∀ (s : State) (ds : Fmt) (r : Nat) (fs ns : Src),
    let w := me s
    let f := (sVal w fs).toNat
    let n := (sVal w ns).toNat
    let E := tileElems ds
    ScalarsClean w [fs, ns] → 4 ≤ ds.width → ds.width ≤ 16 → 1 ≤ n → n ≤ 32 → n % E = 0 → f + n ≤ w.budget → r + n / E ≤ w.budget →
    (∀ j l, j < n → l ∈ execLanes w → vBad w (f + j) l = false) → Issues s (.packTile ds (.v r) fs ns) →
    ∃ w', exec (.packTile ds (.v r) fs ns) s = .next (s.setWave s.cur w') ∧ Keeps w { w' with nmode := w.nmode } ∧ Advances (Instr.length (.packTile ds (.v r) fs ns)) w w'
      ∧ nmPh w'.nmode = (nmPh w.nmode + 1) % 32
      ∧ (∀ j l, j < n → l ∈ execLanes w → elem ds.width (j % E) (vAt w' (r + j / E) l).toNat = narrowTo w.nmode ds j (toExact .fp32 false (vAt w (f + j) l).toNat) % 2 ^ ds.width)
      ∧ (∀ m l, l < 32 → (m < r ∨ r + n / E ≤ m ∨ l ∉ execLanes w) → vAt w' m l = vAt w m l)
      ∧ w'.regs = { w.regs with v := w'.regs.v, y := w'.regs.y }

/-! ## Compact forms and pairs (R229, R230) -/

/-- A compact form and a full form do the same to the registers, each going on to its next instruction. -/
def SameEffect (s : State) (xs : List Src) (c f : Instr) : Prop :=
  (∀ k l, l ∈ execLanes (me s) → ∀ x ∈ xs, (srcLV (me s) 2 k false x l).poison = none) → Issues s c → Issues s f → ∃ wc wf, exec c s = .next (s.setWave s.cur wc) ∧ Keeps (me s) wc ∧ Advances 4 (me s) wc
    ∧ exec f s = .next (s.setWave s.cur wf) ∧ wc.regs = wf.regs ∧ wc.poison = wf.poison

/-- R229 and R230: every compact form has the effect of the full form that its opcode names, with no guard and no holds, and source C = d in the accumulate forms. -/
def Obligations.CompactFormsAreFullForms : Prop :=
  ∀ (s : State) (d : Dst) (a b : Src), isVO d = true →
    let g : Guard := ⟨0, false⟩
    let A := noHold a
    let B := noHold b
    let D := noHold (dstSrc d)
    SameEffect s [a, b] (.addU32Compact d a b) (.add .w32 g d A B) ∧ SameEffect s [a, b] (.subU32Compact d a b) (.sub .w32 g d A B)
    ∧ SameEffect s [a, b] (.mulU32Compact d a b) (.mul .w32 g d A B) ∧ SameEffect s [a, b, dstSrc d] (.madU32Compact d a b) (.mad .w32 g d A B D)
    ∧ SameEffect s [a, b] (.andU32Compact d a b) (.and .w32 g d A B) ∧ SameEffect s [a, b] (.orU32Compact d a b) (.or .w32 g d A B) ∧ SameEffect s [a, b] (.xorU32Compact d a b) (.xor .w32 g d A B)
    ∧ SameEffect s [a, b] (.shlU32Compact d a b) (.shl .w32 g d A B) ∧ SameEffect s [a, b] (.shrU32Compact d a b) (.shr .w32 g d A B) ∧ SameEffect s [a, b] (.sarI32Compact d a b) (.sar .w32 g d A B)
    ∧ SameEffect s [a, b] (.minI32Compact d a b) (.min .w32 true g d A B) ∧ SameEffect s [a, b] (.maxI32Compact d a b) (.max .w32 true g d A B)
    ∧ SameEffect s [a, b] (.minU32Compact d a b) (.min .w32 false g d A B) ∧ SameEffect s [a, b] (.maxU32Compact d a b) (.max .w32 false g d A B)
    ∧ SameEffect s [a, b] (.addSatI32Compact d a b) (.addSat .w32 true g d A B) ∧ SameEffect s [a, b] (.subSatI32Compact d a b) (.subSat .w32 true g d A B)
    ∧ SameEffect s [a, b] (.addSatU32Compact d a b) (.addSat .w32 false g d A B) ∧ SameEffect s [a, b] (.subSatU32Compact d a b) (.subSat .w32 false g d A B)
    ∧ SameEffect s [a] (.movU32Compact d a) (.mov .w32 g d A) ∧ SameEffect s [a] (.notU32Compact d a) (.not .w32 g d A) ∧ SameEffect s [a] (.absI32Compact d a) (.abs .w32 true g d A)
    ∧ SameEffect s [a] (.clzU32Compact d a) (.clz .w32 g d A) ∧ SameEffect s [a] (.popcU32Compact d a) (.popc .w32 g d A)
    ∧ SameEffect s [a, b] (.mulhI32Compact d a b) (.mulh .w32 true g d A B) ∧ SameEffect s [a, b] (.mulhU32Compact d a b) (.mulh .w32 false g d A B)
    ∧ SameEffect s [a, b] (.addU16Compact d a b) (.add .w16 g d A B) ∧ SameEffect s [a, b] (.subU16Compact d a b) (.sub .w16 g d A B)
    ∧ SameEffect s [a, b] (.faddF32Compact d a b) (.fadd .f32 g d A B) ∧ SameEffect s [a, b] (.fsubF32Compact d a b) (.fsub .f32 g d A B) ∧ SameEffect s [a, b] (.fmulF32Compact d a b) (.fmul .f32 g d A B)
    ∧ SameEffect s [a, b, dstSrc d] (.fmaF32Compact d a b) (.fma .f32 g d A B D) ∧ SameEffect s [a, b] (.fminF32Compact d a b) (.fmin .f32 g d A B) ∧ SameEffect s [a, b] (.fmaxF32Compact d a b) (.fmax .f32 g d A B)
    ∧ SameEffect s [a, b] (.faddF16Compact d a b) (.fadd .f16 g d A B) ∧ SameEffect s [a, b] (.fsubF16Compact d a b) (.fsub .f16 g d A B) ∧ SameEffect s [a, b] (.fmulF16Compact d a b) (.fmul .f16 g d A B)
    ∧ SameEffect s [a, b, dstSrc d] (.fmaF16Compact d a b) (.fma .f16 g d A B D) ∧ SameEffect s [a, b] (.fminF16Compact d a b) (.fmin .f16 g d A B) ∧ SameEffect s [a, b] (.fmaxF16Compact d a b) (.fmax .f16 g d A B)
    ∧ SameEffect s [a, b] (.faddBf16Compact d a b) (.fadd .bf16 g d A B) ∧ SameEffect s [a, b] (.fsubBf16Compact d a b) (.fsub .bf16 g d A B) ∧ SameEffect s [a, b] (.fmulBf16Compact d a b) (.fmul .bf16 g d A B)
    ∧ SameEffect s [a, b, dstSrc d] (.fmaBf16Compact d a b) (.fma .bf16 g d A B D) ∧ SameEffect s [a, b] (.fminBf16Compact d a b) (.fmin .bf16 g d A B) ∧ SameEffect s [a, b] (.fmaxBf16Compact d a b) (.fmax .bf16 g d A B)
    ∧ SameEffect s [a] (.frcpF32Compact d a) (.frcp .f32 g d A) ∧ SameEffect s [a] (.frsqF32Compact d a) (.frsq .f32 g d A)
    ∧ SameEffect s [a] (.fexp2F32Compact d a) (.fexp2 .f32 g d A) ∧ SameEffect s [a] (.flog2F32Compact d a) (.flog2 .f32 g d A)

/-- R229: a pair reads every source of both halves before either half writes, and its y-file shifts are applied first half, then second half. -/
def Obligations.PairReadsBeforeWrites : Prop :=
  ∀ (s : State) (x y : Half), isVO x.d = true → isVO y.d = true →
    (∀ l ∈ execLanes (me s), ∀ h ∈ [x, y], ∀ z ∈ h.a :: (h.b.toList ++ if h.op.accum then [dstSrc h.d] else []), (srcLV (me s) 2 (ropKind h.op) false z l).poison = none) →
    let w := me s
    let res := fun (h : Half) (l : Nat) => ropLane h.op w.fmode (laneVal w ⟨ropKind h.op, false, h.a⟩ l)
      ((h.b.map fun b => laneVal w ⟨ropKind h.op, false, b⟩ l).getD 0) (if h.op.accum then laneVal w ⟨ropKind h.op, false, dstSrc h.d⟩ l else 0)
    Completes s (.pair x y) fun w w' => ∃ w₁, LanesGet false x.d (execLanes w) (res x) w w₁ ∧ LanesGet false y.d (execLanes w) (res y) w₁ w'

/-! ## Control (R151 to R168, R245 to R260) -/

/-- R153, R154, R248 and R249: what if, else, endif, loop, endloop, break and cont do to EXEC, the mask stack and the PC. A push beyond 32 entries raises STACKOVF, and a structured control instruction without the entry that it needs raises ILLOP with REASON 0x0C. -/
def Obligations.StructuredControl : Prop :=
  ∀ (s : State) (neg : Bool) (p off : Nat),
    let w := me s
    let E := w.regs.exec
    let C := E &&& predMask w neg p
    let e := w.ment (w.depth - 1)
    let clean := ∀ l ∈ execLanes w, (predLV w 2 p l).poison = none
    let next := w.pc + 8
    let Raises := fun (i : Instr) (t : Trap) => Issues s i → exec i s = .next (s.trapCur t)
    ((w.depth = 32 → Raises (.ifP neg p off) stackOvf ∧ Raises .loop stackOvf)
    ∧ (w.depth = 0 ∨ e.kind ≠ .ifK → Raises (.elseP off) (illop 0x0C 0))
    ∧ (w.depth = 0 ∨ (e.kind ≠ .ifK ∧ e.kind ≠ .ifElse) → Raises .endif (illop 0x0C 0))
    ∧ (w.depth = 0 ∨ e.kind ≠ .loopK → Raises (.endloop off) (illop 0x0C 0))
    ∧ (innermost w w.depth = none → Raises (.breakP neg p) (illop 0x0C 0) ∧ Raises (.contP neg p) (illop 0x0C 0)))
    ∧ (inVariant w = false →
    (w.depth < 32 → clean → Steers s (.ifP neg p off) C (if C = 0 then w.pc + BitVec.ofNat 64 (4 * off) else next) (w.depth + 1) (fun k => if k = w.depth then ⟨.ifK, E, C⟩ else w.ment k))
    ∧ (0 < w.depth → e.kind = .ifK → Steers s (.elseP off) (e.saved &&& ~~~e.aux) (if e.saved &&& ~~~e.aux = 0 then w.pc + BitVec.ofNat 64 (4 * off) else next) w.depth
        (fun k => if k = w.depth - 1 then { e with kind := .ifElse } else w.ment k))
    ∧ (0 < w.depth → e.kind = .ifK ∨ e.kind = .ifElse → Steers s .endif e.saved next (w.depth - 1) w.ment)
    ∧ (w.depth < 32 → Steers s .loop E next (w.depth + 1) (fun k => if k = w.depth then ⟨.loopK, E, 0⟩ else w.ment k))
    ∧ (0 < w.depth → e.kind = .loopK → E ||| e.aux ≠ 0 →
        Steers s (.endloop off) (E ||| e.aux) (w.pc - BitVec.ofNat 64 (4 * off)) w.depth (fun k => if k = w.depth - 1 then { e with aux := 0 } else w.ment k))
    ∧ (0 < w.depth → e.kind = .loopK → E ||| e.aux = 0 →
        Steers s (.endloop off) e.saved next (w.depth - 1) (fun k => if k = w.depth - 1 then { e with aux := 0 } else w.ment k))
    ∧ (∀ n, innermost w w.depth = some n → clean →
        Steers s (.breakP neg p) (E &&& ~~~C) next w.depth (fun k => if n < k ∧ k < w.depth then { w.ment k with saved := (w.ment k).saved &&& ~~~C } else w.ment k)
        ∧ Steers s (.contP neg p) (E &&& ~~~C) next w.depth (fun k => if n < k ∧ k < w.depth then { w.ment k with saved := (w.ment k).saved &&& ~~~C }
            else if k = n then { w.ment k with aux := (w.ment k).aux ||| C } else w.ment k)))

/-- R155, R250 and R251: a call writes the address of the next instruction to its register and goes to its target, ret goes to its target; a target that is not a multiple of 4 raises ALIGN, one that is not canonical ACCESS. A target in a v register must be one value in the lanes of EXEC, else it raises NONUNIFORM; where EXEC is empty it is lane 0's. -/
def Obligations.CallsAndReturns : Prop :=
  ∀ (s : State) (d : Nat) (off : Int) (x : HSrc) (t : W64),
    let w := me s
    let T := w.pc + BitVec.ofInt 64 (4 * off)
    let j := Instr.callIndirect d x
    let Traps := fun (i : Instr) (e : Trap) => Issues s i → exec i s = .next (s.trapCur e)
    (T.toNat % 4 = 0 → canonical T.toNat = true → Transfers s (.callRelative d off) (some (d, w.pc + 8)) T)
    ∧ (UniformIs w x.src t → t.toNat % 4 = 0 → canonical t.toNat = true →
        Transfers s j (some (d, w.pc + BitVec.ofNat 64 j.length)) t ∧ Transfers s (.ret x) none t)
    ∧ (∀ n, x.src = .v n → execLanes w = [] → (vLV w 2 true n 0).val = t.toNat → t.toNat % 4 = 0 → canonical t.toNat = true → Transfers s j (some (d, w.pc + BitVec.ofNat 64 j.length)) t ∧ Transfers s (.ret x) none t)
    ∧ (T.toNat % 4 ≠ 0 → Traps (.callRelative d off) { cause := 0x04 })
    ∧ (T.toNat % 4 = 0 → canonical T.toNat = false → Traps (.callRelative d off) { cause := 0x06, addr := T })
    ∧ (UniformIs w x.src t → t.toNat % 4 ≠ 0 → Traps j { cause := 0x04 } ∧ Traps (.ret x) { cause := 0x04 })
    ∧ (UniformIs w x.src t → t.toNat % 4 = 0 → canonical t.toNat = false → Traps j { cause := 0x06, addr := t } ∧ Traps (.ret x) { cause := 0x06, addr := t })
    ∧ (∀ n, x.src = .v n → (∀ l ∈ execLanes w, (vLV w 2 true n l).poison = none) → (∃ l ∈ execLanes w, ∃ k ∈ execLanes w, (vLV w 2 true n l).val ≠ (vLV w 2 true n k).val) →
        Traps j { cause := 0x03, lanes := w.regs.exec, detail := 2 } ∧ Traps (.ret x) { cause := 0x03, lanes := w.regs.exec, detail := 2 })

/-- R253 and R254: trap, and bkpt of a wave that is not armed, enter the wave's handler where TVEC has the bit and no handler runs, and nothing but the wave changes; where no handler takes them they are faults of the wave with the code as DETAIL; bkpt of an armed wave halts it at the next instruction. -/
def Obligations.TrapsAndBreakpoints : Prop :=
  ∀ (s : State) (n : Nat),
    let w := me s
    (w.ctl = false → w.tstat.getLsbD 0 = false → w.tvec.getLsbD 0 = true → Issues s (.trap n) → ∃ w', exec (.trap n) s = .next (s.setWave s.cur w') ∧ EntersTrap w 0x0E n w')
    ∧ (w.ctl = false → w.tstat.getLsbD 0 = false → w.tvec.getLsbD 1 = true → w.bkarm = false → w.stage1 = [] → s.unverified s.cur = false → Issues s (.bkpt n) →
        ∃ t, exec (.bkpt n) s = .next t ∧ EntersTrap w 0x0D n (t.wave s.cur) ∧ t.mem = s.mem ∧ t.units = s.units ∧ ∀ id, id ≠ s.cur → t.wave id = s.wave id)
    ∧ (w.delivers 0 = false → Issues s (.trap n) → exec (.trap n) s = .next (s.trapCur { cause := 0x0E, detail := BitVec.ofNat 64 n }))
    ∧ (w.bkarm = false → w.delivers 1 = false → Issues s (.bkpt n) → exec (.bkpt n) s = .next (s.trapCur { cause := 0x0D, detail := BitVec.ofNat 64 n }))
    ∧ (w.bkarm = true → Issues s (.bkpt n) → ∃ w', exec (.bkpt n) s = .next (s.setWave s.cur w') ∧ w'.halt = true ∧ Keeps w { w' with halt := w.halt } ∧ Advances 8 w w' ∧ RegsSame w w')

/-- R255: tret goes to TEPC at the lesser of the saved level and the level, and clears the busy bit of TSTAT; at level 0 it raises PRIV, and with a misaligned TEPC ALIGN. -/
def Obligations.TrapReturn : Prop :=
  ∀ (s : State),
    let w := me s
    w.mode ≠ .restore → Issues s .tret →
    (w.level = 0 → exec .tret s = .next (s.trapCur { cause := 0x02 }))
    ∧ (w.level ≠ 0 → w.tepc.toNat % 4 ≠ 0 → exec .tret s = .next (s.trapCur { cause := 0x04 }))
    ∧ (w.level ≠ 0 → w.tepc.toNat % 4 = 0 → ∃ w', exec .tret s = .next (s.setWave s.cur w')
        ∧ w'.pc = w.tepc ∧ w'.level = min (w.tstat.toNat / 2 % 4) w.level ∧ w'.tstat = (w.tstat >>> 1) <<< 1 ∧ w'.st = .ready
        ∧ w'.regs = { w.regs with y := [] } ∧ w'.tepc = w.tepc ∧ w'.tcause = w.tcause ∧ w'.tvec = w.tvec ∧ w'.mode = w.mode ∧ w'.fmode = w.fmode ∧ w'.nmode = w.nmode ∧ w'.stack = w.stack ∧ w'.depth = w.depth)

/-- R174, R166 and R432: an instruction outside the control core's set, a non-idempotent instruction that is not the first of its region, and an instruction outside the set of save and restore mode raise ILLOP, whatever else they would do. A group 0 or group 1 instruction that reads a poisoned s register raises UEPOISON without a mask; one that acts on lanes raises it with the mask of the lanes in Active whose operand it reads poisoned, and for its guard with that of the lanes of EXEC; the detail names the field and the structure (R245, R280, R313, R396). -/
def Obligations.InstructionsNotAllowed : Prop :=
  ∀ (s : State) (i : Instr), i.word.isSome = true →
    let w := me s
    let Raises := fun (reason : Nat) => exec i s = .next (s.trapCur (illop reason 0))
    (w.ctl = true → ctlAllows i = false → Raises 0x0E)
    ∧ (w.ctl = false → w.mode ≠ .normal → modeAllows w.mode i = false → Raises 0x11)
    ∧ (w.ctl = false → w.mode = .normal → nonIdem i = true → w.rgn.first = false → Raises 0x0D)
    ∧ (∀ (t : ITy) (sz : MSz) (sp : Bool) (g : Guard) (d : Dst) (a b c : HSrc) (n m k : Nat),
      let UE := fun (i : Instr) (bad : List Nat) (field struct : Nat) => Issues s i → exec i s = .next (s.trapCur { cause := 0x0A, lanes := laneMask (fun l => bad.contains l), detail := BitVec.ofNat 64 (field + 16 * struct) })
      let ls := active w g
      let guard := (execLanes w).filter fun l => pBad w g.p l
      let vec := fun (d : Dst) => [Instr.add t g d a b, .sub t g d a b, .mul t g d a b, .and t g d a b, .or t g d a b, .xor t g d a b]
      let inV := fun (wide : Bool) => ls.filter fun l => vBad w n l || (wide && vBad w (n + 1) l)
      let inO := ls.filter fun l => oBad w n l || (t.wide && oBad w (n + 1) l)
      let inP := ls.filter fun l => pBad w n l
      isVO d = true →
      (sBad w n = true → (∀ i ∈ [Instr.sadd m (.s n) b.src, .ssub m (.s n) b.src, .smul m (.s n) b.src, .sand m (.s n) b.src, .sor m (.s n) b.src, .sxor m (.s n) b.src, .sshl m (.s n) b.src], UE i [] 2 3)
        ∧ ((scalarLV w 2 a.src).poison = none → ∀ i ∈ [Instr.sadd m a.src (.s n), .ssub m a.src (.s n), .smul m a.src (.s n), .sand m a.src (.s n), .sor m a.src (.s n), .sxor m a.src (.s n), .sshl m a.src (.s n)], UE i [] 3 3))
      ∧ (g.p ≠ 0 → guard ≠ [] → (∀ i ∈ vec d, UE i guard 5 4) ∧ UE (.pand g m n k) guard 5 4 ∧ UE (.por g m n k) guard 5 4 ∧ UE (.ld sz sp g (.v m) a c) guard 5 4 ∧ UE (.st sz sp g a b c) guard 5 4)
      ∧ (GuardClean w g →
        (a.src = .v n → inV t.wide ≠ [] → (∀ l ∈ ls, ((opI t b).at w 3 l).poison = none) → ∀ i ∈ vec d, UE i (inV t.wide) 2 0)
        ∧ (a.src = .o n → inO ≠ [] → (∀ l ∈ ls, ((opI t b).at w 3 l).poison = none) → ∀ i ∈ vec d, UE i inO 2 1)
        ∧ (a.src = .s n → sBad w n = true → ls ≠ [] → ∀ i ∈ vec d, UE i ls 2 3)
        ∧ (b.src = .v n → inV t.wide ≠ [] → (∀ l ∈ ls, ((opI t a).at w 2 l).poison = none) → ∀ i ∈ vec d, UE i (inV t.wide) 3 0)
        ∧ (n ≠ 0 → inP ≠ [] → (∀ l ∈ ls, (predLV w 3 k l).poison = none) → UE (.pand g m n k) inP 2 4 ∧ UE (.por g m n k) inP 2 4)
        ∧ (a.src = .v n → inV (!sp) ≠ [] → (∀ l ∈ ls, (srcLV w 4 .i32 false c.src l).poison = none) → UE (.ld sz sp g (.v m) a c) (inV (!sp)) 2 0)
        ∧ (AddressesClean w g sp a.src c.src → b.src = .v n → inV (sz == .b8) ≠ [] → UE (.st sz sp g a b c) (inV (sz == .b8)) 3 0)))

/-- R393 and R394: a fault of a wave ends its unit; the unit's work is queued again from its task record where R390 allows it and the launch restarts, and is otherwise at an end. -/
def Obligations.FaultEndsTheUnit : Prop :=
  ∀ (s : State) (t : Trap) (r : UnitR),
    let w := me s
    let l := (s.launch r.task.launch).getD {}
    let again := relaunchable t false && l.restart && !r.nrst && !l.cnt.cancelled && decide (r.task.relaunches < 3) && r.area == none
    isCtl s.cur = false → s.unit w.unit = some r →
    (s.trapCur t).unit w.unit = none
    ∧ (again = true → (s.trapCur t).pend = s.pend ++ [{ r.task with relaunches := r.task.relaunches + 1, avoid := some (w.unit / 16) }])
    ∧ (again = false → (s.trapCur t).pend = s.pend)

/-! ## System instructions (R258 to R260, R267 to R274) -/

/-- R258 and R260: nop and cnop do nothing but advance the PC; yield passes the wave over, and does nothing on a control core. -/
def Obligations.NopsAndYield : Prop :=
  ∀ (s : State),
    let w := me s
    Completes s .nop RegsSame ∧ Completes s .cnop RegsSame
    ∧ (w.ctl = true → Completes s .yield RegsSame)
    ∧ (w.ctl = false → Issues s .yield → ∃ w', exec .yield s = .next (s.setWave s.cur w') ∧ w'.yielded = some s.cycle ∧ Keeps w { w' with yielded := w.yielded } ∧ Advances 8 w w' ∧ RegsSame w w')

/-- R267, R272 and R273: rdsys, rdtime and rdid write what they read to their destination and change nothing else; a register or an identity that the level does not allow raises PRIV; the lane number has no scalar form (ILLOP). -/
def Obligations.SystemReads : Prop :=
  ∀ (s : State) (d n v : Nat),
    let w := me s
    (w.window n = false → s.sysRead s.cur n = some v → Completes s (.rdsys d n) (ScalarGets d (BitVec.ofNat 64 v)))
    ∧ (w.window n = false → s.sysRead s.cur n = none → Issues s (.rdsys d n) → exec (.rdsys d n) s = .next (s.trapCur { cause := 0x02 }))
    ∧ Completes s (.rdtime d) (ScalarGets d (BitVec.ofNat 64 w.clock))
    ∧ (n ≠ 0 → s.ident n 0 = some v → Completes s (.rdid (.s d) n) (ScalarGets d (BitVec.ofNat 64 v)))
    ∧ (s.ident n 0 = some v → Completes s (.rdid (.v d) n) (fun w w' => (∀ m l, l < 32 → vAt w' m l = if m = d ∧ l ∈ execLanes w then BitVec.ofNat 32 ((s.ident n l).getD 0) else vAt w m l)
        ∧ w'.regs = { w.regs with v := w'.regs.v }))
    ∧ (s.ident n 0 = some v → Completes s (.rdid (.o d) n) (fun w w' => (∀ m l, l < 32 → oAt w' m l = if m = d ∧ l ∈ execLanes w then BitVec.ofNat 32 ((s.ident n l).getD 0) else oAt w m l)
        ∧ w'.regs = { w.regs with o := w'.regs.o }))
    ∧ (Issues s (.rdid (.s d) 0) → exec (.rdid (.s d) 0) s = .next (s.trapCur (illop 0x06 1)))
    ∧ (∀ e : Dst, ((n = 11 ∨ n = 12) ∧ w.level < 1) ∨ ((n = 13 ∨ n = 14) ∧ w.level < 2) ∨ 14 < n → Issues s (.rdid e n) → exec (.rdid e n) s = .next (s.trapCur { cause := 0x02 }))

/-- R207, R254, R268 and R269: what reading and writing the wave's own system registers gives: FMODE as it will be, NMODE (its reserved bits read 0), DEPTH, PLEVEL, and at level 1 TVEC, TEPC, TCAUSE and TSTAT; below level 1 those four, and DEPTH for a write, raise PRIV. -/
def Obligations.OwnSystemRegisters : Prop :=
  ∀ (s : State) (a : Src),
    let w := me s
    let V := sVal w a
    let Writes := fun (n : Nat) (P : Wave → Prop) => Issues s (.wrsys a n) → ∃ w', exec (.wrsys a n) s = .next (s.setWave s.cur w') ∧ Advances (Instr.length (.wrsys a n)) w w' ∧ RegsSame w w' ∧ P w'
    w.ctl = false → w.st ≠ .empty → ScalarsClean w [a] →
    s.sysRead s.cur 0 = some (w.fpend.getD w.fmode).toNat ∧ s.sysRead s.cur 1 = some w.nmode.toNat ∧ s.sysRead s.cur 3 = some w.depth ∧ s.sysRead s.cur 4 = some w.level
    ∧ (1 ≤ w.level → s.sysRead s.cur 0x10 = some w.tvec.toNat ∧ s.sysRead s.cur 0x11 = some w.tepc.toNat ∧ s.sysRead s.cur 0x12 = some w.tcause.toNat ∧ s.sysRead s.cur 0x13 = some w.tstat.toNat)
    ∧ (w.level = 0 → ∀ n ∈ [0x10, 0x11, 0x12, 0x13], s.sysRead s.cur n = none ∧ (Issues s (.wrsys a n) → ∃ t, exec (.wrsys a n) s = .next t ∧ t = (s.modWave s.cur (fillScalars [(2, a)])).trapCur { cause := 0x02 }))
    ∧ Writes 0 (fun w' => w'.fmode = w.fmode ∧ w'.fpend = some (BitVec.ofNat 32 (V.toNat % 256 / 2 * 2)) ∧ w'.nmode = w.nmode)
    ∧ (w.level = 0 → Issues s (.wrsys a 3) → exec (.wrsys a 3) s = .next ((s.modWave s.cur (fillScalars [(2, a)])).trapCur { cause := 0x02 }))
    ∧ Writes 1 (fun w' => w'.nmode = BitVec.ofNat 32 V.toNat &&& 0xF81FFFFF ∧ w'.fmode = w.fmode ∧ w'.fpend = w.fpend)
    ∧ Writes 4 (fun w' => w'.level = w.level)
    ∧ (1 ≤ w.level → Writes 0x10 (fun w' => w'.tvec = BitVec.ofNat 64 (V.toNat % 2 ^ 57) ∧ w'.tepc = w.tepc ∧ w'.tcause = w.tcause ∧ w'.tstat = w.tstat))
    ∧ (1 ≤ w.level → Writes 0x11 (fun w' => w'.tepc = BitVec.ofNat 64 (V.toNat % 2 ^ 57) ∧ w'.tvec = w.tvec))
    ∧ (1 ≤ w.level → Writes 0x12 (fun w' => w'.tcause = BitVec.ofNat 64 (V.toNat % 2 ^ 28) ∧ w'.tvec = w.tvec))
    ∧ (1 ≤ w.level → Writes 0x13 (fun w' => w'.tstat = BitVec.ofNat 64 (V.toNat % 8) ∧ w'.tvec = w.tvec))
    ∧ (1 ≤ w.level → Writes 3 (fun w' => w'.depth = min 32 (V.toNat % 64) ∧ w'.stack = w.stack))

/-- R428, R433 and R437: the context window. In save mode a write of CTXDAT is ignored and a read gives the item that CTXSEL selects; in restore mode a write puts the value into the item that CTXSEL selects (KIND in bits 31:24, INDEX in bits 23:0), a scalar register of the saved wave at KIND 2; the tenth word of a store-buffer entry also installs that entry. -/
def Obligations.ContextWindow : Prop :=
  ∀ (s : State) (d v : Nat) (a : Src),
    let w := me s
    let k := bits w.ctxsel.toNat 24 8
    let n := bits w.ctxsel.toNat 0 24
    let s₁ := s.modWave s.cur (fillScalars [(2, a)])
    let V := s₁.sval a
    1 ≤ w.level → ScalarsClean w [a] →
    (∀ u z, w.mode = .restore → s₁.ctxPut s.cur V = some u → (if k = 9 ∧ n % 10 = 9 then u.installEntry s.cur (n / 10) else .done u) = .done z → Issues s (.wrsys a 0x1B) →
      exec (.ctxdatWrite a) s = .next (z.finishCur (.wrsys a 0x1B) (fun w => w)) ∧ exec (.wrsys a 0x1B) s = .next (z.finishCur (.wrsys a 0x1B) (fun w => w)))
    ∧ (w.mode = .restore → k = 2 → n < 64 → (s.unit w.unit).isSome = true → Issues s (.wrsys a 0x1B) → Does s (.ctxdatWrite a) fun t =>
        (t.wave s.cur).shadow = { w.shadow with ck := { w.shadow.ck with s := mset 0 w.shadow.ck.s n (BitVec.ofNat 64 V) } } ∧ Advances 8 w (t.wave s.cur) ∧ RegsSame w (t.wave s.cur) ∧ t.mem = s.mem ∧ t.units = s.units)
    ∧ (w.mode = .save → Issues s (.wrsys a 0x1B) → ∃ w', exec (.ctxdatWrite a) s = .next (s.setWave s.cur w') ∧ exec (.wrsys a 0x1B) s = .next (s.setWave s.cur w') ∧ RegsSame w w' ∧ w'.ctxsel = w.ctxsel)
    ∧ (w.mode = .save → (s.gateMark s.cur).ctxItem s.cur = .value v → Issues s (.rdsys d 0x1B) → ∃ t, exec (.ctxdatRead d) s = .next t ∧ exec (.rdsys d 0x1B) s = .next t ∧ sAt (t.wave s.cur) d = BitVec.ofNat 64 v ∧ t.mem = s.mem)

/-- R28 and R259: svc outside level 1, or with a code that is none of 0x40 to 0x43, raises PRIV; otherwise the request is posted with s0 and the physical address of its block, the wave waits, and it stands at the svc. -/
def Obligations.ServiceRequests : Prop :=
  ∀ (s : State) (c p : Nat) (g : Page),
    let w := me s
    let s0 := sAt w 0
    Issues s (.svc c) →
    (w.level < 1 ∨ c < 0x40 ∨ 0x43 < c → exec (.svc c) s = .next (s.trapCur (privTrap c)))
    ∧ (1 ≤ w.level → 0x40 ≤ c → c ≤ 0x43 → sBad w 0 = false → s.drainLines s.cur = [] → s.xlate (coreOf s.cur) w.vf w.level .write (s0.toNat / 64 * 64) = .ok p g → (isFabric p = true → s.lineOut s.cur (p / 64 * 64) = false) →
        ∃ t, exec (.svc c) s = .next t ∧ (t.vf w.vf).svcq = (s.vf w.vf).svcq ++ [⟨s.fresh, c, s0.toNat, p, false, 0, false⟩] ∧ t.mem = s.mem
          ∧ (t.wave s.cur).st = .waiting ∧ (t.wave s.cur).wait = .svc ∧ (t.wave s.cur).svcreq = some s.fresh ∧ (t.wave s.cur).pc = w.pc ∧ (t.wave s.cur).regs = w.regs)

/-- R159, R257 and R274: spawn of a wave of a unit enqueues a child of the next unit index with its target and argument, one deeper than the unit, and the launch's counter rises by one; a misaligned target raises ALIGN and a depth of 8 SPAWNDEPTH (0x11). -/
def Obligations.SpawnEnqueuesAChild : Prop :=
  ∀ (s : State) (x y : HSrc) (t a : W64) (r : UnitR) (l : Launch),
    let w := me s
    let i := Instr.spawn x y
    let filled := s.modWave s.cur (fill (some ⟨.i64, true, x.src⟩) (some ⟨.i64, true, y.src⟩) none)
    w.ctl = false → isCtl s.cur = false → Issues s i → s.unit w.unit = some r → s.launch r.task.launch = some l → UniformIs w x.src t → UniformIs w y.src a →
    (t.toNat % 4 = 0 → canonical t.toNat = true → (upper t.toNat = true → 3 ≤ w.level) → r.task.depth ≠ 8 → l.cnt.cancelled = false →
      ∃ u, exec i s = .next u
        ∧ u.pend = s.pend ++ [{ launch := r.task.launch, stage := r.task.stage, uidx := l.next.getD r.task.stage 0, child := some (t, a), depth := r.task.depth + 1, budget := r.task.budget, prio := w.base, relaunches := 0, taken := l.taken, avoid := none }]
        ∧ (∃ l', u.launch r.task.launch = some l' ∧ l'.cnt.count = l.cnt.count + 1 ∧ l'.next = l.next.set r.task.stage (l.next.getD r.task.stage 0 + 1))
        ∧ u.mem = s.mem ∧ (u.wave s.cur).regs = w.regs ∧ (inVariant w = false → (u.wave s.cur).pc = w.pc + BitVec.ofNat 64 i.length))
    ∧ (t.toNat % 4 ≠ 0 → exec i s = .next (filled.trapCur { cause := 0x04 }))
    ∧ (t.toNat % 4 = 0 → canonical t.toNat = true → (upper t.toNat = true → 3 ≤ w.level) → r.task.depth = 8 → exec i s = .next (filled.trapCur { cause := 0x11 }))

/-- R164, R181, R207, R247 and R436: the region marker opens a region at itself, with its live-in set and its checkpoint, loads FMODE and leaves every other register file as it is; on a control core and in save and restore mode it does nothing. exit of a wave that is not its unit's last vacates its slot after a release at .u, and its registers stay until the next placement (R57); of the last, once the unit's release is over, ends the unit; of a control program, ends the program; in save mode, the wave waits for the rest of its unit, once its accesses and their verdicts are over. -/
def Obligations.RegionAndExit : Prop :=
  ∀ (s : State) (vl ol : Nat) (r : UnitR),
    let w := me s
    let Live := fun (id : Nat) => id ≠ s.cur ∧ (s.wave id).st ≠ .empty ∧ (s.wave id).unit = w.unit
    (w.ctl = true ∨ w.mode ≠ .normal → Completes s (.region vl ol) RegsSame)
    ∧ (w.ctl = false → w.mode = .normal → s.unverified s.cur = false → w.gz.entry = none → w.stage1 = [] → s.unit w.unit = some r → s.cancelled r.task.launch = false
        → r.moving = false → r.preReq = false → s.gLevel w.vf w.launch = 3 → inVariant w = false →
        Does s (.region vl ol) fun t =>
          let w' := t.wave s.cur
          w'.pc = w.pc + 8 ∧ w'.st = .ready ∧ w'.rgn.rpc = w.pc ∧ w'.rgn.vlive = vl ∧ w'.rgn.olive = ol ∧ w'.rgn.ldest = none ∧ w'.rgn.ckpt = w'.checkpoint ∧ w'.rgn.first = true
          ∧ w'.rgn.serial = (w.rgn.serial && w.rgn.replay) ∧ w'.fmode = w.fpend.getD w.fmode ∧ w'.fpend = none ∧ w'.regs = { w.regs with y := [] } ∧ w'.nmode = w.nmode ∧ w'.depth = w.depth ∧ w'.stack = w.stack
          ∧ t.mem = s.mem ∧ t.unit w.unit = some r ∧ ∀ id, id ≠ s.cur → t.wave id = s.wave id)
    ∧ (w.ctl = false → w.mode = .normal → Quiet s → w.gz.entry = none → s.unit w.unit = some r → (∃ id ∈ r.slots, Live id) →
        Runs s .exit fun t => t.wave s.cur = w.left ∧ t.unit w.unit = some { r with gone := nsAdd r.gone w.widx, clocks := mset 0 r.clocks w.widx w.clock } ∧ (t.own s.cur).v = false ∧ (t.own s.cur).cur = s.interval s.cur + 1
          ∧ (t.own s.cur).pubu = s.interval s.cur + 1 ∧ t.mem = s.mem ∧ ∀ id, id ≠ s.cur → t.wave id = s.wave id)
    ∧ (∀ l, w.ctl = false → w.mode = .normal → w.step = 4 → s.unit w.unit = some r → s.launch r.task.launch = some l → l.cnt.count ≠ 0 → (∀ c ∈ s.changes, c.ident ∉ r.slots) →
        Runs s .exit fun t => t.unit w.unit = none ∧ (∀ id ∈ r.slots, t.wave id = (s.wave id).left) ∧ t.mem = s.mem
          ∧ ∃ l', t.launch r.task.launch = some l' ∧ l'.cnt.count = l.cnt.count - 1 ∧ l'.cnt.done = (l.cnt.done || l.cnt.count == 1))
    ∧ (∀ l, w.ctl = true → Quiet s → s.launch w.launch = some l → l.cnt.count ≠ 0 →
        Runs s .exit fun t => t.wave s.cur = w.left ∧ t.mem = s.mem ∧ ∃ l', t.launch w.launch = some l' ∧ l'.ctl = 2 ∧ l'.cnt.count = l.cnt.count - 1)
    ∧ (w.ctl = false → w.mode = .save → s.unit w.unit = some r → w.cpc = 0 → w.ttc = 0 → w.ldc = 0 → s.unverified s.cur = false → (∃ id ∈ r.slots, Live id ∧ (s.wave id).st ≠ .waiting) →
        Runs s .exit fun t => t.wave s.cur = { w with st := .waiting, wait := .none } ∧ t.unit w.unit = some r ∧ t.mem = s.mem)

/-- R179, R180 and R333: cncl and the host's cancel mark the launch or the level cancelled; no unit of a cancelled launch is left to be placed; and where no wave waits at a place that takes a cancel, cncl goes on with its registers as they were. -/
def Obligations.Cancels : Prop :=
  ∀ (s : State) (l : Nat) (x : Launch),
    let w := me s
    let OfLaunch := fun (l : Nat) (t : State) => (∃ x', t.launch l = some x' ∧ x'.cnt.cancelled = true) ∧ ∀ k ∈ t.pend, k.launch ≠ l
    let OfLevel := fun (i : Nat) (t : State) => (mget {} (t.vf x.vf).ctab i).cancelled = true
    let Open := fun (i : Nat) => i ≠ 0 ∧ (mget {} (s.vf x.vf).ctab i).done = false ∧ (mget {} (s.vf x.vf).ctab i).cancelled = false
    s.launch l = some x →
    (x.cnt.done = false → x.cnt.cancelled = false → Does s (.hostCancel l .launch) (OfLaunch l) ∧ (w.launch = l → Runs s (.cncl .launch) (OfLaunch l)))
    ∧ (Open x.graph → Does s (.hostCancel l .graph) (OfLevel x.graph) ∧ (w.launch = l → Runs s (.cncl .graph) (OfLevel x.graph)))
    ∧ (Open x.phase → Does s (.hostCancel l .phase) (OfLevel x.phase) ∧ (w.launch = l → Runs s (.cncl .phase) (OfLevel x.phase)))
    ∧ (Open x.job → Does s (.hostCancel l .job) (OfLevel x.job) ∧ (w.launch = l → Runs s (.cncl .job) (OfLevel x.job)))
    ∧ (∀ lvl, (∀ id, (s.wave id).cancelNow = false) → Runs s (.cncl lvl) (Passes s (.cncl lvl)))

/-! ## Memory (R93 to R106, R311 to R324) -/

/-- R93, R103, R314, R316 and R431: a load that issues claims the granules that it reads in the wave's interval, is recorded with its destination and the lanes still to be read, raises LDC by one, and changes no register yet; a lane whose granule it does not claim, in a buffer that a handle has bound, is read at once (log 123); in serial mode the bytes are read at once; in save and restore mode the destination is written at once, past the store buffers. A load without active lanes does nothing. One with a misaligned lane raises ALIGN with the lanes that are (R313), one that meets a write lock MMLOCK with the lanes that do (R131). -/
def Obligations.LoadsIssue : Prop :=
  ∀ (s : State) (sz : MSz) (sp : Bool) (g : Guard) (n : Nat) (a c : HSrc) (xs : List Acc) (m : SMap (Option Page)),
    let w := me s
    let size := mszBytes sz
    let Loads := fun (i : Instr) (dst : Nat) (sg scalar : Bool) =>
      let cs := s.claimsOf s.cur (s.interval s.cur) s.fresh s.cycle .read (!scalar) xs
      let rs := s.reqsOf s.cur size xs
      let claimed := fun (q : LoadReq) => cs.any (fun c => c.gran == granule q.sp q.addr)
      (w.mode = .normal → w.serial = false → w.ldc < 63 → Runs s i fun t => Passes s i t ∧ (t.wave s.cur).ldc = w.ldc + 1 ∧ t.claims = s.claims ++ cs
        ∧ (t.wave s.cur).loads = w.loads ++ [⟨s.fresh, dst, size, sg, scalar, rs.filter claimed, (rs.filter (!claimed ·)).map (s.take s.cur size sg), w.rgn.opened, false, w.pc, false, false⟩])
      ∧ (w.mode = .normal → w.serial = true → w.ldc < 63 → s.recs = [] → s.claimReady cs = true → Runs s i fun t => Passes s i t ∧ (t.wave s.cur).ldc = w.ldc + 1 ∧ t.claims = s.claims
        ∧ (t.wave s.cur).loads = w.loads ++ [⟨s.fresh, dst, size, sg, scalar, [], rs.map (s.take s.cur size sg), w.rgn.opened, false, w.pc, false, false⟩])
      ∧ (w.mode ≠ .normal → Runs s i fun t => Advances i.length w (t.wave s.cur) ∧ t.mem = s.mem ∧ (t.wave s.cur).loads = w.loads
        ∧ (t.wave s.cur).regs = (writeLoad dst size scalar ((xs.map fun y => (⟨y.lane, y.sp, y.pa, [], y.taint, y.va⟩ : LoadReq)).map (s.takeHome size sg)) w).regs)
    let Vector := fun (i : Instr) (sg : Bool) (d : Dst) =>
      AddressesClean w g sp a.src c.src →
      (active w g = [] → Runs s i (Passes s i)) ∧ (s.look s.cur sp .read size true (addresses w g sp a.src c.src) = .ok xs m → Loads i d.code sg false)
    let x := addrLV w sp a.src c.src 0
    (let ad := addresses w g sp a.src c.src
      ∀ (sg : Bool) (d : Dst), isVO d = true → let i := if sg then Instr.ldSigned sz sp g d a c else .ld sz sp g d a c
        (AddressesClean w g sp a.src c.src → AlignTraps s i size true ad ∧ LockTraps s i sp .read size true ad)
        ∧ (x.2.poison = none → AlignTraps s (.sld sz sp n a.src c.src) size false [(0, x.1, x.2.taint)] ∧ LockTraps s (.sld sz sp n a.src c.src) sp .read size false [(0, x.1, x.2.taint)]))
    ∧ (xs ≠ [] → (∀ y ∈ xs, y.sp = .mem → isFabric y.pa = false) →
    Vector (.ld sz sp g (.v n) a c) false (.v n) ∧ Vector (.ld sz sp g (.o n) a c) false (.o n)
    ∧ Vector (.ldSigned sz sp g (.v n) a c) true (.v n) ∧ Vector (.ldSigned sz sp g (.o n) a c) true (.o n)
    ∧ (x.2.poison = none → s.look s.cur sp .read size false [(0, x.1, x.2.taint)] = .ok xs m → Loads (.sld sz sp n a.src c.src) (256 + n) false true))

/-- R93, R97, R108, R315, R316 and R431: a store that issues claims the granules that it writes and lays its bytes into stage 1, where the wave's own loads find them; memory changes only later. The control core's stores go to its buffer. In save and restore mode memory is written at once. One with a misaligned lane raises ALIGN with the lanes that are (R313), one that meets a lock MMLOCK with the lanes that do (R131). -/
def Obligations.StoresIssue : Prop :=
  ∀ (s : State) (sz : MSz) (sp : Bool) (g : Guard) (a b c : HSrc) (ys : List Acc) (y : Acc) (m : SMap (Option Page)),
    let w := me s
    let size := mszBytes sz
    let x := addrLV w sp a.src c.src 0
    let v := scalarLV w 3 b.src
    let bytes := toBytes v.val size
    let i := Instr.st sz sp g a b c
    let j := Instr.sst sz sp a.src b.src c.src
    let one := s.claimsOf s.cur (s.interval s.cur) s.fresh s.cycle .write false [y]
    (AddressesClean w g sp a.src c.src → (∀ l ∈ active w g, (srcLV w 3 (dataKind sz) (sz == .b8) b.src l).poison = none) →
      AlignTraps s i size true (addresses w g sp a.src c.src) ∧ LockTraps s i sp .write size true (addresses w g sp a.src c.src))
    ∧ (x.2.poison = none → v.poison = none → AlignTraps s j size false [(0, x.1, x.2.taint)] ∧ LockTraps s j sp .write size false [(0, x.1, x.2.taint)])
    ∧ (w.taint = {} →
    (AddressesClean w g sp a.src c.src → active w g = [] → Runs s i (Passes s i))
    ∧ (AddressesClean w g sp a.src c.src → (∀ l ∈ active w g, (srcLV w 3 (dataKind sz) (sz == .b8) b.src l).poison = none) → ys ≠ []
        → s.look s.cur sp .write size true (addresses w g sp a.src c.src) = .ok ys m → w.mode = .normal → w.serial = false → w.stc < 63 →
        let ls := stLanes w sz a.src b.src (some c.src) ys
        let cs := s.claimsOf s.cur (s.interval s.cur) s.fresh s.cycle .write true (ls.map (·.acc))
        (entriesOf w.stage1 s.cur ls).length ≤ 64 →
        Runs s i fun t => Passes s i t ∧ (t.wave s.cur).stage1 = entriesOf w.stage1 s.cur ls ∧ t.claims = s.claims ++ cs ∧ (t.wave s.cur).stc = (if cs = [] then w.stc else w.stc + 1))
    ∧ (x.2.poison = none → v.poison = none → s.look s.cur sp .write size false [(0, x.1, x.2.taint)] = .ok [y] m →
        (w.mode = .normal → w.serial = false → w.stc < 63 → w.stage1 = [] → Runs s j fun t => Passes s j t ∧ t.claims = s.claims ++ one
          ∧ (y.pa % size = 0 → ∀ k, k < size → t.ownByte s.cur y.sp (y.pa + k) = some (bytes.getD k 0)))
        ∧ (w.mode = .normal → w.ctl = true → w.stc < 63 → w.stage1.length < 64 → s.recs = [] → s.claimReady one = true → Runs s j fun t => Passes s j t ∧ t.claims = s.claims
          ∧ (t.wave s.cur).stage1 = stage1Add w.stage1 s.cur y.sp y.pa y.va bytes)
        ∧ (w.mode ≠ .normal → (y.sp = .mem → isFabric y.pa = false) → Runs s j fun t => Advances j.length w (t.wave s.cur) ∧ RegsSame w (t.wave s.cur) ∧ Stored s t y.sp y.pa bytes)))

/-- R118 to R123 and R318 to R321: where nothing else is under way, an atomic gives its destination the old value and stores the new one (cas only where the old value is the compared one) with a release before and an acquire behind it; ldacq loads and acquires; strel releases and stores, at home from .d on and in the scratchpad, below .d into the unit's buffer; prf changes no register and no memory. -/
def Obligations.AtomicsAndReleases : Prop :=
  ∀ (s : State) (op : AtomOp) (sz : MSz) (sp : Bool) (sc : Scope) (g : Guard) (n l : Nat) (a b c : HSrc) (x : Acc) (m : SMap (Option Page)),
    let w := me s
    let size := mszBytes sz
    let wide := sz == .b8
    let old := ofBytes ((List.range size).map fun k => s.homeByte x.sp (x.pa + k))
    let B := (srcLV w 3 (dataKind sz) wide b.src l).val
    let C := (srcLV w 1 (dataKind sz) wide (.v n) l).val % 2 ^ (8 * size)
    let N := scNum sc
    let I := s.interval s.cur
    let Takes := fun (i : Instr) (N : Nat) (t : State) => Advances i.length w (t.wave s.cur)
      ∧ (∀ k j, j < 32 → vAt (t.wave s.cur) k j = if j = l ∧ k = n then BitVec.ofNat 32 old else if j = l ∧ wide = true ∧ k = n + 1 then BitVec.ofNat 32 (old / 2 ^ 32) else vAt w k j)
      ∧ (t.wave s.cur).regs = { w.regs with v := (t.wave s.cur).regs.v } ∧ Marks (s.own s.cur) (t.own s.cur) N I
    let ac := Instr.ldacq sz sp sc g (.v n) a
    let at_ := Instr.atom op sz sp sc g (.v n) a b
    let cs := Instr.cas sz sp sc g (.v n) a b
    let sr := Instr.strel sz sp sc g a b
    Runs s (.prf sp g a c) (Passes s (.prf sp g a c))
    ∧ (Alone s → AddressesClean w g sp a.src (.imm 0) → active w g = [l] → (x.sp = .mem → isFabric x.pa = false) → s.poisoned x.sp x.pa size = false → n + 1 < 240 →
      (s.look s.cur sp .read size true (addresses w g sp a.src (.imm 0)) = .ok [x] m → Runs s ac fun t => Takes ac 1 t ∧ Stored s t x.sp x.pa [])
      ∧ (s.look s.cur sp .write size true (addresses w g sp a.src (.imm 0)) = .ok [x] m → (srcLV w 3 (dataKind sz) wide b.src l).poison = none →
        Runs s at_ (fun t => Takes at_ N t ∧ Stored s t x.sp x.pa (toBytes (atomNew op size old B) size))
        ∧ ((srcLV w 1 (dataKind sz) wide (.v n) l).poison = none → Runs s cs fun t => Takes cs N t ∧ Stored s t x.sp x.pa (if old = C then toBytes (B % 2 ^ (8 * size)) size else []))
        ∧ Runs s sr fun t => Advances sr.length w (t.wave s.cur) ∧ RegsSame w (t.wave s.cur) ∧ Marks (s.own s.cur) (t.own s.cur) N I
          ∧ (3 ≤ N ∨ x.sp ≠ .mem → Stored s t x.sp x.pa (toBytes B size))
          ∧ (∀ r, N < 3 → x.sp = .mem → w.ctl = false → isCtl s.cur = false → s.unit w.unit = some r → t.mem = s.mem
            ∧ t.unit w.unit = some { r with sb := [⟨.mem, x.pa / 64 * 64, layBytes [] (x.pa % 64) (toBytes B size), s.cur, N == 2, x.va - x.pa % 64⟩] })))

/-- R89 to R92, R104, R105, R107, R115, R117 and R322 to R325: where nothing else of the wave is under way, rel closes the wave's interval and publishes it up to its scope, fence acquires besides, acq closes the interval and publishes nothing; an acquire at .f drops the function's fabric-window lines from the die's last-level cache and the core's scalar cache. bar is a release, then the arrival of the wave at the unit's barrier, where it waits; its checks come first. wait goes on when the counters are down to its operands, and waits until then. -/
def Obligations.SynchronisingInstructions : Prop :=
  ∀ (s : State) (sc : Scope) (lvl : BarLvl) (nl ns nc nt : Nat) (r : UnitR),
    let w := me s
    let I := s.interval s.cur
    let l := (s.launch r.task.launch).getD {}
    let Closes := fun (i : Instr) (N : Nat) => Runs s i fun t => Passes s i t ∧ Marks (s.own s.cur) (t.own s.cur) N I
    let Drops := fun (i : Instr) => sc = .f → Runs s i fun t => (∀ x ∈ (t.die (s.dieOf s.cur)).fcache, bits (s.winEntry (bits (64 * x.1) 40 11)) 1 6 ≠ w.vf)
      ∧ ∀ x ∈ (t.core (coreOf s.cur)).scache, bits (s.winEntry (bits (64 * x.1) 40 11)) 1 6 ≠ w.vf
    (Quiet s → Closes (.rel sc) (scNum sc) ∧ Closes (.fence sc) (scNum sc) ∧ Closes (.acq sc) 1 ∧ Drops (.fence sc) ∧ Drops (.acq sc))
    ∧ (isCtl s.cur = false → s.unit w.unit = some r → Issues s (.bar lvl) →
      (2 ≤ lvlNum lvl → l.kind ≠ 1 → l.whole = false → exec (.bar lvl) s = .next (s.trapCur (illop 0x0F 0)))
      ∧ ((lvlNum lvl < 2 ∨ l.kind = 1 ∨ l.whole = true) → r.bar.count ≠ 0 → r.bar.level ≠ lvlNum lvl → exec (.bar lvl) s = .next (s.trapCur (illop 0x10 0)))
      ∧ (Quiet s → s.cancelled r.task.launch = false → (lvlNum lvl < 2 ∨ l.kind = 1 ∨ l.whole = true) → (r.bar.count = 0 ∨ r.bar.level = lvlNum lvl) → Does s (.bar lvl) fun t =>
          (t.wave s.cur).st = .waiting ∧ (t.wave s.cur).wait = .bar lvl ∧ RegsSame w (t.wave s.cur) ∧ t.mem = s.mem ∧ Marks (s.own s.cur) (t.own s.cur) (lvlNum lvl + 1) I
          ∧ t.unit w.unit = some { r with bar := r.bar.arrive (lvlNum lvl) w.widx, athome := if 2 ≤ lvlNum lvl then r.athome.filter (·.1 != w.widx) else r.athome }))
    ∧ ((w.ctl = true → s.cancelled w.launch = false) →
      (w.within nl ns nc nt = true → Completes s (.wait nl ns nc nt) RegsSame) ∧ (w.within nl ns nc nt = false → Issues s (.wait nl ns nc nt) → exec (.wait nl ns nc nt) s = .next s.stall))

/-- R198 and R326 to R331: poll writes whether the queue has what the wave needs, and a failed poll lowers the priority and parks the wave; qput appends one entry of the queue's size for each lane of EXEC, after a release; qget takes as many from the front into its registers, with an acquire behind; a queue operation that finds too little parks the wave where it stands; qprobe gives the queue's word, in which READY counts every committed entry that no qget has taken. A word of an entry that lies in a poisoned line of the ring arrives poisoned, and an entry that covers such a line clears it (R87, R396); that the entries follow one another in the ring is the model's (log 129). -/
def Obligations.QueueInstructions : Prop :=
  ∀ (s : State) (sp : Bool) (p d n : Nat) (q : Src) (b : BQueue),
    let w := me s
    let Q := s.sval q
    let L := w.qLanes.length
    let ls := execLanes w
    let i := Instr.poll sp p q
    let pu := Instr.qput q n
    let gt := Instr.qget d q
    let Parks := fun (w' : Wave) => w'.st = .parked ∧ w'.parkEnd = s.cycle + 16 * 2 ^ min w.fails 10 ∧ w'.fails = w.fails + 1 ∧ w'.prio = w.prio - 1
    let Restored := fun (w' : Wave) => w'.prio = w.base ∧ w'.fails = 0
    let Moved := fun (i : Instr) (w' : Wave) => inVariant w = false → w'.pc = w.pc + BitVec.ofNat 64 i.length
    let QueueIs := fun (t : State) (y : BQueue) => ∃ x, t.launch w.launch = some x ∧ x.queues[Q]? = some y
    let start := fun (j : Nat) => (b.head + j) % 2 ^ b.log2cap * (4 * b.size4)
    let covered := fun (x : Nat) => ∃ j, b.ring.length ≤ j ∧ j < b.ring.length + ls.length ∧ start j ≤ 64 * x ∧ 64 * x + 64 ≤ start j + 4 * b.size4
    ScalarsClean w [q] → s.cancelled w.launch = false →
    (∀ t, s.queueTrap (.poll sp) Q = .error t → Issues s i → exec i s = .next (s.trapCur t))
    ∧ (s.queueTrap (.poll sp) Q = .ok b →
      let here := if sp then b.free else b.ready.length
      (L ≤ here → Runs s i fun t => PredGets p (w.qLanes.filter fun l => w.regs.exec.getLsbD l) (fun _ => true) w (t.wave s.cur) ∧ (t.wave s.cur).st = .ready ∧ Moved i (t.wave s.cur) ∧ Restored (t.wave s.cur) ∧ t.mem = s.mem)
      ∧ (here < L → Runs s i fun t => PredGets p (w.qLanes.filter fun l => w.regs.exec.getLsbD l) (fun _ => false) w (t.wave s.cur) ∧ Parks (t.wave s.cur) ∧ Moved i (t.wave s.cur) ∧ t.mem = s.mem))
    ∧ (Quiet s → s.queueTrap (.put n) Q = .ok b → w.taint.v = [] → (∀ j l, j < b.size4 → l ∈ ls → vBad w (n + j) l = false) → (∀ e ∈ b.ring, e.owner ≠ some s.cur) →
      (ls.length ≤ b.free → Runs s pu fun t => Passes s pu t ∧ Restored (t.wave s.cur) ∧ Marks (s.own s.cur) (t.own s.cur) s.queueScope (s.interval s.cur)
        ∧ ∃ bad : List Nat, (∀ x, x ∈ bad ↔ x ∈ b.badl ∧ ¬covered x)
          ∧ QueueIs t { b with ring := b.ring ++ ls.map fun l => { words := (List.range b.size4).map fun j => (vAt w (n + j) l, false) }, badl := bad })
      ∧ (b.free < ls.length → Runs s pu fun t => Parks (t.wave s.cur) ∧ (t.wave s.cur).pc = w.pc ∧ RegsSame w (t.wave s.cur) ∧ QueueIs t b ∧ t.mem = s.mem))
    ∧ (Quiet s → s.queueTrap (.get d) Q = .ok b → (∀ e ∈ b.ring, e.words.length = b.size4) →
      (ls.length ≤ b.ready.length → Runs s gt fun t => Advances gt.length w (t.wave s.cur) ∧ Restored (t.wave s.cur) ∧ Marks (s.own s.cur) (t.own s.cur) 1 (s.interval s.cur) ∧ QueueIs t { b with ring := b.ring.drop ls.length, head := (b.head + ls.length) % 2 ^ b.log2cap } ∧ t.mem = s.mem
        ∧ (∀ k l j, ls[k]? = some l → j < b.size4 → vAt (t.wave s.cur) (d + j) l = (((b.ring.getD k {}).words.getD j (0, false)).1) ∧ vBad (t.wave s.cur) (d + j) l = b.badl.contains ((start k + 4 * j) / 64))
        ∧ (∀ m l, l < 32 → (m < d ∨ d + b.size4 ≤ m ∨ l ∉ ls) → vAt (t.wave s.cur) m l = vAt w m l) ∧ (t.wave s.cur).regs = { w.regs with v := (t.wave s.cur).regs.v })
      ∧ (b.ready.length < ls.length → Runs s gt fun t => Parks (t.wave s.cur) ∧ (t.wave s.cur).pc = w.pc ∧ RegsSame w (t.wave s.cur) ∧ QueueIs t b ∧ t.mem = s.mem))
    ∧ (s.queueOf Q = some b → Completes s (.qprobe d q) (ScalarGets d (BitVec.ofNat 64 (b.size4 * 2 ^ 48 + b.log2cap * 2 ^ 40 + b.free * 2 ^ 17 + (b.ring.filter fun e => e.owner.isNone).length))))

/-! ## Engines and Graze (R336 to R366, R386 to R388) -/

/-- R176, R340, R342, R343, R349, R350, R365, R370 and R386 to R388: hwait writes its predicate where the handle is where it waits for, and waits otherwise; hrel releases a full handle, which is free at once where nothing is left on it; stadv with no entry left to issue advances the unit's schedule counter; evget takes the oldest record of the core's queue; gpol sets the launch's level; gqry gives the word of a variant, and gcul culls one; both take the low 32 bits of their operand, which is the model's reading (log 74). -/
def Obligations.HandlesRecordsAndGraze : Prop :=
  ∀ (s : State) (full : Bool) (p d n u k : Nat) (h : Src) (r : UnitR) (x : Launch),
    let w := me s
    let V := s.sval h
    let c := coreOf s.cur
    let H := State.handle r V
    let H' := State.handle r k
    let Pauses := fun (i : Instr) => Runs s i fun t => (t.wave s.cur).st = .stalled ∧ (t.wave s.cur).pc = w.pc ∧ RegsSame w (t.wave s.cur) ∧ t.mem = s.mem
    let open_ := (w.ctl = true ∨ s.cancelled w.launch = false)
    let L := selectSched ((s.launch w.launch).getD {}).sched r.stagec (min (r.stagec + n) 65535) (!r.stadv)
    ScalarsClean w [h] →
    (s.curUnit = r → V ≤ 15 →
      ((if full then H.st = .full ∨ H.st = .draining else H.st = .free) → Completes s (.hwait full p h) (PredGets p (execLanes w) fun _ => full && (H.ovr || H.err)))
      ∧ (¬(if full then H.st = .full ∨ H.st = .draining else H.st = .free) → open_ → Pauses (.hwait full p h)))
    ∧ (15 < V → Issues s (.hwait full p h) → exec (.hwait full p h) s = .next (s.trapCur (engTrap 0x06 0 2 0)))
    ∧ (s.hrelTarget V = some (u, k) → s.unit u = some r →
      (H'.st = .full → Runs s (.hrel h) fun t => Passes s (.hrel h) t ∧ ∃ r', t.unit u = some r' ∧ State.handle r' k =
          if H'.ncmd = 0 ∧ H'.ngate = 0 ∧ (s.core (u / 16)).gatedOn u k H'.fill = false then { H' with st := .free, blen := 0 } else { H' with st := .draining })
      ∧ (H'.st ≠ .full → open_ → Pauses (.hrel h)))
    ∧ (isCtl s.cur = false → s.unit w.unit = some r → (w.sched = none → s.schedPlan n = (L, min (r.stagec + n) 65535))
      ∧ ((w.step ≠ 2 → (s.schedPlan n).1 = []) → (w.step = 2 → s.entering = none ∧ (s.schedPlan n).1[w.engi]? = none) → Runs s (.stadv n) fun t =>
        Passes s (.stadv n) t ∧ t.unit w.unit = some { r with stagec := (s.schedPlan n).2, stadv := true }))
    ∧ (∀ e es, (w.ctl = true ∨ 1 ≤ w.level) → s.ctlCancel = false → (s.core c).evq = e :: es → Runs s (.evget d) fun t =>
        Advances 8 w (t.wave s.cur) ∧ (t.core c).evq = es ∧ t.mem = s.mem ∧ (t.wave s.cur).regs = { w.regs with s := (t.wave s.cur).regs.s }
        ∧ ∀ m, sAt (t.wave s.cur) m = if m = d + 1 then e.data else if m = d then BitVec.ofNat 64 e.low else sAt w m)
    ∧ ((w.ctl = true ∨ 1 ≤ w.level) → s.ctlCancel = false → (s.core c).evq = [] → open_ → Pauses (.evget d))
    ∧ (w.ctl = false → w.level = 0 → Issues s (.evget d) → exec (.evget d) s = .next (s.trapCur (privTrap 0)))
    ∧ (s.launch w.launch = some x → V ≤ 3 → (x.graze ≤ V ∨ 1 ≤ w.level) → Runs s (.gpol h) fun t => Passes s (.gpol h) t ∧ t.launch w.launch = some { x with graze := V })
    ∧ Completes s (.gqry d h) (ScalarGets d (BitVec.ofNat 64 (s.gWord w.vf V)))
    ∧ (∀ f, bits V 26 6 = w.vf → s.fold w.vf (V % 2 ^ 26) = some f → Runs s (.gcul h) fun t => Passes s (.gcul h) t ∧ ∃ f', t.fold w.vf (V % 2 ^ 26) = some f' ∧ f'.st = .culled ∧ f'.pc = f.pc)
    ∧ (bits V 26 6 = w.vf → s.fold w.vf (V % 2 ^ 26) = none → Runs s (.gcul h) fun t => Passes s (.gcul h) t ∧ t.vfs = s.vfs)

/-- R129, R130, R336, R337, R345, R351, R357 to R360 and R362: an engine instruction checks its operands first; a descriptor that has been read and checked is put into the engine's table as a command of the wave; and once every part of the command is translated and its locks are entered, the instruction completes: its command is issued with the next sequence number (the one after the wave's SEQ has advanced, log 51), CPC or TTC rises, and aep advances the epilogue's phase. -/
def Obligations.CommandsIssue : Prop :=
  ∀ (s : State) (h desc grp t fb : Src) (a b : TOp) (n k : Nat) (bs : List Byte) (x : Cmd) (y : Core),
    let w := me s
    let c := coreOf s.cur
    let r := s.curUnit
    let i1 := Instr.cpy h desc
    let i2 := Instr.cpyc h desc grp
    let i3 := Instr.mtask t a b fb
    let i4 := Instr.aep t h fb
    let full := fun (x : Cmd) => { x with parts := s.resolveAll c x }
    let tile := x.kind = .tile ∨ x.kind = .aep
    let Issued := fun (P : Wave → Prop) (t : State) => P (t.wave s.cur) ∧ RegsSame w (t.wave s.cur) ∧ (t.wave s.cur).seq = w.seq + 1
      ∧ (t.wave s.cur).cpc = (if tile then w.cpc else w.cpc + 1) ∧ (t.wave s.cur).ttc = (if tile then w.ttc + 1 else w.ttc) ∧ (s.drainLines s.cur = [] → (x.kind = .aep → x.taint = false ∧ ∀ u, s.unit x.unit = some u → s.tileTainted c (u.tileOf (x.args.getD 0 0)) = false) → t.mem = s.mem)
      ∧ ∃ z, t.cmd c k = some z ∧ 1 ≤ z.phase ∧ z.kind = x.kind ∧ z.desc = x.desc ∧ z.args = x.args ∧ z.regs = x.regs ∧ z.seq = w.seq + 1
    let Enters := fun (i : Instr) (z : Cmd) => s.entering = none → w.step ≠ 2 → w.eng = [bs] → (full z).locks.length ≤ 64 →
      Runs s i fun t => ((t.wave s.cur).step = 2 ∨ (t.wave s.cur).st = .ready) ∧ RegsSame w (t.wave s.cur)
        ∧ ∃ q, t.cmd c k = some q ∧ q.ident = s.cur ∧ q.kind = z.kind ∧ q.desc = bs ∧ q.args = z.args ∧ q.regs = z.regs ∧ q.handle = z.handle ∧ q.gate = z.gate
    let Traps := fun (i : Instr) (e : Trap) => Issues s i → exec i s = .next (s.trapCur e)
    (w.step = 2 → s.entering = some (k, x) → (full x).locks.length ≤ 64 → (full x).parts.any Part.isOpen = false → (s.core c).enter k x.unit (full x).locks = some y → w.ctl = false →
      Runs s i1 (Issued fun w' => Advances i1.length w w' ∧ w'.nmode = w.nmode) ∧ Runs s i2 (Issued fun w' => Advances i2.length w w' ∧ w'.nmode = w.nmode)
      ∧ Runs s i3 (Issued fun w' => Advances i3.length w w' ∧ w'.nmode = w.nmode) ∧ Runs s i4 (Issued fun w' => Advances i4.length w w' ∧ w'.nmode = (advancePh w).nmode)
      ∧ Runs s (.stadv n) (Issued fun w' => w'.engi = w.engi + 1 ∧ w'.st = .stalled ∧ w'.pc = w.pc))
    ∧ (ScalarsClean w [h, desc, grp] → 15 < s.sval h → w.step ≠ 2 → Traps i1 (engTrap 0x06 0 2 0) ∧ Traps i2 (engTrap 0x06 0 2 0))
    ∧ (ScalarsClean w [h, desc] → s.sval h ≤ 15 → s.sval desc % 64 ≠ 0 → w.step ≠ 2 → Traps i1 (engTrap 0x04 0 3 0))
    ∧ (ScalarsClean w [h, desc] → s.sval h ≤ 15 → s.sval desc % 64 = 0 → copyTrap r (s.sval h) bs = none → s.copyBusy (s.sval h) false = false → (s.core c).freeSlot false = some k →
        Enters i1 (s.copyCmd (s.sval h) bs))
    ∧ (let g := s.groupEntry w.vf (s.sval grp)
      ScalarsClean w [h, desc, grp] → s.sval h ≤ 15 → s.sval grp ≤ 255 → s.sval desc % 64 = 0 → collTrap bs g = none → s.copyBusy (s.sval h) true = false → (s.core c).freeSlot false = some k →
        Enters i2 (s.collCmd (s.sval h) bs g))
    ∧ (s.ueScalar ([(1, t), (4, fb)] ++ topScalars 2 a ++ topScalars 3 b) = none → tileTrap r (s.sval t) 1 = none → s.sval fb % 64 = 0 → fbTrap r bs = none → s.taskTrap bs a b = none → w.ttc < 15
        → (s.core c).freeSlot true = some k → Enters i3 (s.taskCmd (s.sval t) a b bs))
    ∧ (ScalarsClean w [t, h, fb] → tileTrap r (s.sval t) 2 = none → s.sval h % 32 = 0 → s.sval fb % 64 = 0 → edTrap r bs (s.sval h) = none → w.ttc < 15 → (s.core c).freeSlot true = some k →
        Enters i4 (s.aepCmd (s.sval t) (s.sval h) (!(sTaints (s.wave s.cur) [h] []).isEmpty) bs))

/-- R70, R71, R72, R354 to R356 and R366: aalloc takes free banks, zeroed (the lowest ones, which is the model's choice, log 62), or waits behind the requests before it; afree gives them back; ald records what its lanes read (with the taint of its address, log 61), ast writes, azero zeroes one tile; the address of each is in the unit's allocation, and a second aalloc or one beyond ACCMAX raises ACCBANK. -/
def Obligations.AccumulatorInstructions : Prop :=
  ∀ (s : State) (g : Guard) (d : Dst) (l : Nat) (a b c t : HSrc) (r : UnitR),
    let w := me s
    let k := s.sval t.src
    let core := coreOf s.cur
    let C := s.core core
    let i := Instr.aalloc t.src
    let j := Instr.ald g d a c
    let q := Instr.ast g a b c
    let z := Instr.azero t.src
    let lanes := (active w g).map fun l => (l, (addrLV w true a.src c.src l).1)
    let word := fun (l : Nat) => (accWord r ((addrLV w true a.src c.src l).1.toNat / 4)).getD 0
    isVO d = true → isCtl s.cur = false → s.unit w.unit = some r → ScalarsClean w [t.src] →
    (r.acc.isSome = true ∨ r.accReq.isSome = true → Issues s i → exec i s = .next (s.trapCur (accTrap 0)))
    ∧ (r.acc = none → r.accReq = none → k = 0 ∨ r.m < k → Issues s i → exec i s = .next (s.trapCur (accTrap 1)))
    ∧ (r.acc = none → r.accReq = none → 0 < k → k ≤ r.m →
      (C.accQ = [] → k ≤ C.bankFree.length → Runs s i fun u => let bs := C.bankFree.take k
          Passes s i u ∧ u.unit w.unit = some { r with acc := some bs, accReq := none } ∧ (u.core core).accQ = []
          ∧ (∀ p, mget none (u.core core).banks p = if p ∈ bs then some (w.unit % 16) else mget none C.banks p)
          ∧ (∀ p, mget 0 (u.core core).acc p = if p / 32768 ∈ bs then 0 else mget 0 C.acc p))
      ∧ (C.accQ ≠ [] ∨ C.bankFree.length < k → (w.mode = .normal → s.cancelled w.launch = false) → Runs s i fun u =>
          (u.wave s.cur).st = .waiting ∧ (u.wave s.cur).wait = .aalloc ∧ (u.wave s.cur).pc = w.pc ∧ RegsSame w (u.wave s.cur) ∧ u.mem = s.mem
          ∧ u.unit w.unit = some { r with accReq := some (s.cur, k) } ∧ (u.core core).accQ = C.accQ ++ [(w.unit, k, s.cur)]))
    ∧ (r.acc = none → Issues s .afree → exec .afree s = .next (s.trapCur (accTrap 2)))
    ∧ (∀ bs, r.acc = some bs → (∀ e ∈ C.cmds, ∀ x, e.2 = some x → x.unit = w.unit → x.kind ≠ .tile ∧ x.kind ≠ .aep) → (∀ id ∈ s.liveSlots w.unit r, ∀ q ∈ (s.wave id).loads, q.acc = false) → Runs s .afree fun u =>
        Passes s .afree u ∧ u.unit w.unit = some { r with acc := none } ∧ ∀ p, mget none (u.core core).banks p = if p ∈ bs then none else mget none C.banks p)
    ∧ (AddressesClean w g true a.src c.src → s.accCheck false lanes = none → w.ldc < 63 → Runs s j fun u => Passes s j u ∧ (lanes ≠ [] → (u.wave s.cur).ldc = w.ldc + 1
        ∧ (u.wave s.cur).loads = w.loads ++ [⟨s.fresh, d.code, 4, false, false, [], (active w g).map fun l =>
            ⟨l, BitVec.ofNat 64 (mget 0 C.acc (word l)).toNat, mget false C.accPoison (word l), mget false C.accTaint (word l / 4096) || (addrLV w true a.src c.src l).2.taint⟩, 0, false, w.pc, false, true⟩]))
    ∧ (AddressesClean w g true a.src c.src → w.taint = {} → active w g = [l] → (srcLV w 3 .i32 false b.src l).poison = none → s.accCheck true lanes = none → Runs s q fun u => Passes s q u
        ∧ ∀ p, mget 0 (u.core core).acc p = if p = word l then BitVec.ofNat 32 (srcLV w 3 .i32 false b.src l).val else mget 0 C.acc p)
    ∧ (tileTrap r k 0 = none → C.lockTrap 0x4000 true false [(0, k, 2, r.accPhys k)] = none → Runs s z fun u => Passes s z u
        ∧ ∀ p, mget 0 (u.core core).acc p = if p / 4096 = r.tileOf k then 0 else mget 0 C.acc p)

/-! ## The events of ordering (R79, R80, R91 to R96, R103, R105, R109, R111, R115) -/

/-- R79, R80 and R92 to R96, R103, R105: a claim that reaches its home leaves its record and a clear verdict, or draws a race: of a writer record of another identity that is open or not published to the accessor, or for a write of a reader record in an open interval; the lanes of its load take their values then. A record on which no access can trap any more is free as soon as it stands (R79). A clear verdict ends its store's count; a race rolls a wave back to its restart point in serial mode, and is MMRACE in serial mode. A load whose lanes have all been read is written to its register. The PUB mark of a record found is set from its identity's entry (log 13), and a late result's write-back is an event of its own, RESULT_WRITEBACK, after which an instruction that names the register no longer waits (log 15). -/
def Obligations.OrderingEvents : Prop :=
  ∀ (s : State) (n : Nat) (c : Claim) (r : Rec) (race : Race) (l : PendLoad) (x : LoadLane),
    let P := mget {} s.recs c.gran
    let e := s.entry (granDie c.gran) r.slot
    let found := s.found (granDie c.gran)
    let own := s.entry (granDie c.gran) c.ident
    let mine : Rec := ⟨c.ident, c.interval, 0⟩
    let w := s.wave c.ident
    let open_ := e.v = true ∧ r.interval = e.cur
    let hidden := e.mark (s.commonScope c.ident r.slot) ≤ r.interval
    (r.slot ≠ c.ident → e.fv = false →
      (P.wr = some r → open_ ∨ hidden → ∃ y, s.judge c = some y ∧ y.oslot = r.slot ∧ y.oint = r.interval ∧ y.kind = (if c.kind = .read then 0 else 1))
      ∧ (P.wr = some r → ¬open_ → ¬hidden → P.rd = none → s.judge c = none)
      ∧ (P.wr = none → P.rd = some r → c.kind ≠ .read → open_ → ∃ y, s.judge c = some y ∧ y.oslot = r.slot ∧ y.oint = r.interval ∧ y.kind = 2)
      ∧ (P.wr = none → P.rd = some r → c.kind = .read ∨ ¬open_ → s.judge c = none))
    ∧ (P = {} → s.judge c = none)
    ∧ (s.claims[n]? = some c →
      (s.claimReady [c] = false → exec (.claim n) s = .next s)
      ∧ (s.claimReady [c] = true → (∀ d ∈ s.claims.take n, ¬(d.gran = c.gran ∧ d.ident = c.ident)) → Does s (.claim n) fun t =>
          t.claims = dropNth s.claims n ∧ t.verdicts = s.verdicts ++ [⟨c, s.judge c⟩] ∧ t.mem = s.mem ∧ t.units = s.units
          ∧ (s.judge c ≠ none → mget {} t.recs c.gran = { wr := P.wr.map found, rd := P.rd.map found }) ∧ (∀ g, g ≠ c.gran → mget {} t.recs g = mget {} s.recs g)
          ∧ (s.judge c = none → mget {} t.recs c.gran = { wr := if c.kind = .read then P.wr.map found else if c.interval < own.pubf then none else some mine, rd := if c.kind = .write then P.rd.map found else if own.v = true ∧ c.interval = own.cur then some mine else none })
          ∧ (l ∈ w.loads → l.id = c.op → l.acq = false → (∀ q ∈ l.reqs, q.remote = false ∧ granule q.sp q.addr = c.gran) →
              { l with got := l.got ++ l.reqs.map (s.take c.ident l.size l.signed), reqs := [] } ∈ (t.wave c.ident).loads)))
    ∧ (s.claims[n]? = some c →
      (s.room c.gran = true ∨ s.cycle < c.since + 1400000 → exec (.claimSpaceTimeout n) s = .next s)
      ∧ (s.room c.gran = false → c.since + 1400000 ≤ s.cycle → c.op ≠ 0 → exec (.claimSpaceTimeout n) s =
          .next (State.raise { s with claims := dropNth s.claims n } c.ident { cause := 0x08, lanes := c.lanes, detail := BitVec.ofNat 64 (3 * 2 ^ 29 + 1), addr := c.addr })))
    ∧ (s.verdicts[n]? = some ⟨c, none⟩ → c.op ≠ 1 → Does s (.verdictReturn n) fun t => t.verdicts = dropNth s.verdicts n ∧ t.mem = s.mem
        ∧ (c.kind = .write → 2 ≤ c.op → (∀ d ∈ s.claims, ¬(d.ident = c.ident ∧ d.op = c.op)) → (∀ d ∈ dropNth s.verdicts n, ¬(d.claim.ident = c.ident ∧ d.claim.op = c.op)) → t.wave c.ident = { w with stc := w.stc - 1 }))
    ∧ (∀ v, s.verdicts[n]? = some v → v.claim = c → c.op = 1 →
      let mine := fun (v : Verdict) => v.claim.ident == c.ident && v.claim.op == 1
      let races := (s.verdicts.filter mine).filterMap fun v => v.race.map fun r => (v.claim, r)
      let left := { s with verdicts := s.verdicts.filter fun v => !mine v }
      ((∃ d ∈ s.claims, d.ident = c.ident ∧ d.op = 1) → exec (.verdictReturn n) s = .next s)
      ∧ ((∀ d ∈ s.claims, ¬(d.ident = c.ident ∧ d.op = 1)) → exec (.verdictReturn n) s = .next (if races = [] then left else if w.serial = true then left.raise c.ident (raceTrap races (w.rgn.serial && !w.rgn.lead)) else left.replay c.ident)))
    ∧ (s.verdicts[n]? = some ⟨c, some race⟩ →
      (c.op = 0 → Does s (.verdictReturn n) fun t => t.waves = s.waves)
      ∧ (2 ≤ c.op → w.serial = true → exec (.verdictReturn n) s = .next (State.raise { s with verdicts := dropNth s.verdicts n } c.ident (raceTrap [(c, race)] w.rgn.serial)))
      ∧ (2 ≤ c.op → w.serial = false → Does s (.verdictReturn n) fun t => let w' := t.wave c.ident
          w'.pc = w.rgn.rpc ∧ w'.st = .ready ∧ w'.stage1 = [] ∧ w'.stc = 0 ∧ w'.regs.exec = w.rgn.ckpt.exec ∧ w'.regs.s = w.rgn.ckpt.s ∧ w'.regs.p = w.rgn.ckpt.p ∧ w'.regs.y = []
          ∧ w'.depth = w.rgn.ckpt.depth ∧ w'.stack = w.rgn.ckpt.stack ∧ w'.nmode = w.rgn.ckpt.nmode ∧ w'.rgn.serial = true ∧ w'.rgn.replay = !w.rgn.led ∧ t.mem = s.mem ∧ t.units = s.units
          ∧ (∀ k j, j < 32 → vAt w' k j = if w.rgn.liveV k then vAt w k j else 0) ∧ ∀ k j, j < 32 → oAt w' k j = if w.rgn.liveO k then oAt w k j else 0))
    ∧ ((s.wave n).loads.find? (fun q => q.id == l.id && !q.acq) = some l →
      (l.reqs ≠ [] → exec (.loadWriteback n l.id) s = .next s)
      ∧ (l.reqs = [] → Does s (.loadWriteback n l.id) fun t => (t.wave n).ldc = (s.wave n).ldc - 1 ∧ (t.wave n).loads = (s.wave n).loads.filter (fun q => q.id != l.id) ∧ (t.wave n).pc = (s.wave n).pc ∧ t.mem = s.mem
          ∧ (l.scalar = true → l.got = [x] → 256 ≤ l.dst → sAt (t.wave n) (l.dst - 256) = x.value ∧ sBad (t.wave n) (l.dst - 256) = x.poison ∧ (t.wave n).regs = { (s.wave n).regs with s := (t.wave n).regs.s })
          ∧ (l.scalar = false → l.got = [x] → x.lane < 32 → l.dst + 1 < 240 → (t.wave n).regs = { (s.wave n).regs with v := (t.wave n).regs.v } ∧ vBad (t.wave n) l.dst x.lane = x.poison
            ∧ ∀ k j, j < 32 → vAt (t.wave n) k j = if k = l.dst ∧ j = x.lane then x.value.setWidth 32 else if l.size = 8 ∧ k = l.dst + 1 ∧ j = x.lane then (x.value >>> 32).setWidth 32 else vAt (s.wave n) k j)))
    ∧ (Does s (.resultWriteback n) fun t => t.wave n = { s.wave n with busy := (s.wave n).busy.drop 1 } ∧ t.mem = s.mem ∧ ∀ id, id ≠ n → t.wave id = s.wave id)

/-- R91, R109, R111, R115 and R116: a drained line is written at its home and owes its acknowledgement; an acknowledgement leaves the list; the changes of an identity's entry reach a die in their order; a purge frees the records of its identity from its first interval up, but for the writer records that stay, and waits for a rewrite of the identity; a rewrite names every record of a moved identity anew, and frees those that no access can trap on (R79). -/
def Obligations.DrainsAndRecords : Prop :=
  ∀ (s : State) (n : Nat) (d : Drain) (e : SBEntry) (c : StatusChange) (p : Purge) (y : Nat),
    let Moved := fun (r : Rec) => if r.slot = y ∧ (s.own y).fv = true ∧ (s.own y).flo ≤ r.interval ∧ r.interval ≤ (s.own y).fhi then { r with slot := (s.own y).fwd } else r
    (s.drains[n]? = some d → isFabric d.base = false → (s.takeLine d.ident d.unit d.base).2 = [e] → e.base = d.base → e.sp = .mem → mwf none e.data = true → (∀ q ∈ e.data, q.1 < 64) → Does s (.lineDrain n) fun t =>
        t.drains = dropNth s.drains n ∧ t.acks = s.acks ++ [d] ∧ (∀ a, readB t.mem a = (e.byte .mem a).getD (readB s.mem a)) ∧ (t.takeLine d.ident d.unit d.base).2 = [])
    ∧ (Does s (.drainAcknowledge n) fun t => t.acks = dropNth s.acks n ∧ t.mem = s.mem ∧ t.waves = s.waves ∧ t.units = s.units ∧ t.ids = s.ids)
    ∧ (s.changes[n]? = some c →
      ((∃ x ∈ s.changes.take n, x.ident = c.ident ∧ x.die = c.die) → exec (.slotStatusChange n) s = .next s)
      ∧ ((∀ x ∈ s.changes.take n, ¬(x.ident = c.ident ∧ x.die = c.die)) → Does s (.slotStatusChange n) fun t =>
          t.entry c.die c.ident = c.entry ∧ t.changes = dropNth s.changes n ∧ t.mem = s.mem ∧ ∀ d k, d + 1 ≤ 4 → k < 16384 → c.ident < 16384 → (d ≠ c.die ∨ k ≠ c.ident) → t.entry d k = s.entry d k))
    ∧ (s.purges[n]? = some p → p.ident ∈ s.rewrites → exec (.recordPurge n) s = .next s)
    ∧ (s.purges[n]? = some p → p.ident ∉ s.rewrites → mwf {} s.recs = true → Does s (.recordPurge n) fun t => t.purges = dropNth s.purges n ∧ t.mem = s.mem
        ∧ (∀ g r, (mget {} t.recs g).wr = some r → (mget {} s.recs g).wr = some r ∧ ¬(r.slot = p.ident ∧ p.lo ≤ r.interval ∧ g ∉ p.keep))
        ∧ (∀ g r, (mget {} t.recs g).rd = some r → (mget {} s.recs g).rd = some r ∧ ¬(r.slot = p.ident ∧ p.lo ≤ r.interval)))
    ∧ (y ∈ s.rewrites → Does s (.recordRewriteComplete y) fun t => y ∉ t.rewrites ∧ t.mem = s.mem ∧ (∀ d, d < 4 → (t.entry d y).fv = false ∧ (t.entry d y).cur = (s.entry d y).cur)
        ∧ (mwf {} s.recs = true → (∀ g r, (mget {} t.recs g).wr = some r → (mget {} s.recs g).wr.map Moved = some r) ∧ (∀ g r, (mget {} t.recs g).rd = some r → (mget {} s.recs g).rd.map Moved = some r)
          ∧ ∀ g r, let e := s.entry (granDie g) (s.own y).fwd
            ((mget {} s.recs g).wr = some r → e.pubf ≤ r.interval → (mget {} t.recs g).wr = some (Moved r)) ∧ ((mget {} s.recs g).rd = some r → e.v = true → r.interval = e.cur → (mget {} t.recs g).rd = some (Moved r))))
    ∧ (y ∉ s.rewrites → exec (.recordRewriteComplete y) s = .next s)

/-! ## Translation and firmware (R19 to R50) -/

/-- R19, R25, R34, R35, R38 to R41, R49 to R51 and R129: a walk that finds the page enters it in the core's TLB, and the wave goes on; at an address without a reservation it is a fault; a missing page of device memory takes a frame of the pool. A miss of the handler itself is PAGE (R51); that a walk of slot + 16,384 is one, and that its address is a free value, is the model's choice (log 108). A command's miss does the same for its engine. A sweep drops the range's translations of a core; with the last acknowledgement the range's frames are zero and back in the pool. -/
def Obligations.TranslationEvents : Prop :=
  ∀ (s : State) (id c k page a : Nat) (r : WalkReq) (g : Page) (rv : Resv) (x : Cmd) (p : Part) (v : Nat) (sw : Sweep),
    let w := s.wave id
    let f := s.vf w.vf
    let miss := sortCodes (((r.addrs.filter (fun a => r.lanes == 0 || r.lanes.getLsbD a.1)).map (fun a => a.2.toNat)).map f.namedPage)
    let s' := s.fillWalk (coreOf id) w.vf page
    let GoesOn := fun (t : State) => t.wave id = { w with walk := none, st := .ready }
    (id < 16384 → w.walk = some r → w.st ≠ .sleeping → miss = [page] →
      (s'.coreWalk (coreOf id) w.vf page = some g → Does s (.translationWalk id) fun t => GoesOn t ∧ g ∈ (t.core (coreOf id)).tlb ∧ t.mem = s.mem)
      ∧ (s'.coreWalk (coreOf id) w.vf page = none → f.resvAt page = none → exec (.translationWalk id) s = .next ((s'.bump w.vf (s'.dieOf id) 5 0 1).raise id { cause := 0x06, lanes := r.lanesOn f [page], addr := r.lowOn f [page] }))
      ∧ (s'.coreWalk (coreOf id) w.vf page = none → f.resvAt page = some rv → pageOf page rv.psize = page → f.requestFor page = none → (∀ y ∈ f.resident, y.1 ≠ page) → rv.kind = 0 → f.poolFrame false rv.psize = some a →
          Does s (.translationWalk id) fun t => GoesOn t ∧ (page, rv.psize, a) ∈ (t.vf w.vf).resident ∧ ∀ y ∈ (t.vf w.vf).pool, y.1 ≠ a)
      ∧ (s'.coreWalk (coreOf id) w.vf page = none → exec (.translationWalk (id + 16384)) s = .next ((s'.tick).raise id { cause := 0x05, lanes := r.lanes, addr := Config.freeWord (2 ^ 251 + s.fresh) })))
    ∧ (s.cmd c k = some x → x.phase = 0 → x.wait = none → x.parts.find? Part.isOpen = some p →
      let u := s.fillWalk c x.vf p.va
      (u.coreWalk c x.vf p.va = some g → Does s (.engineTranslationMiss c k) fun t => g ∈ (t.core c).tlb ∧ t.cmd c k = some x ∧ t.mem = s.mem ∧ t.waves = s.waves)
      ∧ (u.coreWalk c x.vf p.va = none → (s.vf x.vf).resvAt p.va = none → Does s (.engineTranslationMiss c k) fun t => t.cmd c k = some (x.fail ((s.vf x.vf).toPageEnd p.va) 6) ∧ t.mem = s.mem))
    ∧ ((s.core c).vf = some v → (s.vf v).sweeps.find? (fun w => w.todo.contains c) = some sw → (∀ j, j < 64 → (s.wave (64 * c + j)).stage1 = []) → Does s (.invalidationSweep c) fun t =>
        (∀ q ∈ (t.core c).tlb, ¬(q.vf = v ∧ overlap q.base q.size sw.base sw.len = true)) ∧ { sw with todo := sw.todo.filter (· != c) } ∈ (t.vf v).sweeps)
    ∧ ((s.vf v).sweeps = [sw] → c ∈ sw.unacked → c ∉ sw.todo → s.sweepBusy c sw = false →
      ((∃ j ∈ sw.unacked, j ≠ c) → Does s (.sweepAcknowledge v c) fun t => (t.vf v).sweeps = [{ sw with unacked := sw.unacked.filter (· != c) }] ∧ t.mem = s.mem)
      ∧ ((∀ j ∈ sw.unacked, j = c) → sw.free = true → sw.req = none → sw.window = none → Does s (.sweepAcknowledge v c) fun t => (t.vf v).sweeps = []
          ∧ ∀ q ∈ sw.frames, isFabric q.1 = false → q ∈ (t.vf v).pool ∧ ∀ a, q.1 ≤ a → a < q.1 + pageBytes q.2 → readB t.mem a = 0))

/-- R28 to R33, R36 and R451: firmware answers the oldest request of a function: what fails validation gets its status and detail; RESERVE records the reservation; POPULATE records it and answers when every page is resident; UNMAP removes the reservation and its pages and sweeps the range; PROTECT gives new permissions, with a sweep where one is taken away. -/
def Obligations.ServiceEvents : Prop :=
  ∀ (s : State) (v id : Nat) (q : SvcReq) (rest : List SvcReq) (r : Resv),
    let f := s.vf v
    let b := s.readBlock q.pa
    let at_ := q.pa / 64 * 64 + 0x30
    let Answers := fun (st dt : Nat) (t : State) => (∀ k, k < 8 → readB t.mem (at_ + k) = (toBytes st 4 ++ toBytes dt 4).getD k 0) ∧ (∀ x ∈ (t.vf v).svcq, x.ident ≠ q.ident)
      ∧ (t.wave id).svcreq = none ∧ Advances 8 (s.wave id) (t.wave id) ∧ RegsSame (s.wave id) (t.wave id)
    let removes := ([0, 1, 2] : List Nat).any fun k => r.perm.testBit k && !b.perm.testBit k
    let Sweeps := fun (free : Bool) (t : State) => ∃ w ∈ (t.vf v).sweeps, w.base = b.vbase ∧ w.len = b.length ∧ w.req = some q ∧ w.free = free ∧ w.todo = s.vfCores v ∧ w.unacked = s.vfCores v
    f.svcq = q :: rest → f.idle = true → isFabric q.pa = false → s.askerOf q = some id → (s.wave id).mode = .normal → (s.wave id).st = .waiting →
    (∀ st dt, q.begun = false → s.validate v q b = some (st, dt) → 
      (q.code = 0x40 → Does s (.reserve v) fun t => Answers st dt t ∧ (t.vf v).resvs = f.resvs) ∧ (q.code = 0x41 → Does s (.populate v) fun t => Answers st dt t ∧ (t.vf v).resvs = f.resvs)
      ∧ (q.code = 0x42 → Does s (.unmap v) fun t => Answers st dt t ∧ (t.vf v).resvs = f.resvs) ∧ (q.code = 0x43 → Does s (.protect v) fun t => Answers st dt t ∧ (t.vf v).resvs = f.resvs))
    ∧ (q.begun = false → s.validate v q b = none →
      let new : Resv := ⟨b.vbase, b.length, b.kind, b.psize, b.perm, b.attr, b.window, b.woffset⟩
      (q.code = 0x40 → Does s (.reserve v) fun t => Answers 0 0 t ∧ (t.vf v).resvs = f.resvs ++ [new])
      ∧ (q.code = 0x41 → Does s (.populate v) fun t => new ∈ (t.vf v).resvs)
      ∧ (q.code = 0x42 → s.vfCores v ≠ [] → Does s (.unmap v) fun t => (∀ x ∈ (t.vf v).resvs, x.base ≠ b.vbase) ∧ (∀ x ∈ (t.vf v).resident, ¬(b.vbase ≤ x.1 ∧ x.1 < b.vbase + b.length)) ∧ Sweeps true t)
      ∧ (q.code = 0x43 → f.resvs = [r] → r.base = b.vbase →
        (removes = false → Does s (.protect v) fun t => Answers 0 0 t ∧ (t.vf v).resvs = [{ r with perm := b.perm }])
        ∧ (removes = true → s.vfCores v ≠ [] → Does s (.protect v) fun t => (t.vf v).resvs = [{ r with perm := b.perm }] ∧ Sweeps false t)))
    ∧ (q.begun = true → q.code = 0x41 → f.resvAt q.vbase = some r → (∀ p ∈ r.pages, ∃ y ∈ f.resident, y.1 = p) → Does s (.populate v) (Answers 0 0))

/-- R41, R42, R45 to R48: an answer with success maps the page of a HOSTDATA request and puts the frames of another into the pool, zeroed; with failure, or when its time is over, the entry's frame returns to the pool; each way the entry is free, its generation one further. A frame in quarantine returns with a stale answer for its entry or when its time is over. -/
def Obligations.PageRequests : Prop :=
  ∀ (s : State) (v k a id st : Nat) (rv : Resv),
    let f := s.vf v
    let e := mget {} f.preqs k
    let tag := e.gen * 256 + k
    let Freed := fun (t : State) => let e' := mget {} (t.vf v).preqs k
      e'.live = false ∧ e'.gen = (e.gen + 1) % 256 ∧ e'.joined = [] ∧ e'.cmds = []
    let due := fun (x : Quar) => x.tag % 256 = k ∧ x.since + s.pageTimeout v ≤ s.cycle
    (k < 256 → e.gen < 256 → e.live = true →
      (e.hostdata = true → f.resvAt e.vpage = some rv → Does s (.pageRequestAnswer v tag 0 []) fun t => Freed t ∧ (e.vpage, e.psize, e.frame) ∈ (t.vf v).resident)
      ∧ (e.hostdata = false → s.goodFrame v e a = true → Does s (.pageRequestAnswer v tag 0 [a]) fun t => Freed t ∧ (a, e.psize) ∈ (t.vf v).pool ∧ ∀ p, a ≤ p → p < a + pageBytes e.psize → readB t.mem p = 0)
      ∧ (e.hostdata = false → s.goodFrame v e a = false → Does s (.pageRequestAnswer v tag 0 [a]) fun t => Freed t ∧ (t.vf v).pool = f.pool ∧ t.reserve = s.reserve ∧ t.mem = s.mem)
      ∧ (e.joined = [id] → e.hostdata = false → mwf {} f.preqs = true → (∀ x ∈ f.preqs, x.1 ≠ k → x.2.live = true → id ∉ x.2.joined) → (s.wave id).st = .sleeping →
          Does s (.pageRequestAnswer v tag 0 []) fun t => Freed t ∧ t.wave id = { s.wave id with st := .ready, walk := none })
      ∧ (e.joined = [] → e.cmds = [] →
        Does s (.pageRequestAnswer v tag 1 []) (fun t => Freed t ∧ (e.hostdata = true → (e.frame, e.psize) ∈ (t.vf v).pool))
        ∧ (e.posted + s.pageTimeout v ≤ s.cycle → Does s (.pageRequestTimeout v k) fun t => Freed t ∧ (e.hostdata = true → (e.frame, e.psize) ∈ (t.vf v).pool)))
      ∧ (s.cycle < e.posted + s.pageTimeout v → exec (.pageRequestTimeout v k) s = .next s))
    ∧ (k < 256 → e.live = false → Does s (.pageRequestAnswer v tag st []) fun t => t.waves = s.waves ∧ (∀ x ∈ (t.vf v).quar, x.tag % 256 ≠ k) ∧ (∀ x ∈ f.quar, x.tag % 256 ≠ k → x ∈ (t.vf v).quar)
        ∧ ∀ x ∈ f.quar, x.tag % 256 = k → x.reset = false → (x.frame, x.psize) ∈ (t.vf v).pool)
    ∧ (Does s (.quarantineRelease v k) fun t => (∀ x ∈ (t.vf v).quar, ¬due x) ∧ (∀ x ∈ f.quar, ¬due x → x ∈ (t.vf v).quar) ∧ ∀ x ∈ f.quar, due x → x.reset = false →
        (x.frame, x.psize) ∈ (t.vf v).pool ∧ ∀ p, x.frame ≤ p → p < x.frame + pageBytes x.psize → readB t.mem p = 0)

/-! ## Engines, scheduling and launches: their events -/

/-- R71, R75, R127 to R132, R214, R215, R338, R340, R346, R348, R353, R356, R358 to R363 and R366: an issued command starts when no earlier command's locks keep it back; a transfer writes its bytes at their homes and counts them against its handle; a tile task reads its scales when it starts and folds its product into its tile when it ends; an epilogue writes its rows, and clears the tile where it says so; whatever ends leaves its table and its counter falls. A bank request is granted with zeroed banks when there are enough. A collective that does not come together within one second ends in error. That all bytes of a transfer move in one step, COPY_COMPLETE, is the model's choice (log 56), and so are the free values of when the first and the last member join and whether their descriptors agree (log 117) and which free banks are granted, the lowest ones (log 62). -/
def Obligations.EngineEvents : Prop :=
  ∀ (s : State) (c k u n id : Nat) (x : Cmd) (r : UnitR) (as : List Acc) (bs : List Byte) (rest : List (Nat × Nat × Nat)),
    let C := s.core c
    let w := s.wave x.ident
    let H := State.handle r x.handle
    let p := r.tileOf (x.args.getD 0 0)
    let Clear := fun (reads writes : List Acc) => s.recs = [] ∧ s.claimReady (s.planClaims r x reads writes) = true ∧ ∀ d, (s.entry d x.ident).fv = false
    let Away := fun (t : State) => t.cmd c k = none ∧ (∀ e ∈ (t.core c).locks, ∀ l, e.2 = some l → l.owner ≠ k)
      ∧ (w.st ≠ .empty → w.unit = x.unit → (t.wave x.ident).cpc = (if k < 128 then w.cpc - 1 else w.cpc) ∧ (t.wave x.ident).ttc = (if k < 128 then w.ttc else w.ttc - 1))
    let last := fun (ws : List (Acc × Byte)) (mem : Bool) (a : Nat) => ((ws.filter fun y => (y.1.sp == .mem) == mem && y.1.pa == a).getLast?).map (·.2)
    let Lands := fun (ws : List (Acc × Byte)) (t : State) => ∀ a, readB t.mem a = (last ws true a).getD (readB s.mem a) ∧ t.homeByte (.spad c) a = (last ws false a).getD (s.homeByte (.spad c) a)
    let local_ := fun (ws : List (Acc × Byte)) => ∀ y ∈ ws, y.1.sp = .mem → isFabric y.1.pa = false
    s.cmd c k = some x → s.unit x.unit = some r →
    (x.phase = 1 → x.kind ≠ .tile → C.blocked k = false → C.heldBack k x = false → x.remoteLines = [] → Does s (.commandStart c k) fun t =>
        t.cmd c k = some (x.started s.cycle s.fresh x.err) ∧ (x.kind ≠ .coll → t.cmd c k = some { x with phase := 2, since := s.cycle }) ∧ t.mem = s.mem ∧ t.waves = s.waves)
    ∧ (x.phase ≠ 1 ∨ C.blocked k = true ∨ C.heldBack k x = true → exec (.commandStart c k) s = .next s)
    ∧ (let pl := if x.kind = .copy then s.copyPlan c r x else s.collPlan x
      let m := pl.writes.length
      x.kind = .copy ∨ (x.kind = .coll ∧ x.joined s.cycle = true ∧ x.odd = false) → x.phase = 2 → x.err = 0 → s.cmdWaits c k = false → pl.stop = none → H.st = .filling → m ≤ H.pend → m ≠ 0 → local_ pl.writes → Clear pl.reads (pl.writes.map (·.1)) →
      Does s (.copyComplete c k) fun t => Away t ∧ Lands pl.writes t
        ∧ ∃ r', t.unit x.unit = some r' ∧ State.handle r' x.handle = { H with pend := H.pend - m, ncmd := H.ncmd - 1, bovr := H.bovr || pl.bovr, st := if H.pend ≤ m then .full else .filling })
    ∧ (x.kind = .copy ∨ x.kind = .coll → x.phase = 3 → s.cmdWaits c k = false → Does s (.copyComplete c k) fun t => Away t ∧ t.mem = s.mem)
    ∧ (x.kind = .coll → x.phase = 2 → x.joined s.cycle = false → exec (.copyComplete c k) s = .next s)
    ∧ (x.kind = .coll → x.phase = 2 → x.joined s.cycle = true → x.odd = true → x.err = 0 → s.cmdWaits c k = false → H.st = .filling → Does s (.copyComplete c k) fun t => Away t ∧ t.mem = s.mem
        ∧ ∃ r', t.unit x.unit = some r' ∧ State.handle r' x.handle = { H with ncmd := H.ncmd - 1, err := true, st := .full })
    ∧ (x.kind = .coll → x.phase = 2 → x.first + 1400000000 ≤ s.cycle → x.first + 1400000000 < x.join → H.st = .filling → Does s (.collectiveTimeout c k) fun t => Away t ∧ t.mem = s.mem
        ∧ ∃ r', t.unit x.unit = some r' ∧ State.handle r' x.handle = { H with ncmd := H.ncmd - 1, err := true, st := .full })
    ∧ (s.cycle < x.first + 1400000000 ∨ x.join ≤ x.first + 1400000000 → exec (.collectiveTimeout c k) s = .next s)
    ∧ (x.kind = .tile → x.phase = 1 → C.blocked k = false → C.heldBack k x = false → gateOpen r x = true → C.running < 4 → s.cmdWaits c k = false → x.gate = none → (∀ q ∈ partLines x.parts, mget none x.lines (q / 64) ≠ none)
        → x.scalePlaces c r = .ok as → Clear as [] → s.cmdBytes x as = .ok bs → Does s (.tileTaskStart c k) fun t => t.cmd c k = some { x with phase := 2, scales := bs, since := s.cycle } ∧ t.mem = s.mem)
    ∧ (x.kind = .tile → (C.blocked k = true ∨ C.heldBack k x = true ∨ gateOpen r x = false ∨ 4 ≤ C.running) → exec (.tileTaskStart c k) s = .next s)
    ∧ (x.kind = .tile → x.phase = 2 → 128 ≤ k → Clear (x.tileReads c r) [] → (∀ a ∈ x.tileReads c r, s.poisoned a.sp a.pa 4 = false) → C.tilePoison p = none → Does s (.tileTaskComplete c k) fun t =>
        let y := s.tileProduct c r x p
        Away t ∧ t.mem = s.mem ∧ ∀ q, mget 0 (t.core c).acc q = if q / 4096 = p then y.1.getD (q % 4096) 0 else mget 0 C.acc q)
    ∧ (let pl := s.edPlan c r x p
      x.kind = .aep → x.phase = 2 → 128 ≤ k → s.cmdWaits c k = false → C.tilePoison p = none → pl.stop = none → local_ pl.writes → Clear [] (pl.writes.map (·.1)) →
      Does s (.aepComplete c k) fun t => Away t ∧ Lands pl.writes t ∧ ∀ q, mget 0 (t.core c).acc q = if edClear x.desc = true ∧ q / 4096 = p then 0 else mget 0 C.acc q)
    ∧ (C.accQ = (u, n, id) :: rest → 0 < n →
      (C.bankFree.length < n → exec (.aallocGrant c) s = .next s)
      ∧ (∀ r, n ≤ C.bankFree.length → s.unit u = some r → Does s (.aallocGrant c) fun t => let bs := C.bankFree.take n
          (t.core c).accQ = rest ∧ t.unit u = some { r with acc := some bs, accReq := none } ∧ t.mem = s.mem ∧ RegsSame (s.wave id) (t.wave id) ∧ Advances (if (s.wave id).engi = 12 then 12 else 8) (s.wave id) (t.wave id)
          ∧ (∀ b, mget none (t.core c).banks b = if b ∈ bs then some (u % 16) else mget none C.banks b) ∧ ∀ q, mget 0 (t.core c).acc q = if q / 32768 ∈ bs then 0 else mget 0 C.acc q))

/-- R161, R162, R169, R173, R177, R198, R258, R324, R393, R429 and R430: parks and yields end; a wave passed over too long issues first (its issue is put at the head of the agenda, which is the model's order, log 4); a barrier of a unit is released when every live wave has arrived, and each waiting wave goes on behind its bar; a pre-emption stays pending, or puts every wave of the unit into save mode at the routine; a record that waited enters the event queue; a kill ends its unit. -/
def Obligations.SchedulingEvents : Prop :=
  ∀ (s : State) (id u c k t₀ cause : Nat) (lanes : W32) (detail addr : W64) (r : UnitR) (e : EvRec) (es : List EvRec),
    let w := s.wave id
    let f := s.vf r.vf
    let Released := fun (lvl : BarLvl) (t : State) => ∀ y ∈ s.liveSlots u r, (s.wave y).st = .waiting → (s.wave y).wait = .bar lvl → Advances 8 (s.wave y) (t.wave y) ∧ RegsSame (s.wave y) (t.wave y)
    let fits := s.liveSlots u r
    (w.st = .parked → w.parkEnd ≤ s.cycle → exec (.parkExpiry id) s = .next (s.setWave id { w with st := .ready }))
    ∧ (w.st ≠ .parked ∨ s.cycle < w.parkEnd → exec (.parkExpiry id) s = .next s)
    ∧ (w.yielded = some t₀ → t₀ + 64 ≤ s.cycle → exec (.yieldExpiry id) s = .next (s.setWave id { w with yielded := none }))
    ∧ (w.yielded = some t₀ → s.cycle < t₀ + 64 → exec (.yieldExpiry id) s = .next s)
    ∧ (w.st = .ready → w.halt = false → w.lastIssue + 4096 ≤ s.cycle → Does s (.starvationPromotion id) fun t => t.agenda = .issue id :: s.agenda ∧ t.waves = s.waves ∧ t.mem = s.mem)
    ∧ (w.st ≠ .ready ∨ w.halt = true ∨ s.cycle < w.lastIssue + 4096 → exec (.starvationPromotion id) s = .next s)
    ∧ (s.unit u = some r → r.bar.sent = false → 2 ≤ r.bar.level → s.allArrived u r = true → exec (.barrierArrivalUp u) s = .next (s.setUnit u (some { r with bar := { r.bar with sent := true } })))
    ∧ (s.unit u = some r → r.bar.level = 1 → r.area = none → s.allArrived u r = true → Does s (.barrierRelease u) fun t => Released .u t ∧ t.unit u = some { r with bar := { gen := !r.bar.gen } } ∧ t.mem = s.mem)
    ∧ (s.unit u = some r → r.bar.level = 1 → s.allArrived u r = false → exec (.barrierRelease u) s = .next s)
    ∧ (s.unit u = some r → r.bar.level = 2 → r.area = none → mwf none s.units = true → s.dieComplete r.task.launch (dieOfCore (u / 16)) 2 = true → Does s (.barrierRelease u) fun t => Released .d t ∧ t.mem = s.mem)
    ∧ (s.unit u = some r → r.area = none →
      (f.ctxsv.getLsbD 0 = false → Does s (.preemptionRequest u) fun t => t.unit u = some { r with preReq := true, preDef := if r.moving then r.preDef else fits.any fun y => (s.wave y).deferred } ∧ t.mem = s.mem
          ∧ ∀ y, t.wave y = if y ∈ fits ∧ (s.wave y).st = .parked then { s.wave y with st := .ready } else s.wave y)
      ∧ (r.moving = false → f.ctxsv.getLsbD 0 = true → f.ctxrs.getLsbD 0 = true → f.freeArea = some k → (∀ y ∈ fits, (s.wave y).deferred = false) → Does s (.preemptionRequest u) fun t =>
          (∃ r', t.unit u = some r' ∧ r'.area = some k ∧ r'.preReq = false) ∧ t.mem = s.mem
          ∧ ∀ y ∈ fits, (t.wave y).mode = .save ∧ (t.wave y).level = 1 ∧ (t.wave y).pc = routine f.ctxsv ∧ (t.wave y).st = .ready ∧ (t.wave y).regs.exec = 0xFFFFFFFF ∧ (t.wave y).depth = 0))
    ∧ ((s.core c).evWait = e :: es → (s.core c).evq.length < 256 → Does s (.eventRecordDeliver c) fun t => (t.core c).evq = (s.core c).evq ++ [e] ∧ (t.core c).evWait = es ∧ t.mem = s.mem ∧ t.waves = s.waves)
    ∧ (w.st = .empty → exec (.unitKill id cause lanes detail addr) s = .next s)
    ∧ (w.st ≠ .empty → isCtl id = false → s.unit w.unit = some r → Does s (.unitKill id cause lanes detail addr) fun t => t.unit w.unit = none ∧ (id ∈ r.slots → (t.wave id).st = .empty ∧ t.wave id = w.left))

/-- R158, R178, R182 to R186 and R189: a doorbell writes TAIL, and an overrun stops the queue; a record that passes its checks becomes a launch, with its counter at the number of its units and those waiting to be placed, and one that does not stops the queue with its cause; a waiting unit is placed on the core that is chosen for it, its waves ready at its entry; STATE 1 lets a queue run again, and its ERRCODE stays (log 133). A queue base outside every range of R15 stops the machine, since no such address exists (log 14). -/
def Obligations.LaunchEvents : Prop :=
  ∀ (s : State) (q tail v c i id : Nat) (k : Task) (l : Launch) (f : Fit),
    let stopped := fun (t : State) (code : Nat) => t.hwN (qBlock q + 0x0B) 1 = 2 ∧ t.hwN (qBlock q + 0x0C) 4 = code
    let ahead := (tail % 2 ^ 32 + 2 ^ 32 - s.qHead q) % 2 ^ 32
    let fn := s.hwN (qBlock q + 9) 1 % 64
    let a := s.hwN (qBlock q) 8 + 256 * (s.qHead q % 2 ^ s.qLog q)
    let d := readBytes s.mem a 256
    let units := ((List.range (fld d 1 1)).map fun i => (recStage d i).units).foldl (· + ·) 0
    let ready := q < 8192 ∧ s.qRunning q = true ∧ s.qAhead q ≠ 0 ∧ s.qAhead q ≤ 2 ^ s.qLog q ∧ (s.vf fn).resetting = false
    let st := s.stageOf k
    let child := k.child.isSome
    let u := 16 * c + f.idx
    (q < 8192 → (s.vf fn).resetting = true → exec (.tailDoorbell q tail) s = .next s)
    ∧ (q < 8192 → (s.vf fn).resetting = false → Does s (.tailDoorbell q tail) fun t => t.qTail q = tail % 2 ^ 32 ∧ t.mem = s.mem ∧ t.qHead q = s.qHead q
        ∧ (s.qRunning q = true → 2 ^ s.qLog q < ahead → stopped t 7) ∧ (s.qRunning q = false ∨ ahead ≤ 2 ^ s.qLog q → t.qRunning q = s.qRunning q))
    ∧ (q < 8192 → Does s (.queueRestart q) fun t => t.qRunning q = true ∧ t.qTail q = s.qTail q ∧ t.qHead q = s.qHead q ∧ t.mem = s.mem)
    ∧ (ready → isHole a = true → exec (.launchRecordTake q) s = .fault .physicalHole)
    ∧ (ready → isLocal a = true ∨ isTier2 a = true → s.recordError fn d = 0 → Does s (.launchRecordTake q) fun t =>
        t.qHead q = (s.qHead q + 1) % 2 ^ 32 ∧ t.pend.length = s.pend.length + units ∧ (∀ x ∈ s.pend, x ∈ t.pend) ∧ t.mem = s.mem
        ∧ ∃ x, t.launch s.fresh = some x ∧ x.vf = fn ∧ x.kind = fld d 0 1 ∧ x.arg = BitVec.ofNat 64 (fld d 8 8) ∧ x.launchid = BitVec.ofNat 32 (fld d 0x18 4) ∧ x.cnt.done = false ∧ x.cnt.cancelled = false
          ∧ x.cnt.count = units + (if fld d 0x28 8 = 0 then 0 else 1))
    ∧ (ready → isLocal a = true ∨ isTier2 a = true → s.recordError fn d ≠ 0 → Does s (.launchRecordTake q) fun t => stopped t (s.recordError fn d) ∧ t.qHead q = (s.qHead q + 1) % 2 ^ 32 ∧ t.launches = s.launches ∧ t.pend = s.pend)
    ∧ ((s.vf v).resetting = true → exec (.unitPlacement v) s = .next s)
    ∧ ((s.vf v).resetting = false → s.waiting v = [.task k] → s.launch k.launch = some l → (l.whole = false ∨ l.placed = true) → s.ctlReady l = true
        → s.chooseCore l.vf k.launch k.stage st.heat (if child then 1 else st.w) k.budget (if child then 0 else st.spad) (if child then 0 else st.accmax) false k.avoid = some (c, f) →
        Does s (.unitPlacement v) fun t => t.pend = s.pend.erase k ∧ t.mem = s.mem ∧ (∃ r, t.unit u = some r ∧ r.task = k ∧ r.slots = f.slots ∧ r.w = f.slots.length ∧ r.vf = l.vf)
          ∧ (f.slots.Nodup → f.slots[i]? = some id → id < 12288 → let w := t.wave id
            w.st = .ready ∧ w.widx = i ∧ w.unit = u ∧ w.launch = k.launch ∧ w.vf = l.vf ∧ w.pc = (match k.child with | some x => BitVec.ofNat 64 (x.1.toNat % 2 ^ 57) | none => st.entry)))

/-- R421 to R424 and R446 to R450: what the SPDM responder answers to each request, and what it refuses (the codes are those of DSP0274, presumed, log 39); power comes and goes, the image in module flash stays. -/
def Obligations.AttestationAndPower : Prop :=
  ∀ (s : State) (who : Endpoint) (asym hash : Bool) (offset length index code core : Nat) (nonce : List Byte),
    let x := s.spdmOf who
    let Dark := fun (t : State) => t.power = false ∧ t.mem = [] ∧ t.waves = [] ∧ t.units = [] ∧ t.launches = [] ∧ t.vfs = [] ∧ t.hw = [] ∧ t.image = s.image
    let picks := s.mlog.filter fun b => b.1 == index || index == 255
    (s.power = true → Does s (.getVersion who) (fun t => Responds s who 0x04 t ∧ (t.spdmOf who).version = true ∧ (t.spdmOf who).caps = false) ∧ Does s (.spdmUnsupportedRequest who code) (Responds s who 0x7F)
      ∧ Does s (.getCapabilities who) (fun t => if x.version then Responds s who 0x61 t ∧ (t.spdmOf who).caps = true else Responds s who 0x7F t)
      ∧ Does s (.negotiateAlgorithms who asym hash) (fun t => if x.caps then Responds s who 0x63 t ∧ (t.spdmOf who).algs = some (asym, hash) else Responds s who 0x7F t)
      ∧ Does s (.getDigests who) (Responds s who (if (x.algs.map (·.2)).getD false then 0x01 else 0x7F))
      ∧ Does s (.getCertificate who offset length) (Responds s who (if (x.algs.map (·.2)).getD false ∧ offset < chainLen then 0x02 else 0x7F))
      ∧ Does s (.challenge who nonce) (Responds s who (if x.algs = some (true, true) then 0x03 else 0x7F))
      ∧ Does s (.getMeasurements who index nonce) (Responds s who (if (x.algs.map fun a => (a.1 || nonce.isEmpty) && a.2).getD false ∧ (index = 0 ∨ picks ≠ []) then 0x60 else 0x7F)))
    ∧ (s.power = false → exec (.getVersion who) s = .next s ∧ exec (.challenge who nonce) s = .next s
      ∧ Does s .coldStart fun t => t.power = true ∧ t.hw = s.image ∧ t.image = s.image ∧ t.mem = [] ∧ t.waves = [] ∧ t.vfs = [] ∧ t.reserve = State.reset.reserve ∧ t.mlog = startLog s.image s.tier2Cxl)
    ∧ (s.power = true → exec .coldStart s = .next s)
    ∧ (s.power = true → Does s .configImageRewrite fun t => t.image = s.hw.filter (fun e => inImage e.1) ∧ t.hw = s.hw ∧ t.mem = s.mem)
    ∧ Does s .powerOff Dark ∧ Does s (.thermalShutdown .coolant) Dark
    ∧ (115 ≤ (s.core core).temp → Does s (.thermalShutdown (.sensor core)) Dark) ∧ ((s.core core).temp < 115 → exec (.thermalShutdown (.sensor core)) s = .next s)

/-! ## Heat, power, Graze, errors, registers and the fabric: their events -/

/-- R83, R111 and R190 to R193: a sample is the core's temperature, raises the vault's multiplier at once and throttles from 105 °C of the vault until below 103 °C; a multiplier falls when the temperature has stayed 2 °C below its threshold for 1 ms; a hot core's stopped unit goes to its target, and the two logical ids exchange their cores; a request that the end of a unit raised looks for its target. -/
def Obligations.HeatAndPower : Prop :=
  ∀ (s : State) (c v t u₀ id : Nat) (r₀ r : UnitR),
    let C := s.core c
    let V := s.vault v
    let T := s.vaultT v
    let p := s.stopForMove u₀
    let u₁ := 16 * t + u₀ % 16
    let late := s.setCore c { C with hotWait := false }
    (c < 192 → Does s (.sensorSample [(c, t)]) fun x =>
        (x.core c).temp = t ∧ (∀ k, k ≠ c → (x.core k).temp = (s.core k).temp) ∧ x.mem = s.mem ∧ x.hwN 0x1518 1 = min 255 ((List.range 192).foldl (fun a k => max a (x.core k).temp) 0)
        ∧ (v < 64 → (x.vault v).mult = max V.mult (if x.vaultT v < 85 then 0 else if x.vaultT v < 95 then 1 else 2))
        ∧ ∀ k, k < 192 → (105 ≤ x.vaultT (vaultOf k) → (x.core k).throttled = true) ∧ (x.vaultT (vaultOf k) < 103 → (x.core k).throttled = false))
    ∧ (v < 64 → Does s (.refreshMultiplierFall v) fun x => x.mem = s.mem ∧ (∀ k, k ≠ v → x.vault k = s.vault k)
        ∧ (V.mult = 2 → T ≤ 93 → V.hot4 + 1400000 ≤ s.cycle → 83 < T ∨ s.cycle < V.hot2 + 1400000 → x.vault v = { V with mult := 1 })
        ∧ (V.mult = 1 → T ≤ 83 → V.hot2 + 1400000 ≤ s.cycle → x.vault v = { V with mult := 0 })
        ∧ (V.mult = 2 → 93 < T ∨ s.cycle < V.hot4 + 1400000 → x.vault v = V) ∧ (V.mult = 1 → 83 < T ∨ s.cycle < V.hot2 + 1400000 → x.vault v = V))
    ∧ (C.hotWait = true → C.migReq = true → C.migTo = none → late.chooseTarget c = none → exec (.thermalMigration c) s = .next late)
    ∧ (C.hotWait = false ∨ C.migReq = false →
      (C.migTo = none → exec (.thermalMigration c) s = .next s)
      ∧ (C.migTo = some t → s.coreUnits c = [] → Does s (.thermalMigration c) fun x => x.core c = { C with migReq := false, migTo := none } ∧ x.lmap = s.lmap ∧ x.mem = s.mem ∧ x.waves = s.waves)
      ∧ (C.migTo = some t → s.coreUnits c = [(u₀, r₀)] → p.coreUnits c = [(u₀, r)] → p.unit u₀ = some r → p.cancelled r.task.launch = false → p.stoppedUnit u₀ r = true → p.routeOpen (p.straight t (u₀, r)) = true
        → u₀ / 16 = c → t ≠ c → s.logical c ≠ s.logical t → Does s (.thermalMigration c) fun x =>
        x.unit u₀ = none ∧ (∃ r', x.unit u₁ = some r' ∧ r'.task = r.task ∧ r'.moving = false) ∧ x.phys (s.logical c) = t ∧ x.phys (s.logical t) = c ∧ (x.core c).migTo = none ∧ x.mem = s.mem
        ∧ (p.liveSlots u₀ r = [id] → id / 64 = c → (x.wave (64 * t + id % 64)).pc = (p.wave id).pc ∧ (x.wave (64 * t + id % 64)).regs = (p.wave id).regs ∧ (x.wave (64 * t + id % 64)).unit = u₁ ∧ x.wave id = {})))

/-- R195 to R197: the Drover samples the occupancy of every queue each 1 µs; at the end of an interval it forms the scores and moves a core of the donor, when no unit is on it, to the gainer. -/
def Obligations.DroverMoves : Prop :=
  ∀ (s : State) (n lc gain don : Nat) (l : Launch),
    let taken := { l with lastDrover := s.cycle, queues := l.queues.map (fun x => { x with samples := [] }) }
    let due := l.lastDrover + 1400 * ((l.queues.headD {}).samples.length + 1)
    s.launch n = some l →
    (l.kind = 1 → l.placed = true → l.cnt.done = false →
      (due ≤ s.cycle → Does s (.droverSample n) fun x =>
          x.launch n = some { l with queues := l.queues.map (fun y => { y with samples := y.samples ++ [y.ring.length] }) } ∧ x.mem = s.mem ∧ x.waves = s.waves)
      ∧ (s.cycle < due → exec (.droverSample n) s = .next s)
      ∧ (l.move = none →
        (s.cycle < l.lastDrover + 1400 * l.drover → exec (.droverRebalance n) s = .next s)
        ∧ (l.lastDrover + 1400 * l.drover ≤ s.cycle →
          (l.pickMove = none → Does s (.droverRebalance n) fun x => x.launch n = some taken ∧ x.mem = s.mem ∧ x.waves = s.waves)
          ∧ (l.pickMove = some (gain, don) → s.pickDonor l don = some lc → (s.core (s.phys lc)).migTo = none → s.coreUnits (s.phys lc) = [] → Does s (.droverRebalance n) fun x =>
              x.launch n = some { taken with cores := l.cores.map (fun e => if e.1 = lc then (lc, gain) else e) } ∧ x.mem = s.mem ∧ x.waves = s.waves))))
    ∧ (l.kind ≠ 1 ∨ l.placed = false ∨ l.cnt.done = true → exec (.droverSample n) s = .next s ∧ exec (.droverRebalance n) s = .next s)

/-- R199 to R202: near-threshold mode is entered below 350 busy cycles of the last 1,400 and left above 700, and no change starts within the 700 cycles of the last one; a core without a READY wave for 14,000 cycles lends its allowance to a core of its function and die, and takes it back when one is READY or either core is throttled; a quarter's counter gains its refill for each cycle since it was last brought up to date, up to 4,096, with what is lent, and the boost for the cycles in which it is below the cost of its next candidate, a token for each. The refill at 3,600 W is a free value (log 34), which PWRLIM scales; it is counted in parts of a unit, 14,400 to the unit. Which of several cores is the busiest is the model's choice (log 135), and so is that the quarter counts its busy cycles itself, whatever number the event carries (log 71). -/
def Obligations.PowerModes : Prop :=
  ∀ (s : State) (c v t q busy : Nat),
    let C := s.core c
    let z := s.quarter c q
    let b := s.busyIn c q
    let f := s.fillTokens v
    let n := s.cycle - z.refill
    let k := Config.freeNat (2 ^ 40) * s.hwN 0x1500 2
    let lends := (s.hwN (0x1000 + 8 * v) 4).testBit 31
    let free := fun (b : Nat) => (s.core b).throttled = false
    let own := if C.throttled = false ∧ ∃ b, C.lendTo = some b ∧ free b then 0 else 1
    let share := own + if C.throttled = true then 0 else (s.cores.filter (fun y => y.2.lendTo == some c && !y.2.throttled)).length
    let lack := if 24 ≤ z.power then 0 else (((f.topCost c q : Int) - z.power) * 14400 - (z.part : Int)).toNat
    let boost := if C.throttled = true then 0 else min (shortCycles n lack (4 * share * k + k)) (f.vf v).tokens
    let got := z.part + 4 * n * share * k + boost * k
    let p := z.power + ((got / 14400 : Nat) : Int)
    (q < 4 → z.ntUntil ≤ s.cycle →
      (z.nt = false → b < 350 → Does s (.nearThresholdTransition c q busy) fun x => x.quarter c q = { z with nt := true, ntUntil := s.cycle + 700 } ∧ x.mem = s.mem)
      ∧ (z.nt = true → 700 < b → Does s (.nearThresholdTransition c q busy) fun x => x.quarter c q = { z with nt := false, ntUntil := s.cycle + 700 } ∧ x.mem = s.mem))
    ∧ (s.cycle < z.ntUntil ∨ (350 ≤ b ∧ b ≤ 700) → exec (.nearThresholdTransition c q busy) s = .next s)
    ∧ (C.vf = some v →
      (lends = true → C.lendTo = none → C.throttled = false → s.readyOn c = 0 → C.idleSince + 14000 ≤ s.cycle
        → (s.vfCores v).filter (fun k => k != c && dieOfCore k == dieOfCore c && !(s.core k).throttled && s.readyOn k != 0) = [t] → Does s (.lendingStart c) fun x => (x.core c).lendTo = some t ∧ (∀ k, k ≠ c → (x.core k).lendTo = (s.core k).lendTo) ∧ x.mem = s.mem)
      ∧ (lends = false ∨ C.throttled = true ∨ s.readyOn c ≠ 0 ∨ s.cycle < C.idleSince + 14000 → exec (.lendingStart c) s = .next s))
    ∧ (C.lendTo = some t →
      (s.readyOn c ≠ 0 ∨ C.throttled = true ∨ (s.core t).throttled = true → Does s (.lendingRecall c) fun x => (x.core c).lendTo = none ∧ (∀ k, k ≠ c → (x.core k).lendTo = (s.core k).lendTo) ∧ x.mem = s.mem)
      ∧ (s.readyOn c = 0 → C.throttled = false → (s.core t).throttled = false → exec (.lendingRecall c) s = .next s))
    ∧ (C.lendTo = none → exec (.lendingRecall c) s = .next s)
    ∧ (C.vf = some v → q < 4 → z.power < 4096 → z.refill < s.cycle → Does s (.powerAllowanceRefill c q) fun x =>
        x.quarter c q = { z with power := min 4096 p, part := if 4096 ≤ p then 0 else got % 14400, refill := s.cycle }
        ∧ (x.vf v).tokens = (f.vf v).tokens - boost ∧ x.mem = s.mem ∧ x.waves = s.waves)
    ∧ (4096 ≤ z.power ∨ s.cycle ≤ z.refill → exec (.powerAllowanceRefill c q) s = .next s)

/-- R370, R372, R373, R375, R377, R378, R384 and R385: firmware builds candidates, and installs GUARDED one that gives what the original gave on every sample, and at level 1 on the edge sets of the first 32 (its id, its code and what its cost model says are logs 74, 35 and 75; which candidates obey R372 is log 119, the edge values of narrow elements and counts log 136); a comparison that agrees counts toward promotion, one that does not culls the variant; one that is late is abandoned; the withdrawal record is posted once; GQREAD is written unless the count of the queue would leave its range. -/
def Obligations.GrazeEvents : Prop :=
  ∀ (s : State) (v k n e : Nat) (T : GTarget) (words : List W32) (code : Code) (info : RInfo) (d : GCand) (h : Hurdle) (f : Fold) (rs : Regs) (val : W64) (m : Nat × GLive × GLive × GLive),
    let g := (s.vf v).graze
    let run := fun (info : RInfo) (c : Code) => runLane info T.bud T.fmode T.nmode c
    let die := dieOfCore ((s.vfCores v).headD 0)
    let used := (s.vfs.map (fun x => (x.2.graze.paddock.filter (fun y => y.die == die)).length)).foldl (· + ·) 0
    let live := (g.folds.filter (fun y => y.st != .culled)).length
    let taken := g.folds.any (fun y => y.st != .culled && y.pc == T.pc && y.fmode == T.fmode && y.nmode == T.nmode)
    let b := 0x1000000 + 64 * v
    let lg := s.hwN (b + 9) 1
    let wr := s.hwN (b + 0x20) 8
    let slot := s.hwN (b + 0x10) 8 + 128 * (wr % 2 ^ lg)
    let owner := ((s.launch h.launch).map (·.vf)).getD 0
    let us := if f.units.contains (h.launch, h.stage, h.uidx) then f.units else f.units ++ [(h.launch, h.stage, h.uidx)]
    (g.targets[k]? = some T → s.region v T.bud T.pc = some info → decodeCode T.bud 64 0 words = some code →
      (T.ev = some e → used < 128 → g.next < 2 ^ 26 → candidateOk T.bud info code = true → Does s (.candidateBuild v k words) fun x =>
          (x.vf v).graze = { g with paddock := g.paddock ++ [⟨g.next, T.key, die, words⟩], next := g.next + 1 } ∧ x.mem = s.mem)
      ∧ (T.ev = none ∨ 128 ≤ used ∨ 2 ^ 26 ≤ g.next ∨ candidateOk T.bud info code = false → exec (.candidateBuild v k words) s = .next s))
    ∧ (g.paddock[n]? = some d → g.targets.find? (fun t => t.key == d.target) = none → Does s (.candidateTest v n) fun x => (x.vf v).graze = { g with paddock := g.paddock.eraseIdx n } ∧ x.mem = s.mem)
    ∧ (g.paddock[n]? = some d → g.targets.find? (fun t => t.key == d.target) = some T →
      (T.samples.length < 512 ∨ 64 ≤ live → exec (.candidateTest v n) s = .next s)
      ∧ (512 ≤ T.samples.length → live < 64 → s.region v T.bud T.pc = some info → decodeCode T.bud 64 0 d.code = some code →
        let agrees := (∀ x ∈ T.samples, run info code x.1 = some x.2)
          ∧ (T.ev = some 1 → ∀ x ∈ T.samples.take 32, ∀ y ∈ edgeSet info x.1, ∃ z, run info code y = some z ∧ run info info.code y = some z)
        (taken = false → agrees → Does s (.candidateTest v n) fun x =>
            (x.vf v).graze = { g with paddock := g.paddock.eraseIdx n, folds := g.folds ++ [{ seq := d.seq, pc := T.pc, fmode := T.fmode, nmode := T.nmode, code := d.code, bud := T.bud, size := info.close - T.pc, ev := T.ev.getD 1, st := .guarded }] } ∧ x.mem = s.mem)
        ∧ (taken = true ∨ ¬agrees → Does s (.candidateTest v n) fun x => (x.vf v).graze = { g with paddock := g.paddock.eraseIdx n } ∧ x.mem = s.mem)))
    ∧ (s.hurdles[n]? = some h →
      (h.closed = none ∨ s.shut h.core h.quarter = true ∨ (∃ c₀, h.closed = some c₀ ∧ c₀ + 4096 < s.cycle) → exec (.hurdleComparison n) s = .next s)
      ∧ (∀ c₀, h.closed = some c₀ → s.cycle ≤ c₀ + 4096 → s.shut h.core h.quarter = false → s.fold owner h.fold = some f → s.region owner f.bud f.pc = some info → f.run f.bud h.entry h.mask pureFuel = some rs →
        (mismatch info h.entry h.result rs h.mask = none → f.st = .guarded → h.level ≤ 1 →
          (f.agree + 1 < 4096 ∨ us.length < 4 → Does s (.hurdleComparison n) fun x => x.hurdles = s.hurdles.eraseIdx n ∧ x.fold owner h.fold = some { f with agree := f.agree + 1, units := us } ∧ x.mem = s.mem)
          ∧ (4096 ≤ f.agree + 1 → 4 ≤ us.length → Does s (.hurdleComparison n) fun x => x.hurdles = s.hurdles.eraseIdx n
              ∧ x.fold owner h.fold = some { f with agree := f.agree + 1, units := us, st := .promoted, first := s.elWrite owner, perCore := [], execs := 0 }))
        ∧ (mismatch info h.entry h.result rs h.mask = some m → f.st ≠ .culled → Does s (.hurdleComparison n) fun x => x.hurdles = s.hurdles.eraseIdx n ∧ (f.pc, f.fmode, f.nmode) ∈ (x.vf owner).graze.bars
            ∧ ∃ y, x.fold owner h.fold = some y ∧ y.st = .culled ∧ y.cause = (if f.st = .promoted then 0 else 1) ∧ x.mem = s.mem)
        ∧ (mismatch info h.entry h.result rs h.mask = none → f.st ≠ .guarded ∨ 2 ≤ h.level → Does s (.hurdleComparison n) fun x => x.hurdles = s.hurdles.eraseIdx n ∧ x.fold owner h.fold = some f ∧ x.mem = s.mem))
      ∧ (∀ c₀, h.closed = some c₀ → (c₀ + 4096 < s.cycle → Does s (.comparisonAbandon n) fun x => x.hurdles = s.hurdles.eraseIdx n ∧ x.vfs = s.vfs ∧ x.mem = s.mem)
          ∧ (s.cycle ≤ c₀ + 4096 → exec (.comparisonAbandon n) s = .next s)))
    ∧ (s.fold v k = some f →
      (f.st ≠ .culled ∨ f.posted = true → exec (.cullWithdrawalRecord v k) s = .next s)
      ∧ (f.st = .culled → f.posted = false → Does s (.cullWithdrawalRecord v k) fun x => x.fold v k = some { f with posted := true }
          ∧ (4 ≤ lg → lg ≤ 12 → s.hwN (b + 0x10) 8 ≠ 0 → g.held = [] → wr - s.hwN (b + 0x28) 8 < 2 ^ lg → (s.ringPut v slot []).isSome = true → x.hwN (b + 0x20) 8 = (wr + 1) % 2 ^ 64)))
    ∧ (wr < val.toNat ∨ 2 ^ lg < wr - val.toNat → exec (.gqrdWrite v val) s = .next s)
    ∧ (val.toNat ≤ wr → wr - val.toNat ≤ 2 ^ lg → Does s (.gqrdWrite v val) fun x => x.hwN (b + 0x28) 8 = val.toNat
        ∧ (g.held = [] → x.hwN (b + 0x20) 8 = wr ∧ x.mem = s.mem)
        ∧ (∀ bs, g.held = [bs] → wr - val.toNat < 2 ^ lg → (s.ringPut v slot bs).isSome = true → x.hwN (b + 0x20) 8 = (wr + 1) % 2 ^ 64 ∧ (x.vf v).graze.held = []))

/-- R87, R396 to R398, R400, R402, R404 and R448: an uncorrectable error poisons its lane, register, word, line or line of a queue's ring, or ends the unit whose control state it strikes, of which the unit store buffer and the slot status entries are a part, also those of a wave that has exited and of a unit that is saved out, and is recorded; corrected errors are counted, repaired and lapse; the two parts of a function's reset; bellwether records; the hypervisor's hold of a trace unit. A RAS ring outside every range of R15 stops the machine, since no such address exists (log 14). -/
def Obligations.ErrorsAndResets : Prop :=
  ∀ (s : State) (id n lane c p d vault bank row col cls v q : Nat) (isRow : Bool) (r : UnitR) (e : ErrEntry) (rep : Nat × Nat × Nat × Nat × Nat) (bell : Bell),
    let w := s.wave id
    let D := s.die d
    let day := 24 * 3600 * 1400000000
    let now := s.cycle
    let off := s.hwN 0x1200 8 = 0
    let lg := s.hwN 0x1208 1
    let at_ := s.hwN 0x1200 8 + 32 * (s.hwN 0x1210 8 % 2 ^ lg)
    let old := D.errs.filter (fun x => now < x.last + day)
    let new := addErr old vault bank row col now
    let known := ∃ x ∈ old, x.vault = vault ∧ x.bank = bank ∧ x.row = row ∧ x.col = col
    let Line := fun (t : State) => p / 64 ∈ t.poison ∧ ∀ k, k ≠ p / 64 → (k ∈ t.poison ↔ k ∈ s.poison)
    (w.st ≠ .empty →
      Does s (.uncorrectableError (.vLane id n lane)) (fun t => t.mem = s.mem ∧ (∀ m j, vBad (t.wave id) m j = (key m j == key n lane || vBad w m j)) ∧ t.wave id = { w with poison := { w.poison with v := (t.wave id).poison.v } })
      ∧ Does s (.uncorrectableError (.oLane id n lane)) (fun t => t.mem = s.mem ∧ (∀ m j, oBad (t.wave id) m j = (key m j == key n lane || oBad w m j)) ∧ t.wave id = { w with poison := { w.poison with o := (t.wave id).poison.o } })
      ∧ Does s (.uncorrectableError (.yLane id n lane)) (fun t => t.mem = s.mem ∧ (∀ m j, yBad (t.wave id) m j = (key m j == key n lane || yBad w m j)) ∧ t.wave id = { w with poison := { w.poison with y := (t.wave id).poison.y } })
      ∧ Does s (.uncorrectableError (.sReg id n)) (fun t => t.mem = s.mem ∧ (∀ m, sBad (t.wave id) m = (m == n || sBad w m)) ∧ t.wave id = { w with poison := { w.poison with s := (t.wave id).poison.s } })
      ∧ (lane < 32 → Does s (.uncorrectableError (.pLane id lane)) fun t => t.mem = s.mem ∧ (∀ m j, j < 32 → pBad (t.wave id) m j = (decide (m ≠ 0 ∧ m < 128 ∧ j = lane) || pBad w m j))
          ∧ t.wave id = { w with poison := { w.poison with p := (t.wave id).poison.p } })
      ∧ (isCtl id = true → id < 12480 → Does s (.uncorrectableError (.control id)) fun t => (t.wave id).st = .empty))
    ∧ (id < 12480 → isCtl id = false → s.holderOf id = some v → s.unit v = some r → Does s (.uncorrectableError (.control id)) fun t => t.unit v = none)
    ∧ (id < 12480 → (if isCtl id then w.st = .empty else s.holderOf id = none) → exec (.uncorrectableError (.control id)) s = .next s)
    ∧ (∀ x, 12480 ≤ id → s.saved.find? (fun y => y.parked.contains id) = some x →
      (x.back = none → Does s (.uncorrectableError (.control id)) fun t => x ∉ t.saved ∧ t.units = s.units)
      ∧ (x.back = some v → s.unit v = some r → Does s (.uncorrectableError (.control id)) fun t => t.unit v = none))
    ∧ (∀ x, w.st ≠ .empty → w.latA = some x → x.tag < 240 → Does s (.uncorrectableError (.latch id 0 lane)) fun t => t.mem = s.mem ∧ ∀ m j, vBad (t.wave id) m j = (key m j == key x.tag lane || vBad w m j))
    ∧ (s.unit v = some r → n < r.sb.length → Does s (.uncorrectableError (.sbLine v n)) fun t => t.unit v = none)
    ∧ ((mget none D.fcache p).isSome = true → Does s (.uncorrectableError (.copyLine d p)) fun t => p ∈ (t.die d).fbad ∧ (t.die d).fcache = D.fcache ∧ t.mem = s.mem)
    ∧ (∀ l B, s.launch v = some l → l.queues[q]? = some B → Does s (.uncorrectableError (.ring v q n)) fun t => t.mem = s.mem
        ∧ ∃ x, t.launch v = some x ∧ x.queues[q]? = some (if 64 * n < 2 ^ B.log2cap * (4 * B.size4) then { B with badl := nsAdd B.badl n } else B))
    ∧ (Does s (.uncorrectableError (.spWord c n)) fun t => t.mem = s.mem ∧ ∀ k, mget false (t.core c).spPoison k = (k == n || mget false (s.core c).spPoison k))
    ∧ (Does s (.uncorrectableError (.accWord c n)) fun t => t.mem = s.mem ∧ ∀ k, mget false (t.core c).accPoison k = (k == n || mget false (s.core c).accPoison k))
    ∧ (isTier2 p = true ∨ (isLocal p = true ∧ off) → Does s (.uncorrectableError (.line p)) fun t => Line t ∧ t.mem = s.mem)
    ∧ (isLocal p = true → ¬off → 6 ≤ lg → lg ≤ 16 → isLocal at_ = true ∨ isTier2 at_ = true → Does s (.uncorrectableError (.line p)) fun t => Line t ∧ t.hwN 0x1210 8 = (s.hwN 0x1210 8 + 1) % 2 ^ 64
        ∧ readB t.mem at_ = 4 ∧ readB t.mem (at_ + 1) = 4 ∧ readB t.mem (at_ + 2) = BitVec.ofNat 8 (p / 0xC00000000) ∧ readB t.mem (at_ + 3) = BitVec.ofNat 8 (p % 0xC00000000 / 4096 % 16) ∧ readN t.mem (at_ + 16) 8 = p / 64 * 64)
    ∧ (isLocal p = true → ¬off → 6 ≤ lg → lg ≤ 16 → isFabric at_ = true → Does s (.uncorrectableError (.line p)) fun t => Line t ∧ t.hwN 0x1210 8 = (s.hwN 0x1210 8 + 1) % 2 ^ 64 ∧ t.mem = s.mem ∧ ∃ q ∈ t.reqs, q.use = .ring ∧ q.line = at_ / 64 * 64)
    ∧ (isLocal p = true → ¬off → 6 ≤ lg → lg ≤ 16 → isHole at_ = true → exec (.uncorrectableError (.line p)) s = .fault .physicalHole)
    ∧ (4 ≤ d ∨ 16 ≤ vault → exec (.correctedError d vault bank row col) s = .next s)
    ∧ (d < 4 → vault < 16 →
      (reached old new vault bank row col = [] → Does s (.correctedError d vault bank row col) fun t => t.mem = s.mem ∧ (t.die d).repairs = D.repairs
          ∧ (¬known → old.length < 64 → (t.die d).errs = old ++ [⟨vault, bank, row, col, now, 1⟩]) ∧ (known → (t.die d).errs.length = old.length))
      ∧ (off → reached old new vault bank row col = [cls] →
        (cls < 3 → mget 0 D.spares (2 * (16 * bank + vault) + (if cls = 1 then 0 else 1)) < (if cls = 1 then 8 else 4) → Does s (.correctedError d vault bank row col) fun t =>
            (t.die d).errs = new ∧ (t.die d).repairs = D.repairs ++ [(vault, bank, cls, row, col)] ∧ t.mem = s.mem)
        ∧ (cls = 3 → Does s (.correctedError d vault bank row col) fun t => (t.die d).errs = new ∧ (t.die d).removed = D.removed ++ [(vault, bank)] ∧ t.mem = s.mem
            ∧ ∀ k, ∀ f ∈ (t.vf k).pool, inBank d vault bank f.1 (pageBytes f.2) = false)))
    ∧ (let hit := fun (x : Nat × Nat × Nat × Nat × Nat) => x.1 == vault && x.2.1 == bank && (x.2.2.1 == 1) == isRow && (if isRow then x.2.2.2.1 else x.2.2.2.2) == n
      (D.repairs.find? hit = none → exec (.dramRepair d vault bank isRow n) s = .next s)
      ∧ (off → D.repairs.find? hit = some rep → Does s (.dramRepair d vault bank isRow n) fun t => t.die d = { D with repairs := D.repairs.erase rep } ∧ t.mem = s.mem))
    ∧ (D.errs[n]? = some e → (e.last + day ≤ now → Does s (.correctionEntryLapse d n) fun t => t.die d = { D with errs := D.errs.eraseIdx n } ∧ t.mem = s.mem) ∧ (now < e.last + day → exec (.correctionEntryLapse d n) s = .next s))
    ∧ (v < 64 →
      (s.hwN (64 * v + 9) 1 ≠ 1 → exec (.functionReset v) s = .next s)
      ∧ (s.hwN (64 * v + 9) 1 = 1 → Does s (.functionReset v) fun t =>
          t.hwN (64 * v + 9) 1 = 2 ∧ (t.vf v).resetting = true ∧ (t.vf v).svcq = [] ∧ (t.vf v).sweeps = [] ∧ (∀ u x, t.unit u = some x → x.vf ≠ v) ∧ (∀ l x, t.launch l = some x → x.vf ≠ v) ∧ (∀ x ∈ t.saved, x.unit.vf ≠ v)
          ∧ (∀ x ∈ t.pend, ∀ l, s.launch x.launch = some l → l.vf ≠ v) ∧ (∀ k, (mget {} (t.vf v).preqs k).live = false) ∧ (q < 8192 → s.hwN (qBlock q + 9) 1 = v → t.hwN (qBlock q + 0x0B) 1 = 0))
      ∧ ((s.vf v).resetting = false ∨ (∃ x ∈ s.reqs, x.ident ∈ coreIds (s.vfCores v)) → exec (.functionResetComplete v) s = .next s)
      ∧ ((s.vf v).resetting = true → s.reqs = [] → s.changes = [] → Does s (.functionResetComplete v) fun t =>
          t.hwN (64 * v + 9) 1 = 1 ∧ t.hwN (64 * v + 0x10) 8 = 0 ∧ t.hwN (64 * v + 0x28) 8 = (s.hwN (64 * v + 0x28) 8 + 1) % 2 ^ 64 ∧ (t.vf v).resetting = false ∧ (t.vf v).resvs = [] ∧ (t.vf v).pool = (s.vf v).pool ∧ (t.vf v).resident = []
          ∧ (t.vf v).ctab = [] ∧ (t.vf v).keyGen = (s.vf v).keyGen + 1 ∧ (∀ k ∈ s.vfCores v, (t.core k).spad = [] ∧ (t.core k).acc = [] ∧ (t.core k).cmds = []) ∧ (q < 8192 → s.hwN (qBlock q + 9) 1 = v → t.qHead q = t.qTail q))
      ∧ ((s.core c).vf = some v → (s.quarter c q).bell = some bell → s.bellDone bell = true → Does s (.bellwetherRecord c q) fun t => (t.quarter c q).bell = none ∧ (s.hwN (64 * v + 0x18) 8 = 0 → t.mem = s.mem)
          ∧ (let b := s.hwN (64 * v + 0x18) 8
            let k := s.hwN (64 * v + 0x20) 8
            let l := s.hwN (64 * v + 0x0B) 1
            b ≠ 0 → 6 ≤ l → l ≤ 16 → (s.ringPut v (b + 32 * (k % 2 ^ l)) []).isSome = true → t.hwN (64 * v + 0x20) 8 = (k + 1) % 2 ^ 64)))
    ∧ ((s.quarter c q).bell = none ∨ ((s.quarter c q).bell = some bell ∧ s.bellDone bell = false) → exec (.bellwetherRecord c q) s = .next s)
    ∧ ((s.core c).lent = false → exec (.traceHypervisorRelease c) s = .next s ∧ Does s (.traceHypervisorHold c) fun t => t.core c = { s.core c with lent := true } ∧ t.waves = s.waves ∧ ((s.core c).vf = none → t.mem = s.mem))
    ∧ ((s.core c).lent = true → exec (.traceHypervisorHold c) s = .next s ∧ Does s (.traceHypervisorRelease c) fun t => t.core c = { s.core c with lent := false } ∧ t.waves = s.waves ∧ ((s.core c).vf = none → t.mem = s.mem))

/-- R9, R18, R370, R391, R403, R405, R412 and R416 to R419: writes of the hypervisor's registers and of the debug registers: what takes the value, what limits it, what ignores it; a clear LEND ends the loans of the function's cores (R202); a window's old entry holds until its sweep is over. That of a queue's STATE only the value 1 is taken is the model's reading (log 77); where the page of a Graze block lies in the window is its choice (log 120). -/
def Obligations.RegisterWrites : Prop :=
  ∀ (s : State) (value : BitVec 128) (x : W64) (f q n k c : Nat),
    let v := value.toNat
    let Put := fun (o m y : Nat) (t : State) => t.hwN o m = y ∧ (∀ a, a < o ∨ o + m ≤ a → readB t.hw a = readB s.hw a) ∧ t.mem = s.mem ∧ t.waves = s.waves ∧ t.units = s.units
    let Sets := fun (r : HReg) (o m y : Nat) => Does s (.registerWrite r value) fun t => Put o m y t ∧ t.vfs = s.vfs
    let Ignored := fun (r : HReg) => exec (.registerWrite r value) s = .next s
    let w := s.wave s.cur
    let mine := s.ownsCore w.vf (c % 256)
    let phys := s.phys (c % 256)
    let old := s.winEntry n
    (f < 64 → Sets (.frbase f) (64 * f) 8 (v % 2 ^ 64) ∧ Sets (.frlog2 f) (64 * f + 8) 1 (v % 256) ∧ Sets (.brlog2 f) (64 * f + 0x0B) 1 (v % 256) ∧ Sets (.bwlog2 f) (64 * f + 0x0C) 1 (v % 256)
      ∧ Sets (.bwbase f) (64 * f + 0x18) 8 (v % 2 ^ 64) ∧ Ignored (.fcbState f) ∧ Ignored (.frwrite f) ∧ Ignored (.bwwrite f) ∧ Ignored (.resets f)
      ∧ Does s (.registerWrite (.hostEntry f) value) (fun t => Put (0x1000 + 8 * f) 8 (v % 2 ^ 13 + v / 2 ^ 24 % 32 * 2 ^ 24 + v / 2 ^ 31 % 2 * 2 ^ 31 + v / 2 ^ 32 % 2 ^ 16 * 2 ^ 32) t ∧ (v.testBit 31 = false → (s.core c).vf = some f → (t.core c).lendTo = none))
      ∧ Sets (.elbase f) (0x1000000 + 64 * f) 8 (v % 2 ^ 64) ∧ Sets (.gflags f) (0x100000B + 64 * f) 1 (v % 2) ∧ Sets (.gwindow f) (0x100000C + 64 * f) 4 (v % 2 ^ 32) ∧ Ignored (.elwrite f) ∧ Ignored (.gqwrite f)
      ∧ Sets (.pageTimeout f) (0x1100000 + 8 * f) 8 (v % 2 ^ 64)
      ∧ (v % 256 = 1 → exec (.registerWrite (.cmd f) value) s = exec (.functionReset f) s) ∧ (v % 256 ≠ 1 → Ignored (.cmd f)) ∧ (v < 2 ^ 64 → exec (.registerWrite (.gqread f) value) s = exec (.gqrdWrite f (value.setWidth 64)) s))
    ∧ Sets .rasbase 0x1200 8 (v % 2 ^ 64) ∧ Sets .raslog2 0x1208 1 (v % 256) ∧ Sets .linkdir 0x1418 8 (v % 2 ^ 48) ∧ Does s (.registerWrite .pwrlim value) (Put 0x1500 8 (max 1800 (min 3600 (v % 65536)))) ∧ Sets .floor 0x1510 8 (max 40 (min 90 (v % 128)))
    ∧ (Does s (.registerWrite (.grazeWindow f) value) fun t => t.hw = s.hw ∧ t.waves = s.waves ∧ t.units = s.units)
    ∧ Ignored .raswrite ∧ Ignored .pkgid ∧ Ignored .linkup ∧ Ignored .pwrnow ∧ Ignored .tmax
    ∧ (v.testBit 1 = true → Does s (.registerWrite .fabctl value) fun t => t.switching = true ∧ t.hw = s.hw ∧ t.mem = s.mem) ∧ (v.testBit 1 = false → Ignored .fabctl)
    ∧ (q < 8192 → Sets (.qRingbase q) (0x80000 + 64 * q) 8 (v % 2 ^ 64) ∧ Sets (.qLog2n q) (0x80008 + 64 * q) 1 (v % 256) ∧ Sets (.qVf q) (0x80009 + 64 * q) 1 (v % 256) ∧ Sets (.qPrio q) (0x8000A + 64 * q) 1 (v % 256)
      ∧ (v % 256 = 1 → Sets (.qState q) (0x8000B + 64 * q) 1 1) ∧ (v % 256 ≠ 1 → Ignored (.qState q)) ∧ Ignored (.qErrcode q) ∧ Ignored (.qHead q) ∧ exec (.registerWrite (.qTail q) value) s = exec (.tailDoorbell q v) s)
    ∧ (n < 16384 → (s.bank = 0 → Ignored (.route false n) ∧ Sets (.route true n) (0x30000 + 8 * n) 8 (v % 2 ^ 48 + v / 2 ^ 62 % 4 * 2 ^ 62)) ∧ (s.bank = 1 → Ignored (.route true n) ∧ Sets (.route false n) (0x10000 + 8 * n) 8 (v % 2 ^ 48 + v / 2 ^ 62 % 4 * 2 ^ 62)))
    ∧ (n < 48 → k < 8 → (s.bank = 0 → Ignored (.key false n k) ∧ Sets (.key true n k) (0x50400 + 16 * n + 2 * k) 2 (v % 65536)) ∧ (s.bank = 1 → Ignored (.key true n k) ∧ Sets (.key false n k) (0x50000 + 16 * n + 2 * k) 2 (v % 65536)))
    ∧ (n < 2048 →
      (mget none s.winOld n = none → old.testBit 0 = false →
        (s.vfCores (v / 2 % 64) = [] → Sets (.window n) (0x2000 + 16 * n) 16 (v % 2 ^ 116) ∧ Does s (.registerWrite (.window n) value) fun t => t.winEntry n = v % 2 ^ 116)
        ∧ (s.vfCores (old / 2 % 64) = [] → Does s (.registerWrite (.kind n) value) fun t => t.winKind n = v.testBit 0 ∧ ∀ j, j ≠ n → j < 2048 → t.winKind j = s.winKind j)
        ∧ (s.vfCores (v / 2 % 64) ≠ [] → Does s (.registerWrite (.window n) value) fun t => t.winEntry n = old ∧ t.hwN (0x2000 + 16 * n) 16 = v % 2 ^ 116 ∧ ∃ y ∈ (t.vf (v / 2 % 64)).sweeps, y.window = some n ∧ y.free = false))
      ∧ (old.testBit 0 = true → s.vfCores (old / 2 % 64) ≠ [] → Does s (.registerWrite (.window n) value) fun t =>
          t.winEntry n = s.winEntry n ∧ t.winKind n = s.winKind n ∧ t.hwN (0x2000 + 16 * n) 16 = v % 2 ^ 116 ∧ (∃ y ∈ (t.vf (old / 2 % 64)).sweeps, y.window = some n ∧ y.free = false) ∧ t.mem = s.mem))
    ∧ (w.level = 0 → exec (.trcfgWrite k x) s = .next (s.trapCur (privTrap 0)) ∧ exec (.runhaltWrite c x) s = .next (s.trapCur (privTrap 0)) ∧ exec (.runbkWrite c x) s = .next (s.trapCur (privTrap 0)))
    ∧ (1 ≤ w.level → Does s (.trcfgWrite k x) fun t => mget 0 (t.core (coreOf s.cur)).trcfg (k % 8) = BitVec.ofNat 64 (x.toNat / 2 ^ 8 % 2 ^ 8 * 256 + x.toNat % 2) ∧ t.mem = s.mem ∧ t.waves = s.waves)
    ∧ (1 ≤ w.level → mine = false → exec (.runhaltWrite c x) s = .next (s.trapCur (privTrap 0)) ∧ exec (.runbkWrite c x) s = .next (s.trapCur (privTrap 0)))
    ∧ (1 ≤ w.level → mine = true →
      (Does s (.runhaltWrite c x) fun t => t.mem = s.mem ∧ ∀ j, j < 64 → let y := s.wave (64 * phys + j)
          y.st ≠ .empty → y.mode = .normal → t.wave (64 * phys + j) = { y with halt := x.getLsbD j })
      ∧ Does s (.runbkWrite c x) fun t => t.mem = s.mem ∧ ∀ j, j < 64 → let y := s.wave (64 * phys + j)
          y.st ≠ .empty → t.wave (64 * phys + j) = { y with bkarm := x.getLsbD j })

/-- R17, R48, R116, R120, R121, R125, R182, R338, R406, R407, R409 and R411 to R416: a request that arrives is turned away for its key or its target, goes on to another package, or is performed and answered; an acknowledgement ends the request and what waits for it; a refusal or a timeout goes to whom it concerns; links go down and come up, flits are sent again, banks switch. A refusal for a key has 2^63 added to its number, one for want of a route 2^62, and a flit that fails once more has 64 added to its link (log 45). What is no request is sent on without a check (log 127), and the lanes of an atomic that name one address travel as one request (R320). What an event says of a message, and the bytes of answers that no table gives, are the model's layout (log 46); how a refused access comes back is logs 78 and 84. -/
def Obligations.FabricEvents : Prop :=
  ∀ (s : State) (r : FabReq) (bs data : List Byte) (n id link core k op lane qn why : Nat) (q : FabOut) (x : Cmd) (l : PendLoad) (y : LoadReq) (aop : AtomOp) (sz : MSz) (ur : UnitR) (u : State),
    let Answered := fun (t : State) (b : List Byte) => t.outbox = s.outbox ++ [⟨r.chan + 1, r.pkey.toNat, r.src, b, none⟩]
    let window := 0x2FFF000000 ≤ r.addr ∧ r.addr < 0x3000000000
    let passes := s.keyPasses r.port r.pkey.toNat = true
    let on := s.power = true ∧ r.port < 48 ∧ r.chan % 2 = 0
    let first := ∀ z ∈ s.reqs.takeWhile (fun z => z.id != id), ¬(z.link = 48 ∧ z.chan = q.chan ∧ z.fail = 0)
    let ours := ∀ d, r.dst = some d → s.isSelf d = true
    let here := (List.range (opSize r.op)).map (fun i => readB s.mem (r.addr + i))
    let w := s.wave q.ident
    let ended := s.reqs.filter (fun z => z.id != id)
    let u₁ := { s.countRefusal q with reqs := ended }
    let up := s.hwN 0x1410 8
    let line := q.line / 64
    let lone := s.reqs.filter (fun z => z.id == id) = [q] ∧ ∀ z ∈ ended, z.ident ≠ q.ident
    let Ends := fun (t : State) => t.reqs.map (·.id) = ended.map (·.id) ∧ t.mem = s.mem
    let NoCopy := fun (t : State) => (∀ d, d < 4 → mget none (t.die d).fcache line = none) ∧ ∀ c, mget none (t.core c).scache line = none
    (s.power = false ∨ 48 ≤ r.port → exec (.fabricRequestIn r) s = .next s)
    ∧ (∀ d, s.power = true → r.port < 48 → r.chan % 2 = 1 → r.dst = some d → s.isSelf d = false →
      exec (.fabricRequestIn r) s = .next (if s.linksTo d = [] then s else { s with outbox := s.outbox ++ [⟨r.chan, r.pkey.toNat, d, [], some r⟩] }))
    ∧ (on → ¬passes → Does s (.fabricRequestIn r) fun t => Answered t [3] ∧ t.mem = s.mem ∧ t.hw = s.hw)
    ∧ (∀ d, on → passes → r.dst = some d → s.isSelf d = false →
      (s.linksTo d = [] → Does s (.fabricRequestIn r) fun t => Answered t [2] ∧ t.mem = s.mem ∧ t.hw = s.hw)
      ∧ (s.linksTo d ≠ [] → Does s (.fabricRequestIn r) fun t => t.mem = s.mem ∧ t.hw = s.hw ∧ t.outbox = s.outbox ++ [⟨r.chan, r.pkey.toNat, d, [], some r⟩]))
    ∧ (on → passes → ours → ¬window →
      ((∃ i, i < opSize r.op ∧ s.incoming (r.addr + i) (opWrites r.op) = false) → Does s (.fabricRequestIn r) fun t => Answered t [1] ∧ t.mem = s.mem ∧ t.hw = s.hw)
      ∧ (s.memRefusal r = 0 →
        (r.op = .read n → Does s (.fabricRequestIn r) fun t => Answered t (0 :: here) ∧ t.mem = s.mem ∧ t.hw = s.hw)
        ∧ (r.op = .write bs → Does s (.fabricRequestIn r) fun t => Answered t [0] ∧ Stored s t .mem r.addr bs ∧ t.hw = s.hw)
        ∧ (∀ b, r.op = .atomic aop sz b → Does s (.fabricRequestIn r) fun t => Answered t (0 :: here) ∧ t.hw = s.hw ∧ Stored s t .mem r.addr (toBytes (atomNew aop (mszBytes sz) (ofBytes here) b.toNat) (mszBytes sz)))
        ∧ (∀ a b, r.op = .atomics aop sz [a, b] → let n := mszBytes sz
            let x := atomNew aop n (ofBytes here) a.toNat
            Does s (.fabricRequestIn r) fun t => Answered t (0 :: (toBytes (ofBytes here) n ++ toBytes x n)) ∧ t.hw = s.hw ∧ Stored s t .mem r.addr (toBytes (atomNew aop n x b.toNat) n))
        ∧ (∀ a b, r.op = .cas sz a b → Does s (.fabricRequestIn r) fun t => Answered t (0 :: here) ∧ t.hw = s.hw
            ∧ if ofBytes here = a.toNat % 2 ^ (8 * mszBytes sz) then Stored s t .mem r.addr (toBytes b.toNat (mszBytes sz)) else t.mem = s.mem)))
    ∧ (on → passes → ours → window →
      (s.winRefusal r (r.addr - 0x2FFF000000) ≠ 0 → Does s (.fabricRequestIn r) fun t => t.mem = s.mem ∧ t.hw = s.hw ∧ ∃ b, b ≠ 0 ∧ Answered t [b])
      ∧ (s.winRefusal r (r.addr - 0x2FFF000000) = 0 → r.op = .read n → Does s (.fabricRequestIn r) fun t => Answered t (0 :: (List.range n).map (fun i => s.winByte (r.addr - 0x2FFF000000 + i))) ∧ t.mem = s.mem ∧ t.hw = s.hw)
      ∧ (s.winRefusal r (r.addr - 0x2FFF000000) = 0 → r.op = .write bs → bs.length = 4 → qn < 8192 → r.addr = 0x2FFF080010 + 64 * qn → Does s (.fabricRequestIn r) fun t => Answered t [0] ∧ t.qTail qn = ofBytes bs ∧ t.mem = s.mem))
    ∧ (s.reqs.find? (fun z => z.id == id && z.fail == 0) = none → exec (.fabricAcknowledge id data) s = .next s ∧ exec (.requestTimeout id) s = .next s)
    ∧ (s.reqs.find? (fun z => z.id == id) = none → id < 2 ^ 62 → exec (.fabricRefusal id) s = .next s ∧ exec (.fabricRefusal (2 ^ 62 + id)) s = .next s ∧ exec (.fabricRefusal (2 ^ 63 + id)) s = .next s)
    ∧ (s.reqs.find? (fun z => z.id == id) = some q → q.fail = 0 → id < 2 ^ 62 → q.held = true →
      exec (.fabricAcknowledge id data) s = .next s ∧ exec (.requestTimeout id) s = .next s ∧ exec (.fabricRefusal id) s = .next s)
    ∧ (s.reqs.find? (fun z => z.id == id) = some q → q.fail = 0 → id < 2 ^ 62 → (∀ z ∈ s.reqs, z.held = false) →
      (q.link = 48 → ¬first → exec (.fabricAcknowledge id data) s = .next s)
      ∧ (q.link = 48 → first → s.serveReq (s.asRequest q) = (u, why, bs) → exec (.fabricAcknowledge id data) s = .next (if why = 0 then u.acknowledge q bs else (u.refuse q why).unhold))
      ∧ (q.link ≠ 48 →
        (q.use = .drain ∨ q.use = .ring ∨ q.use = .home → Does s (.fabricAcknowledge id data) fun t => Ends t ∧ t.waves = s.waves ∧ NoCopy t)
        ∧ (q.use = .prefetch → Does s (.fabricAcknowledge id data) fun t => Ends t ∧ t.waves = s.waves ∧ (q.cached = true → mget none (t.die (s.dieOf q.ident)).fcache line = some data))
        ∧ (q.use = .cmd core k → s.cmd core k = some x → Does s (.fabricAcknowledge id data) fun t => Ends t ∧ t.waves = s.waves
            ∧ if q.write = [] then t.cmd core k = some { x with lines := mset none x.lines line (some data) } else NoCopy t)
        ∧ (q.use = .fetch → q.cached = false → w.st ≠ .empty → Does s (.fabricAcknowledge id data) fun t => Ends t ∧ t.wave q.ident = { w with code := mset none w.code line (some data) })
        ∧ (q.use = .load op → w.loads = [l] → l.id = op → l.home = false → l.reqs = [y] → y.remote = true → y.addr / 64 = line → y.own = [] → (∀ z, s.unitOf q.ident = some z → z.sb = []) → Does s (.fabricAcknowledge id data) fun t => Ends t
            ∧ t.wave q.ident = { w with loads := [{ l with reqs := [], got := l.got ++ [⟨y.lane, BitVec.ofNat 64 (extend l.size l.signed (ofBytes ((List.range l.size).map fun i => data.getD (y.addr % 64 + i) 0))), false, y.taint⟩] }] })
        ∧ (q.use = .atomic op lane → w.loads = [l] → l.id = op → l.reqs = [y] → y.lane = lane → Does s (.fabricAcknowledge id data) fun t => Ends t ∧ NoCopy t
            ∧ t.wave q.ident = { w with loads := [{ l with reqs := [], got := l.got ++ [⟨lane, BitVec.ofNat 64 (ofBytes (data.take l.size)), false, y.taint⟩] }] }))
      ∧ (s.cycle < q.posted + 1400000 → exec (.requestTimeout id) s = .next s)
      ∧ (q.posted + 1400000 ≤ s.cycle →
        (q.use = .prefetch → Does s (.requestTimeout id) fun t => Ends t ∧ t.waves = s.waves)
        ∧ (q.use = .atomic op lane → w.loads = [] → lone → exec (.requestTimeout id) s = .next (State.raise { s with reqs := ended } q.ident (fabTrap 4 q.dst (laneMask (· == lane)) (q.va / 64 * 64))).unhold))
      ∧ (q.use = .prefetch ∨ q.use = .ring → Does s (.fabricRefusal id) fun t => Ends t ∧ t.waves = s.waves)
      ∧ (q.use = .atomic op lane → w.loads = [] → lone →
        exec (.fabricRefusal (2 ^ 62 + id)) s = .next (u₁.raise q.ident (fabTrap 2 q.dst (laneMask (· == lane)) (q.va / 64 * 64))).unhold
        ∧ exec (.fabricRefusal id) s = .next (u₁.raise q.ident (fabTrap 1 q.dst (laneMask (· == lane)) (q.va / 64 * 64))).unhold
        ∧ exec (.fabricRefusal (2 ^ 63 + id)) s = .next (u₁.raise q.ident (fabTrap 3 q.dst (laneMask (· == lane)) (q.va / 64 * 64))).unhold)
      ∧ (q.use = .cmd core k → s.cmd core k = some x → x.kind = .copy ∨ x.kind = .coll → x.err = 0 → Does s (.fabricRefusal id) fun t => Ends t ∧ t.cmd core k = some { x with err := 0x14 })
      ∧ (q.use = .load op → w.loads.find? (fun z => z.id == op) = some l →
        (w.mode = .normal → w.ctl = false → w.rgn.serial = false → w.rgn.spilled = false → l.acq = true ∨ (w.rgn.lead = false ∧ l.rg = w.rgn.opened) → Does s (.fabricRefusal id) fun t => let w' := t.wave q.ident
            w'.pc = w.rgn.rpc ∧ w'.st = .ready ∧ w'.rgn.serial = true ∧ w'.rgn.replay = !w.rgn.led ∧ w'.stage1 = [] ∧ t.mem = s.mem ∧ t.units = s.units)
        ∧ (w.rgn.serial = true → lone → isCtl q.ident = false → s.unit w.unit = some ur → Does s (.fabricRefusal id) fun t => t.unit w.unit = none)))
    ∧ (link < 48 →
      (up.testBit link = false → s.power = true → Does s (.linkUp link) fun t => t.hwN 0x1410 8 = up + 2 ^ link ∧ ∀ e, s.fmNode = some e → ∃ m ∈ t.outbox, m.chan = 5 ∧ m.dst = e)
      ∧ (up.testBit link = true → exec (.linkUp link) s = .next s)
      ∧ (up.testBit link = false → exec (.linkDown link) s = .next s.unhold.unholdPages ∧ exec (.flitResend link) s = .next s ∧ exec (.flitResend (64 + link)) s = .next s)
      ∧ (up.testBit link = true → (∀ z ∈ s.reqs, z.held = false ∧ (z.link ≠ link ∨ z.fail ≠ 0)) → Does s (.linkDown link) fun t => t.hwN 0x1410 8 = up - 2 ^ link ∧ mget 0 t.retries link = 0
          ∧ (∀ z ∈ s.reqs, ∃ z' ∈ t.reqs, z'.id = z.id ∧ z'.fail = z.fail) ∧ ∀ e, s.fmNode = some e → ∃ m ∈ t.outbox, m.chan = 5 ∧ m.dst = e)
      ∧ (up.testBit link = true → Does s (.flitResend link) fun t => mget 0 t.retries link = 1 ∧ t.hw = s.hw ∧ t.reqs = s.reqs ∧ t.mem = s.mem)
      ∧ (up.testBit link = true → mget 0 s.retries link < 16 → Does s (.flitResend (64 + link)) fun t => mget 0 t.retries link = mget 0 s.retries link + 1 ∧ t.hw = s.hw ∧ t.reqs = s.reqs ∧ t.mem = s.mem)
      ∧ (up.testBit link = true → 16 ≤ mget 0 s.retries link → exec (.flitResend (64 + link)) s = exec (.linkDown link) s))
    ∧ (s.switching = false → exec .bankSwitch s = .next s)
    ∧ (s.switching = true → Does s .bankSwitch fun t => t.bank = 1 - s.bank ∧ t.hwN 0x140C 4 = (s.hwN 0x140C 4 + 1) % 2 ^ 32 ∧ t.switching = false ∧ t.mem = s.mem)

/-! ## The whole machine -/

/-- R216 to R244: decoding the encoding of a well-formed instruction gives it back with its length, whatever stands behind it, for every register budget; and no well-formed instruction is without an encoding of its length. -/
def Obligations.DecodeEncode : Prop :=
  ∀ (bud : Nat) (i : Instr) (rest : List Byte), WellFormed bud i = true → (encode i).length = i.length ∧ decodeBytes bud (encode i ++ rest) = (.ok i, i.length)

/-- Every step from a state whose memory, hypervisor window and configuration image are in canonical form leaves them so: equal memories are equal data. -/
def Obligations.StepKeepsInvariant : Prop :=
  ∀ s t : State, Inv s → step s = .next t → Inv t

/-- R417 to R419 and R421: what the start leaves. Every WEIGHT is 1, PWRLIM is 3,600 W and FLOOR 60 %, every other byte of the hypervisor window is 0 (so every queue is stopped, every function absent, every link down); memory reads zero; nothing is resident or running. That the start is the one before the control page is written, and that every other byte of the window and of the image and the registers of a slot that nothing has placed are 0, is the model's choice (logs 1 to 3). -/
def Obligations.ResetState : Prop :=
  let s := State.reset
  Inv s ∧ s.power = true ∧ (∀ v, v < 64 → s.hwN (0x1000 + 8 * v) 8 = 2 ^ 24) ∧ s.hwN 0x1500 8 = 3600 ∧ s.hwN 0x1510 8 = 60
  ∧ (∀ o, ¬(0x1000 ≤ o ∧ o < 0x1200) → ¬(0x1500 ≤ o ∧ o < 0x1508) → ¬(0x1510 ≤ o ∧ o < 0x1518) → readB s.hw o = 0)
  ∧ (∀ a, readB s.mem a = 0) ∧ (∀ id, s.wave id = {}) ∧ (∀ u, s.unit u = none) ∧ (∀ l, s.launch l = none) ∧ (∀ c, (s.core c).vf = none ∧ (s.core c).locks = []) ∧ s.recs = [] ∧ s.reqs = []

/-- R216 and R217: when a turn is an issue of an identity that can issue, and the bytes at its PC (each parcel executable at its level, at consecutive places of local memory or tier-2) decode to i, then the step is exec of i in the state in which that identity is the current one and i's first parcel is noted, followed by the account of the issue; the account changes no memory, no unit and of no wave anything but its clock, which counts a cycle (R272). Which identity has its turn is the agenda's, or the model's choice (log 4); the issues that are withheld for power in the cycle are counted first (R403). -/
def Obligations.StepRunsDecoded : Prop :=
  ∀ (s : State) (id pa n : Nat) (i : Instr) (r : List Turn) (pg : Nat → Page),
    let s₁ := { s with agenda := r }
    let w := s.wave id
    let va := w.pc.toNat
    let Run := fun (z : State) => finishIssue id w i (exec i (z.ready id (readN s.mem pa 4)))
    inVariant w = false → s.canIssue id = true → isLocal pa = true ∨ isTier2 pa = true → decodeBytes w.budget (readBytes s.mem pa 12) = (.ok i, n) →
    (∀ k, k < n / 4 → s.xlate (coreOf id) w.vf w.level .fetch ((va + 4 * k) % 2 ^ 64) = .ok (pa + 4 * k) (pg k)) →
    (s.agenda = .issue id :: r → step s = Run s₁.noteWithheld)
    ∧ (s.agenda = [] → s.power = true → firstEvent s s.due = none → s.choose = some id → step s = Run s.noteWithheld)
    ∧ (∀ t, finishIssue id w i (.next t) = .next (t.account id w i) ∧ (t.account id w i).mem = t.mem ∧ (t.account id w i).units = t.units
        ∧ ∀ k, (t.account id w i).wave k = { t.wave k with clock := (t.wave k).clock + if (t.wave k).st = .empty then 0 else 1 })

/-- R225, R230, R248 and the encodings printed beside the rules of each family: the words decode to the instructions that they stand for. -/
def Obligations.DecodeWords : Prop :=
  let g : Guard := ⟨0, false⟩
  decodeTableWord 64 0x4090180302A00830 = some (.fma .f32 g (.v 21) ⟨.v 6, false⟩ ⟨.v 12, true⟩ ⟨.v 18, false⟩)
  ∧ decodeTableWord 96 0x3FC000000007FE0180600822 = some (.fmul .f32 g (.v 3) ⟨.v 3, false⟩ ⟨.lit 0x3FC00000, false⟩)
  ∧ decodeTableWord 64 0x0201040004020801 = some (.pair ⟨.addU32, .v 7, .v 1, some (.v 2)⟩ ⟨.addU32, .v 10, .v 4, some (.v 5)⟩)
  ∧ decodeTableWord 32 0xE3000003 = some (.addU32Compact (.v 0) (.v 0) (.imm 2)) ∧ decodeTableWord 32 0x000000C7 = some .cnop
  ∧ decodeTableWord 64 0x00000C0100000008 = some (.ifP false 2 6) ∧ decodeTableWord 64 0x0015048280201238 = some (.scmp true .lt 1 (.s 5) (.imm 2))
  ∧ decodeTableWord 64 0x0A78000180800A00 = some (.cvt .t8 .fp32 g (.v 4) ⟨.v 3, false⟩) ∧ decodeTableWord 64 0x0025020100C00C68 = some (.atom .add .b4 false .k g (.v 6) ⟨.v 2, false⟩ ⟨.imm 1, false⟩)
  ∧ decodeTableWord 64 0x0860208520C00E10 = some (.mtask (.s 6) (.s 10) (.v 16) (.s 12))
end

