-- ==== Sys2Proof/Laws/Alu.lean ====
section
/-! SUPPORT. What the integer operations compute, in the words of the spec on bit vectors (R262 to R265, R284 to R292). -/

namespace Sys2Proof.Machine

open Sys2Proof.Safety

theorem wrap_eq (w : Nat) (x : Int) : wrap w x = (BitVec.ofInt w x).toNat := by
  unfold wrap; simp [BitVec.toNat_ofInt]

theorem toSigned_eq (w a : Nat) (hw : 0 < w) : toSigned w a = (BitVec.ofNat w a).toInt := by
  unfold toSigned
  rw [BitVec.toInt_eq_toNat_cond, BitVec.toNat_ofNat]
  have h2 : 2 ^ w = 2 * 2 ^ (w - 1) := by
    rw [← Nat.pow_succ']; congr 1; omega
  have : (a % 2 ^ w < 2 ^ (w - 1)) ↔ (2 * (a % 2 ^ w) < 2 ^ w) := by omega
  by_cases h : a % 2 ^ w < 2 ^ (w - 1)
  · rw [if_pos h, if_pos (this.mp h)]
  · rw [if_neg h, if_neg (fun e => h (this.mpr e))]; push_cast; rfl

theorem readInt_eq (sg : Bool) (w a : Nat) (hw : 0 < w) : readInt sg w a = asInt sg (BitVec.ofNat w a) := by
  unfold readInt asInt; cases sg
  · simp
  · simpa using toSigned_eq w a hw

theorem iAdd_eq (w a b : Nat) : iAdd w a b = (BitVec.ofNat w a + BitVec.ofNat w b).toNat := by
  simp [iAdd, BitVec.toNat_add]
theorem iSub_eq (w a b : Nat) : iSub w a b = (BitVec.ofNat w a - BitVec.ofNat w b).toNat := by
  simp [iSub, BitVec.toNat_sub]; congr 1; omega
theorem iMul_eq (w a b : Nat) : iMul w a b = (BitVec.ofNat w a * BitVec.ofNat w b).toNat := by
  simp [iMul, BitVec.toNat_mul, Nat.mul_mod]
theorem iMad_eq (w a b c : Nat) : iMad w a b c = (BitVec.ofNat w a * BitVec.ofNat w b + BitVec.ofNat w c).toNat := by
  simp [iMad, BitVec.toNat_mul, BitVec.toNat_add, Nat.mul_mod, Nat.add_mod]
theorem iMulh_eq (sg : Bool) (w a b : Nat) (hw : 0 < w) : iMulh sg w a b = (mulHigh sg (BitVec.ofNat w a) (BitVec.ofNat w b)).toNat := by
  unfold iMulh mulHigh
  rw [wrap_eq, readInt_eq sg w a hw, readInt_eq sg w b hw]
  unfold asInt
  cases sg
  · simp only [Bool.false_eq_true, if_false]
    rw [show (((BitVec.ofNat w a).toNat : Int) * ((BitVec.ofNat w b).toNat : Int) / 2 ^ w) = (((BitVec.ofNat w a).toNat * (BitVec.ofNat w b).toNat / 2 ^ w : Nat) : Int) from by push_cast; rfl]
    rw [BitVec.ofInt_natCast]
  · simp

theorem ofNat_eq_zero (w b : Nat) : BitVec.ofNat w b = 0 ↔ b % 2 ^ w = 0 := by
  rw [← BitVec.toNat_inj]; simp

theorem asInt_eq_zero (sg : Bool) {n : Nat} (b : BitVec n) : asInt sg b = 0 ↔ b = 0 := by
  unfold asInt; cases sg
  · simp [← BitVec.toNat_inj]
  · simp [← BitVec.toInt_inj]

theorem zeroCase (sg : Bool) (w a : Nat) : (if (sg && decide (0 ≤ asInt sg (BitVec.ofNat w a))) = true then 0 else 2 ^ w - 1)
    = (if (sg && !(BitVec.ofNat w a).msb) = true then (0 : BitVec w) else BitVec.allOnes w).toNat := by
  have : (sg && decide (0 ≤ asInt sg (BitVec.ofNat w a))) = (sg && !(BitVec.ofNat w a).msb) := by
    unfold asInt; cases sg
    · simp
    · simp only [Bool.true_and, if_true]
      rw [BitVec.msb_eq_toInt]
      by_cases h : (BitVec.ofNat w a).toInt < 0
      · simp [h]
      · simp [h]; omega
  rw [this]
  split <;> simp [BitVec.toNat_allOnes]

theorem iDiv_eq (sg : Bool) (w a b : Nat) (hw : 0 < w) : iDiv sg w a b = (quotient sg (BitVec.ofNat w a) (BitVec.ofNat w b)).toNat := by
  unfold iDiv quotient
  simp only
  rw [readInt_eq sg w a hw, readInt_eq sg w b hw]
  by_cases hb : BitVec.ofNat w b = 0
  · rw [if_pos ((asInt_eq_zero sg _).mpr hb), if_pos hb, zeroCase]
  · rw [if_neg (fun e => hb ((asInt_eq_zero sg _).mp e)), if_neg hb, wrap_eq]
    unfold asInt; cases sg
    · simp only [Bool.false_eq_true, if_false]
      rw [show ((BitVec.ofNat w a).toNat : Int).tdiv ((BitVec.ofNat w b).toNat : Int) = (((BitVec.ofNat w a).toNat / (BitVec.ofNat w b).toNat : Nat) : Int) from by rw [Int.natCast_div, Int.tdiv_eq_ediv_of_nonneg (by positivity)]]
      rw [BitVec.ofInt_natCast]
    · simp

theorem iRem_eq (sg : Bool) (w a b : Nat) (hw : 0 < w) : iRem sg w a b = (remainder sg (BitVec.ofNat w a) (BitVec.ofNat w b)).toNat := by
  unfold iRem remainder
  simp only
  rw [readInt_eq sg w a hw, readInt_eq sg w b hw]
  by_cases hb : BitVec.ofNat w b = 0
  · rw [if_pos ((asInt_eq_zero sg _).mpr hb), if_pos hb, zeroCase]
  · rw [if_neg (fun e => hb ((asInt_eq_zero sg _).mp e)), if_neg hb, wrap_eq]
    unfold asInt; cases sg
    · simp only [Bool.false_eq_true, if_false]
      rw [show ((BitVec.ofNat w a).toNat : Int).tmod ((BitVec.ofNat w b).toNat : Int) = (((BitVec.ofNat w a).toNat % (BitVec.ofNat w b).toNat : Nat) : Int) from by rw [Int.natCast_mod, Int.tmod_eq_emod_of_nonneg (by positivity)]]
      rw [BitVec.ofInt_natCast]
    · simp

theorem intOrder_lt (sg : Bool) (w a b : Nat) (hw : 0 < w) (ha : a < 2 ^ w) (hb : b < 2 ^ w) :
    (intOrder sg w a b == .lt) = less sg (BitVec.ofNat w a) (BitVec.ofNat w b) := by
  unfold intOrder less
  cases sg
  · simp only [Bool.false_eq_true, if_false, BitVec.toNat_ofNat, Nat.mod_eq_of_lt ha, Nat.mod_eq_of_lt hb]
    rw [Bool.eq_iff_iff]; simp [Nat.compare_eq_lt]
  · simp only [if_true, toSigned_eq w _ hw]
    rw [Bool.eq_iff_iff]; simp [Int.compare_eq_lt]

theorem intOrder_gt (sg : Bool) (w a b : Nat) (hw : 0 < w) (ha : a < 2 ^ w) (hb : b < 2 ^ w) :
    (intOrder sg w a b == .gt) = less sg (BitVec.ofNat w b) (BitVec.ofNat w a) := by
  unfold intOrder less
  cases sg
  · simp only [Bool.false_eq_true, if_false, BitVec.toNat_ofNat, Nat.mod_eq_of_lt ha, Nat.mod_eq_of_lt hb]
    rw [Bool.eq_iff_iff]; simp [Nat.compare_eq_gt]
  · simp only [if_true, toSigned_eq w _ hw]
    rw [Bool.eq_iff_iff]; simp [Int.compare_eq_gt]

theorem intOrder_eq (sg : Bool) (w a b : Nat) (hw : 0 < w) (ha : a < 2 ^ w) (hb : b < 2 ^ w) :
    (intOrder sg w a b == .eq) = (BitVec.ofNat w a == BitVec.ofNat w b) := by
  unfold intOrder
  cases sg
  · simp only [Bool.false_eq_true, if_false]
    rw [Bool.eq_iff_iff]; simp [← BitVec.toNat_inj, Nat.mod_eq_of_lt ha, Nat.mod_eq_of_lt hb]
  · simp only [if_true, toSigned_eq w _ hw]
    rw [Bool.eq_iff_iff]; simp [BitVec.toInt_inj]

/-- An integer condition (R234). -/
theorem eval_intOrder (c : ICond) (sg : Bool) (w a b : Nat) (hw : 0 < w) (ha : a < 2 ^ w) (hb : b < 2 ^ w) :
    c.eval (intOrder sg w a b) = holds c sg (BitVec.ofNat w a) (BitVec.ofNat w b) := by
  have h1 := intOrder_lt sg w a b hw ha hb
  have h2 := intOrder_gt sg w a b hw ha hb
  have h3 := intOrder_eq sg w a b hw ha hb
  cases c <;> simp only [ICond.eval, holds]
  · exact h3
  · simp only [bne]; rw [h3]
  · exact h1
  · simp only [bne]; rw [h2]
  · exact h2
  · simp only [bne]; rw [h1]

theorem iMin_eq (sg : Bool) (w a b : Nat) (hw : 0 < w) (ha : a < 2 ^ w) (hb : b < 2 ^ w) :
    iMin sg w a b = (if less sg (BitVec.ofNat w b) (BitVec.ofNat w a) then BitVec.ofNat w b else BitVec.ofNat w a).toNat := by
  unfold iMin; rw [intOrder_gt sg w a b hw ha hb]; split <;> simp [Nat.mod_eq_of_lt, ha, hb]
theorem iMax_eq (sg : Bool) (w a b : Nat) (hw : 0 < w) (ha : a < 2 ^ w) (hb : b < 2 ^ w) :
    iMax sg w a b = (if less sg (BitVec.ofNat w a) (BitVec.ofNat w b) then BitVec.ofNat w b else BitVec.ofNat w a).toNat := by
  unfold iMax; rw [intOrder_lt sg w a b hw ha hb]; split <;> simp [Nat.mod_eq_of_lt, ha, hb]

theorem iAbs_eq (sg : Bool) (w a : Nat) (hw : 0 < w) :
    iAbs sg w a = (if sg && (BitVec.ofNat w a).msb then -BitVec.ofNat w a else BitVec.ofNat w a).toNat := by
  unfold iAbs; cases sg
  · simp
  · simp only [if_true, Bool.true_and, toSigned_eq w a hw, wrap_eq]
    rw [BitVec.msb_eq_toInt]
    by_cases h : (BitVec.ofNat w a).toInt < 0
    · simp only [h, decide_true, if_true]
      rw [show (((BitVec.ofNat w a).toInt.natAbs : Nat) : Int) = -(BitVec.ofNat w a).toInt from by omega, BitVec.ofInt_neg, BitVec.ofInt_toInt]
    · simp only [h, decide_false, Bool.false_eq_true, if_false]
      rw [show (((BitVec.ofNat w a).toInt.natAbs : Nat) : Int) = (BitVec.ofNat w a).toInt from by omega, BitVec.ofInt_toInt]

theorem iNot_eq (w a : Nat) : iNot w a = (~~~BitVec.ofNat w a).toNat := by simp [iNot, BitVec.toNat_not]
theorem iShl_eq (w a n : Nat) : iShl w a n = (BitVec.ofNat w a <<< (n % w)).toNat := by
  simp [iShl, BitVec.toNat_shiftLeft, Nat.shiftLeft_eq, Nat.mod_mul_mod]
theorem iShr_eq (w a n : Nat) : iShr w a n = (BitVec.ofNat w a >>> (n % w)).toNat := by
  simp [iShr, BitVec.toNat_ushiftRight, Nat.shiftRight_eq_div_pow]
theorem iSar_eq (w a n : Nat) (hw : 0 < w) : iSar w a n = ((BitVec.ofNat w a).sshiftRight (n % w)).toNat := by
  unfold iSar; rw [wrap_eq, toSigned_eq w a hw]
  congr 1
  rw [BitVec.sshiftRight, Int.shiftRight_eq_div_pow]; simp

theorem iSat_eq (sg : Bool) (w : Nat) (x : Int) : iSat sg w x = (clamp w sg x).toNat := by
  unfold iSat clamp; cases sg <;> simp [wrap_eq]

theorem iClz_eq (w a : Nat) : iClz w a = leadingZeros (BitVec.ofNat w a) := by
  unfold iClz leadingZeros
  rw [BitVec.toNat_ofNat]
  generalize hx : a % 2 ^ w = x
  have hlt : x < 2 ^ w := by rw [← hx]; exact Nat.mod_lt _ (by positivity)
  by_cases h0 : x = 0
  · subst h0; rw [if_pos rfl, List.filter_eq_self.mpr (by simp)]; simp
  · rw [if_neg h0]
    have hl : x.log2 < w := (Nat.log2_lt h0).mpr hlt
    have : (List.range w).filter (fun k => decide (x < 2 ^ k)) = (List.range w).filter (fun k => decide (x.log2 + 1 ≤ k)) := by
      apply List.filter_congr
      intro k _
      rw [decide_eq_decide, ← Nat.log2_lt h0]; omega
    rw [this]
    have hw : w = (x.log2 + 1) + (w - 1 - x.log2) := by omega
    conv_rhs => rw [hw, List.range_add, List.filter_append]
    rw [List.filter_eq_nil_iff.mpr (by intro k hk; simp at hk; simp; omega), List.filter_eq_self.mpr (by intro k hk; simp at hk; obtain ⟨j, _, rfl⟩ := hk; simp)]
    simp

theorem iPopc_eq (w a : Nat) : iPopc w a = setBits (BitVec.ofNat w a) := by
  unfold iPopc setBits
  have : ∀ (ks : List Nat) (n : Nat), (∀ k ∈ ks, k < w) →
      ks.foldl (fun n k => n + a / 2 ^ k % 2) n = n + (ks.filter (fun k => (BitVec.ofNat w a).getLsbD k)).length := by
    intro ks
    induction ks with
    | nil => intro n _; simp
    | cons k ks ih =>
      intro n h
      rw [List.foldl_cons, ih _ (fun j hj => h j (by simp [hj]))]
      have hk := h k (by simp)
      have hb : (BitVec.ofNat w a).getLsbD k = decide (a / 2 ^ k % 2 = 1) := by
        rw [BitVec.getLsbD_ofNat]; simp [hk, Nat.testBit_eq_decide_div_mod_eq]
      rw [List.filter_cons, hb]
      by_cases h1 : a / 2 ^ k % 2 = 1
      · simp [h1]; omega
      · have : a / 2 ^ k % 2 = 0 := by omega
        simp [this]
  simpa using this (List.range w) 0 (by simp)

theorem extendBits_eq (sg : Bool) (w n a : Nat) (h0 : 0 < n) (hn : n < w) :
    extendBits sg n w (a % 2 ^ n) = (extendField sg n (BitVec.ofNat w a)).toNat := by
  unfold extendBits extendField
  cases sg
  · have h1 : a % 2 ^ n < 2 ^ w := lt_trans (Nat.mod_lt _ (by positivity)) ((Nat.pow_lt_pow_iff_right (by norm_num : 1 < 2)).mpr hn)
    have h2 : a % 2 ^ w % 2 ^ n = a % 2 ^ n := Nat.mod_mod_of_dvd _ (Nat.pow_dvd_pow 2 (Nat.le_of_lt hn))
    simp only [Bool.false_eq_true, if_false, BitVec.toNat_setWidth, BitVec.toNat_ofNat, h2, Nat.mod_mod, Nat.mod_eq_of_lt h1]
  · simp only [if_true]
    rw [wrap_eq, toSigned_eq n _ h0, BitVec.signExtend]
    congr 2
    apply BitVec.toInt_inj.mpr
    apply BitVec.eq_of_toNat_eq
    simp [BitVec.toNat_setWidth]
    rw [Nat.mod_mod_of_dvd _ (Nat.pow_dvd_pow 2 (Nat.le_of_lt hn))]

theorem iBfx_eq (sg : Bool) (w a p n : Nat) (hw : 0 < w) : iBfx sg w a p n = (extractField sg (BitVec.ofNat w a) p n).toNat := by
  unfold iBfx extractField
  simp only
  have hx : (if sg = true then wrap w (toSigned w a / 2 ^ p) else a % 2 ^ w / 2 ^ p)
      = (if sg = true then (BitVec.ofNat w a).sshiftRight p else BitVec.ofNat w a >>> p).toNat := by
    cases sg
    · simp [BitVec.toNat_ushiftRight, Nat.shiftRight_eq_div_pow]
    · simp only [if_true]
      rw [wrap_eq, toSigned_eq w a hw, BitVec.sshiftRight, Int.shiftRight_eq_div_pow]; simp
  rw [hx]
  generalize (if sg = true then (BitVec.ofNat w a).sshiftRight p else BitVec.ofNat w a >>> p) = x
  by_cases h0 : n = 0
  · simp [h0]
  · rw [if_neg h0, if_neg h0]
    by_cases hn : w ≤ n
    · rw [if_pos hn, if_pos hn]
    · rw [if_neg hn, if_neg hn, extendBits_eq sg w n _ (by omega) (by omega)]
      congr 2
      simp

theorem iExt_eq (sg : Bool) (w a n : Nat) (ha : a < 2 ^ w) :
    iExt sg w a n = (if n = 0 then 0 else if w ≤ n then BitVec.ofNat w a else extendField sg n (BitVec.ofNat w a)).toNat := by
  unfold iExt
  by_cases h0 : n = 0
  · simp [h0]
  · rw [if_neg h0, if_neg h0]
    by_cases hn : w ≤ n
    · rw [if_pos hn, if_pos hn]; simp [Nat.mod_eq_of_lt ha]
    · rw [if_neg hn, if_neg hn, extendBits_eq sg w n _ (by omega) (by omega)]

theorem iBfi_eq (w d a p n : Nat) (hd : d < 2 ^ w) : iBfi w d a p n = (insertField (BitVec.ofNat w d) (BitVec.ofNat w a) p n).toNat := by
  unfold iBfi insertField
  simp only
  have hm : (if w ≤ n then 2 ^ w - 1 else 2 ^ n - 1) * 2 ^ p % 2 ^ w = ((if w ≤ n then BitVec.allOnes w else BitVec.ofNat w (2 ^ n - 1)) <<< p).toNat := by
    split
    · simp [BitVec.toNat_shiftLeft, Nat.shiftLeft_eq, BitVec.toNat_allOnes]
    · simp [BitVec.toNat_shiftLeft, Nat.shiftLeft_eq, Nat.mod_mul_mod]
  rw [hm]
  generalize ((if w ≤ n then BitVec.allOnes w else BitVec.ofNat w (2 ^ n - 1)) <<< p) = m
  simp only [BitVec.toNat_or, BitVec.toNat_and, BitVec.toNat_not, BitVec.toNat_ofNat, BitVec.toNat_shiftLeft, Nat.shiftLeft_eq, Nat.mod_eq_of_lt hd]
  rw [Nat.mod_mul_mod]

/-! ## Elements -/

theorem elem_lt (w k x : Nat) : elem w k x < 2 ^ w := Nat.mod_lt _ (by positivity)

theorem packEls_congr {w n : Nat} {f g : Nat → Nat} (h : ∀ k, k < n → f k % 2 ^ w = g k % 2 ^ w) : packEls w n f = packEls w n g := by
  induction n with
  | zero => rfl
  | succ n ih => simp only [packEls]; rw [ih (fun k hk => h k (by omega)), h n (by omega)]

theorem packEls_lt (w n : Nat) (f : Nat → Nat) : packEls w n f < 2 ^ (w * n) := by
  induction n with
  | zero => simp [packEls]
  | succ n ih =>
    simp only [packEls]
    have h1 : f n % 2 ^ w < 2 ^ w := Nat.mod_lt _ (by positivity)
    have h2 : 2 ^ (w * (n + 1)) = 2 ^ w * 2 ^ (w * n) := by rw [Nat.mul_succ, pow_add, mul_comm]
    rw [h2]
    calc packEls w n f + f n % 2 ^ w * 2 ^ (w * n) < 2 ^ (w * n) + f n % 2 ^ w * 2 ^ (w * n) := by omega
      _ = (f n % 2 ^ w + 1) * 2 ^ (w * n) := by ring
      _ ≤ 2 ^ w * 2 ^ (w * n) := Nat.mul_le_mul_right _ h1

/-- Element k of a packed value is what was put there (R275). -/
theorem elem_packEls {w n k : Nat} (f : Nat → Nat) (hk : k < n) : elem w k (packEls w n f) = f k % 2 ^ w := by
  induction n with
  | zero => omega
  | succ n ih =>
    simp only [packEls, elem]
    by_cases h : k = n
    · subst h
      rw [Nat.add_mul_div_right _ _ (by positivity), Nat.div_eq_of_lt (packEls_lt w k f)]
      simp
    · have hlt : k < n := by omega
      have h2 : 2 ^ (w * n) = 2 ^ (w * k) * 2 ^ (w * (n - k)) := by rw [← pow_add, ← Nat.mul_add]; congr 2; omega
      have h3 : 2 ^ (w * (n - k)) = 2 ^ w * 2 ^ (w * (n - k - 1)) := by rw [← pow_add]; congr 1; rw [Nat.add_comm, ← Nat.mul_succ]; congr 1; omega
      have h4 : f n % 2 ^ w * 2 ^ (w * n) = 2 ^ (w * k) * (2 ^ w * (f n % 2 ^ w * 2 ^ (w * (n - k - 1)))) := by rw [h2, h3]; ring
      rw [h4, Nat.add_mul_div_left _ _ (by positivity), Nat.add_mul_mod_self_left]
      exact ih hlt

theorem map1_eq {t : ITy} {f : Nat → Nat} {g : BitVec t.width → BitVec t.width} (h : ∀ x, x < 2 ^ t.width → f x = (g (BitVec.ofNat _ x)).toNat) (a : Nat) :
    map1 t.width t.count f a = each1 t g a := packEls_congr (fun k _ => by rw [h _ (elem_lt ..)])
theorem map2_eq {t : ITy} {f : Nat → Nat → Nat} {g : BitVec t.width → BitVec t.width → BitVec t.width}
    (h : ∀ x y, x < 2 ^ t.width → y < 2 ^ t.width → f x y = (g (BitVec.ofNat _ x) (BitVec.ofNat _ y)).toNat) (a b : Nat) :
    map2 t.width t.count f a b = each2 t g a b := packEls_congr (fun k _ => by rw [h _ _ (elem_lt ..) (elem_lt ..)])
theorem map3_eq {t : ITy} {f : Nat → Nat → Nat → Nat} {g : BitVec t.width → BitVec t.width → BitVec t.width → BitVec t.width}
    (h : ∀ x y z, x < 2 ^ t.width → y < 2 ^ t.width → z < 2 ^ t.width → f x y z = (g (BitVec.ofNat _ x) (BitVec.ofNat _ y) (BitVec.ofNat _ z)).toNat) (a b c : Nat) :
    map3 t.width t.count f a b c = each3 t g a b c := packEls_congr (fun k _ => by rw [h _ _ _ (elem_lt ..) (elem_lt ..) (elem_lt ..)])

theorem width_pos (t : ITy) : 0 < t.width := by cases t <;> decide

end Sys2Proof.Machine
end

