-- ==== Sys2Proof/Laws/Map.lean ====
section
/-! SUPPORT. Laws of sparse maps: read after write, and the canonical form kept by every operation. -/

namespace Sys2Proof.Machine

variable {α : Type}

@[simp] theorem mget_mdel_same (d : α) (m : SMap α) (k : Nat) : mget d (mdel m k) k = d := by
  induction m with
  | nil => rfl
  | cons x m ih => simp only [mdel]; split <;> simp_all [mget]

theorem mget_mdel_ne (d : α) (m : SMap α) {k j : Nat} (h : j ≠ k) : mget d (mdel m k) j = mget d m j := by
  induction m with
  | nil => rfl
  | cons x m ih => simp only [mdel]; split <;> simp_all [mget]; omega

@[simp] theorem mget_mput_same (d : α) (m : SMap α) (k : Nat) (v : α) : mget d (mput m k v) k = v := by
  induction m with
  | nil => simp [mput, mget]
  | cons x m ih => simp only [mput]; split <;> [simp [mget]; (split <;> simp_all [mget])]

theorem mget_mput_ne (d : α) (m : SMap α) {k j : Nat} (v : α) (h : j ≠ k) : mget d (mput m k v) j = mget d m j := by
  induction m with
  | nil => simp [mput, mget, h.symm]
  | cons x m ih =>
    simp only [mput]
    split
    · simp [mget, h.symm]
    · split
      · simp_all [mget, h.symm]
      · simp only [mget, ih]

variable [DecidableEq α]

/-- A read after a write of the same key gives the value written. -/
@[simp] theorem mget_mset_same (d : α) (m : SMap α) (k : Nat) (v : α) : mget d (mset d m k v) k = v := by
  unfold mset; split <;> simp_all

/-- A write leaves every other key alone. -/
theorem mget_mset_ne (d : α) (m : SMap α) {k j : Nat} (v : α) (h : j ≠ k) : mget d (mset d m k v) j = mget d m j := by
  unfold mset; split <;> [exact mget_mdel_ne d m h; exact mget_mput_ne d m v h]

theorem mget_mset (d : α) (m : SMap α) (k j : Nat) (v : α) : mget d (mset d m k v) j = if j = k then v else mget d m j := by
  split
  · subst_vars; simp
  · exact mget_mset_ne d m v ‹_›

/-! ## The canonical form -/

theorem mwfFrom_mono {d : α} {a b : Nat} {m : SMap α} (h : b ≤ a) (hm : mwfFrom d a m = true) : mwfFrom d b m = true := by
  cases m with
  | nil => rfl
  | cons x m => simp only [mwfFrom, Bool.and_eq_true, decide_eq_true_eq] at *; exact ⟨⟨by omega, hm.1.2⟩, hm.2⟩

theorem mwfFrom_mput {d : α} {lo k : Nat} {m : SMap α} {v : α} (hk : lo ≤ k) (hv : v ≠ d) (hm : mwfFrom d lo m = true) :
    mwfFrom d lo (mput m k v) = true := by
  induction m generalizing lo with
  | nil => simp [mput, mwfFrom, hk, hv]
  | cons x m ih =>
    simp only [mwfFrom, Bool.and_eq_true, decide_eq_true_eq] at hm
    simp only [mput]
    split
    · simp [mwfFrom, hk, hv, hm.1.2, hm.2]; omega
    · split
      · subst_vars; simp [mwfFrom, hm.1.1, hv, hm.2]
      · simp only [mwfFrom, Bool.and_eq_true, decide_eq_true_eq]
        exact ⟨hm.1, ih (by omega) hm.2⟩

theorem mwfFrom_mdel {d : α} {lo k : Nat} {m : SMap α} (hm : mwfFrom d lo m = true) : mwfFrom d lo (mdel m k) = true := by
  induction m generalizing lo with
  | nil => rfl
  | cons x m ih =>
    simp only [mwfFrom, Bool.and_eq_true, decide_eq_true_eq] at hm
    simp only [mdel]
    split
    · exact mwfFrom_mono (by omega) (ih hm.2)
    · simp only [mwfFrom, Bool.and_eq_true, decide_eq_true_eq]; exact ⟨hm.1, ih hm.2⟩

theorem mwfFrom_filter {d : α} {lo : Nat} {m : SMap α} (p : Nat × α → Bool) (hm : mwfFrom d lo m = true) :
    mwfFrom d lo (m.filter p) = true := by
  induction m generalizing lo with
  | nil => rfl
  | cons x m ih =>
    simp only [mwfFrom, Bool.and_eq_true, decide_eq_true_eq] at hm
    simp only [List.filter_cons]
    split
    · simp only [mwfFrom, Bool.and_eq_true, decide_eq_true_eq]; exact ⟨hm.1, ih hm.2⟩
    · exact mwfFrom_mono (by omega) (ih hm.2)

/-- A write keeps the canonical form. -/
theorem mwf_mset {d : α} {m : SMap α} (k : Nat) (v : α) (hm : mwf d m = true) : mwf d (mset d m k v) = true := by
  unfold mset; split
  · exact mwfFrom_mdel hm
  · exact mwfFrom_mput (Nat.zero_le k) ‹_› hm

theorem mwf_filter {d : α} {m : SMap α} (p : Nat × α → Bool) (hm : mwf d m = true) : mwf d (m.filter p) = true := mwfFrom_filter p hm

theorem mget_below {d : α} {lo k : Nat} {m : SMap α} (hk : k < lo) (hm : mwfFrom d lo m = true) : mget d m k = d := by
  induction m generalizing lo with
  | nil => rfl
  | cons x m ih =>
    simp only [mwfFrom, Bool.and_eq_true, decide_eq_true_eq] at hm
    simp only [mget]; rw [if_neg (by omega)]; exact ih (by omega) hm.2

theorem mwfFrom_ext {d : α} {lo : Nat} {m n : SMap α} (hm : mwfFrom d lo m = true) (hn : mwfFrom d lo n = true)
    (h : ∀ k, mget d m k = mget d n k) : m = n := by
  induction m generalizing lo n with
  | nil =>
    cases n with
    | nil => rfl
    | cons y n =>
      simp only [mwfFrom, Bool.and_eq_true, decide_eq_true_eq] at hn
      exact absurd (by simpa [mget] using (h y.1).symm) hn.1.2
  | cons x m ih =>
    simp only [mwfFrom, Bool.and_eq_true, decide_eq_true_eq] at hm
    cases n with
    | nil => exact absurd (by simpa [mget] using h x.1) hm.1.2
    | cons y n =>
      simp only [mwfFrom, Bool.and_eq_true, decide_eq_true_eq] at hn
      have hxy : x.1 = y.1 := by
        rcases Nat.lt_trichotomy x.1 y.1 with hl | he | hg
        · have := h x.1
          simp only [mget, if_true] at this
          rw [if_neg (by omega), mget_below (by omega) hn.2] at this
          exact absurd this hm.1.2
        · exact he
        · have := h y.1
          simp only [mget, if_true] at this
          rw [if_neg (by omega), mget_below (by omega) hm.2] at this
          exact absurd this.symm hn.1.2
      have hv : x.2 = y.2 := by simpa [mget, hxy] using h x.1
      have ht : m = n := by
        refine ih hm.2 (by simpa [hxy] using hn.2) (fun k => ?_)
        by_cases hk : k < x.1 + 1
        · rw [mget_below hk hm.2, mget_below (by omega) hn.2]
        · have := h k
          simp only [mget] at this
          rwa [if_neg (by omega), if_neg (by omega)] at this
      exact List.cons_eq_cons.mpr ⟨Prod.ext hxy hv, ht⟩

/-- Two maps in canonical form that read alike are equal data. -/
theorem mwf_ext {d : α} {m n : SMap α} (hm : mwf d m = true) (hn : mwf d n = true) (h : ∀ k, mget d m k = mget d n k) : m = n :=
  mwfFrom_ext hm hn h

end Sys2Proof.Machine
end

