-- ==== Sys2Proof/Laws/State.lean ====
section
/-! SUPPORT. What each update of the state leaves alone, field by field, and what it reads back. -/

namespace Sys2Proof.Machine

/-! ### State.setWave -/
@[simp] theorem State.setWave_agenda (s : State) (id : Nat) (w : Wave) : (s.setWave id w).agenda = s.agenda := rfl
@[simp] theorem State.setWave_cur (s : State) (id : Nat) (w : Wave) : (s.setWave id w).cur = s.cur := rfl
@[simp] theorem State.setWave_fresh (s : State) (id : Nat) (w : Wave) : (s.setWave id w).fresh = s.fresh := rfl
@[simp] theorem State.setWave_cycle (s : State) (id : Nat) (w : Wave) : (s.setWave id w).cycle = s.cycle := rfl
@[simp] theorem State.setWave_power (s : State) (id : Nat) (w : Wave) : (s.setWave id w).power = s.power := rfl
@[simp] theorem State.setWave_units (s : State) (id : Nat) (w : Wave) : (s.setWave id w).units = s.units := rfl
@[simp] theorem State.setWave_launches (s : State) (id : Nat) (w : Wave) : (s.setWave id w).launches = s.launches := rfl
@[simp] theorem State.setWave_pend (s : State) (id : Nat) (w : Wave) : (s.setWave id w).pend = s.pend := rfl
@[simp] theorem State.setWave_saved (s : State) (id : Nat) (w : Wave) : (s.setWave id w).saved = s.saved := rfl
@[simp] theorem State.setWave_cores (s : State) (id : Nat) (w : Wave) : (s.setWave id w).cores = s.cores := rfl
@[simp] theorem State.setWave_lmap (s : State) (id : Nat) (w : Wave) : (s.setWave id w).lmap = s.lmap := rfl
@[simp] theorem State.setWave_vaults (s : State) (id : Nat) (w : Wave) : (s.setWave id w).vaults = s.vaults := rfl
@[simp] theorem State.setWave_dies (s : State) (id : Nat) (w : Wave) : (s.setWave id w).dies = s.dies := rfl
@[simp] theorem State.setWave_vfs (s : State) (id : Nat) (w : Wave) : (s.setWave id w).vfs = s.vfs := rfl
@[simp] theorem State.setWave_mem (s : State) (id : Nat) (w : Wave) : (s.setWave id w).mem = s.mem := rfl
@[simp] theorem State.setWave_poison (s : State) (id : Nat) (w : Wave) : (s.setWave id w).poison = s.poison := rfl
@[simp] theorem State.setWave_present (s : State) (id : Nat) (w : Wave) : (s.setWave id w).present = s.present := rfl
@[simp] theorem State.setWave_recs (s : State) (id : Nat) (w : Wave) : (s.setWave id w).recs = s.recs := rfl
@[simp] theorem State.setWave_ids (s : State) (id : Nat) (w : Wave) : (s.setWave id w).ids = s.ids := rfl
@[simp] theorem State.setWave_homes (s : State) (id : Nat) (w : Wave) : (s.setWave id w).homes = s.homes := rfl
@[simp] theorem State.setWave_claims (s : State) (id : Nat) (w : Wave) : (s.setWave id w).claims = s.claims := rfl
@[simp] theorem State.setWave_verdicts (s : State) (id : Nat) (w : Wave) : (s.setWave id w).verdicts = s.verdicts := rfl
@[simp] theorem State.setWave_drains (s : State) (id : Nat) (w : Wave) : (s.setWave id w).drains = s.drains := rfl
@[simp] theorem State.setWave_acks (s : State) (id : Nat) (w : Wave) : (s.setWave id w).acks = s.acks := rfl
@[simp] theorem State.setWave_changes (s : State) (id : Nat) (w : Wave) : (s.setWave id w).changes = s.changes := rfl
@[simp] theorem State.setWave_purges (s : State) (id : Nat) (w : Wave) : (s.setWave id w).purges = s.purges := rfl
@[simp] theorem State.setWave_rewrites (s : State) (id : Nat) (w : Wave) : (s.setWave id w).rewrites = s.rewrites := rfl
@[simp] theorem State.setWave_ends (s : State) (id : Nat) (w : Wave) : (s.setWave id w).ends = s.ends := rfl
@[simp] theorem State.setWave_hw (s : State) (id : Nat) (w : Wave) : (s.setWave id w).hw = s.hw := rfl
@[simp] theorem State.setWave_winOld (s : State) (id : Nat) (w : Wave) : (s.setWave id w).winOld = s.winOld := rfl
@[simp] theorem State.setWave_image (s : State) (id : Nat) (w : Wave) : (s.setWave id w).image = s.image := rfl
@[simp] theorem State.setWave_tier2Cxl (s : State) (id : Nat) (w : Wave) : (s.setWave id w).tier2Cxl = s.tier2Cxl := rfl
@[simp] theorem State.setWave_reserve (s : State) (id : Nat) (w : Wave) : (s.setWave id w).reserve = s.reserve := rfl
@[simp] theorem State.setWave_mlog (s : State) (id : Nat) (w : Wave) : (s.setWave id w).mlog = s.mlog := rfl
@[simp] theorem State.setWave_spdm (s : State) (id : Nat) (w : Wave) : (s.setWave id w).spdm = s.spdm := rfl
@[simp] theorem State.setWave_outbox (s : State) (id : Nat) (w : Wave) : (s.setWave id w).outbox = s.outbox := rfl
@[simp] theorem State.setWave_reqs (s : State) (id : Nat) (w : Wave) : (s.setWave id w).reqs = s.reqs := rfl
@[simp] theorem State.setWave_retries (s : State) (id : Nat) (w : Wave) : (s.setWave id w).retries = s.retries := rfl
@[simp] theorem State.setWave_switching (s : State) (id : Nat) (w : Wave) : (s.setWave id w).switching = s.switching := rfl
@[simp] theorem State.setWave_hurdles (s : State) (id : Nat) (w : Wave) : (s.setWave id w).hurdles = s.hurdles := rfl
@[simp] theorem State.setWave_hold (s : State) (id : Nat) (w : Wave) : (s.setWave id w).hold = s.hold := rfl
@[simp] theorem State.setWave_devKey (s : State) (id : Nat) (w : Wave) : (s.setWave id w).devKey = s.devKey := rfl

/-! ### State.modWave -/
@[simp] theorem State.modWave_agenda (s : State) (id : Nat) (f : Wave → Wave) : (s.modWave id f).agenda = s.agenda := rfl
@[simp] theorem State.modWave_cur (s : State) (id : Nat) (f : Wave → Wave) : (s.modWave id f).cur = s.cur := rfl
@[simp] theorem State.modWave_fresh (s : State) (id : Nat) (f : Wave → Wave) : (s.modWave id f).fresh = s.fresh := rfl
@[simp] theorem State.modWave_cycle (s : State) (id : Nat) (f : Wave → Wave) : (s.modWave id f).cycle = s.cycle := rfl
@[simp] theorem State.modWave_power (s : State) (id : Nat) (f : Wave → Wave) : (s.modWave id f).power = s.power := rfl
@[simp] theorem State.modWave_units (s : State) (id : Nat) (f : Wave → Wave) : (s.modWave id f).units = s.units := rfl
@[simp] theorem State.modWave_launches (s : State) (id : Nat) (f : Wave → Wave) : (s.modWave id f).launches = s.launches := rfl
@[simp] theorem State.modWave_pend (s : State) (id : Nat) (f : Wave → Wave) : (s.modWave id f).pend = s.pend := rfl
@[simp] theorem State.modWave_saved (s : State) (id : Nat) (f : Wave → Wave) : (s.modWave id f).saved = s.saved := rfl
@[simp] theorem State.modWave_cores (s : State) (id : Nat) (f : Wave → Wave) : (s.modWave id f).cores = s.cores := rfl
@[simp] theorem State.modWave_lmap (s : State) (id : Nat) (f : Wave → Wave) : (s.modWave id f).lmap = s.lmap := rfl
@[simp] theorem State.modWave_vaults (s : State) (id : Nat) (f : Wave → Wave) : (s.modWave id f).vaults = s.vaults := rfl
@[simp] theorem State.modWave_dies (s : State) (id : Nat) (f : Wave → Wave) : (s.modWave id f).dies = s.dies := rfl
@[simp] theorem State.modWave_vfs (s : State) (id : Nat) (f : Wave → Wave) : (s.modWave id f).vfs = s.vfs := rfl
@[simp] theorem State.modWave_mem (s : State) (id : Nat) (f : Wave → Wave) : (s.modWave id f).mem = s.mem := rfl
@[simp] theorem State.modWave_poison (s : State) (id : Nat) (f : Wave → Wave) : (s.modWave id f).poison = s.poison := rfl
@[simp] theorem State.modWave_present (s : State) (id : Nat) (f : Wave → Wave) : (s.modWave id f).present = s.present := rfl
@[simp] theorem State.modWave_recs (s : State) (id : Nat) (f : Wave → Wave) : (s.modWave id f).recs = s.recs := rfl
@[simp] theorem State.modWave_ids (s : State) (id : Nat) (f : Wave → Wave) : (s.modWave id f).ids = s.ids := rfl
@[simp] theorem State.modWave_homes (s : State) (id : Nat) (f : Wave → Wave) : (s.modWave id f).homes = s.homes := rfl
@[simp] theorem State.modWave_claims (s : State) (id : Nat) (f : Wave → Wave) : (s.modWave id f).claims = s.claims := rfl
@[simp] theorem State.modWave_verdicts (s : State) (id : Nat) (f : Wave → Wave) : (s.modWave id f).verdicts = s.verdicts := rfl
@[simp] theorem State.modWave_drains (s : State) (id : Nat) (f : Wave → Wave) : (s.modWave id f).drains = s.drains := rfl
@[simp] theorem State.modWave_acks (s : State) (id : Nat) (f : Wave → Wave) : (s.modWave id f).acks = s.acks := rfl
@[simp] theorem State.modWave_changes (s : State) (id : Nat) (f : Wave → Wave) : (s.modWave id f).changes = s.changes := rfl
@[simp] theorem State.modWave_purges (s : State) (id : Nat) (f : Wave → Wave) : (s.modWave id f).purges = s.purges := rfl
@[simp] theorem State.modWave_rewrites (s : State) (id : Nat) (f : Wave → Wave) : (s.modWave id f).rewrites = s.rewrites := rfl
@[simp] theorem State.modWave_ends (s : State) (id : Nat) (f : Wave → Wave) : (s.modWave id f).ends = s.ends := rfl
@[simp] theorem State.modWave_hw (s : State) (id : Nat) (f : Wave → Wave) : (s.modWave id f).hw = s.hw := rfl
@[simp] theorem State.modWave_winOld (s : State) (id : Nat) (f : Wave → Wave) : (s.modWave id f).winOld = s.winOld := rfl
@[simp] theorem State.modWave_image (s : State) (id : Nat) (f : Wave → Wave) : (s.modWave id f).image = s.image := rfl
@[simp] theorem State.modWave_tier2Cxl (s : State) (id : Nat) (f : Wave → Wave) : (s.modWave id f).tier2Cxl = s.tier2Cxl := rfl
@[simp] theorem State.modWave_reserve (s : State) (id : Nat) (f : Wave → Wave) : (s.modWave id f).reserve = s.reserve := rfl
@[simp] theorem State.modWave_mlog (s : State) (id : Nat) (f : Wave → Wave) : (s.modWave id f).mlog = s.mlog := rfl
@[simp] theorem State.modWave_spdm (s : State) (id : Nat) (f : Wave → Wave) : (s.modWave id f).spdm = s.spdm := rfl
@[simp] theorem State.modWave_outbox (s : State) (id : Nat) (f : Wave → Wave) : (s.modWave id f).outbox = s.outbox := rfl
@[simp] theorem State.modWave_reqs (s : State) (id : Nat) (f : Wave → Wave) : (s.modWave id f).reqs = s.reqs := rfl
@[simp] theorem State.modWave_retries (s : State) (id : Nat) (f : Wave → Wave) : (s.modWave id f).retries = s.retries := rfl
@[simp] theorem State.modWave_switching (s : State) (id : Nat) (f : Wave → Wave) : (s.modWave id f).switching = s.switching := rfl
@[simp] theorem State.modWave_hurdles (s : State) (id : Nat) (f : Wave → Wave) : (s.modWave id f).hurdles = s.hurdles := rfl
@[simp] theorem State.modWave_hold (s : State) (id : Nat) (f : Wave → Wave) : (s.modWave id f).hold = s.hold := rfl
@[simp] theorem State.modWave_devKey (s : State) (id : Nat) (f : Wave → Wave) : (s.modWave id f).devKey = s.devKey := rfl

/-! ### State.setUnit -/
@[simp] theorem State.setUnit_agenda (s : State) (u : Nat) (r : Option UnitR) : (s.setUnit u r).agenda = s.agenda := rfl
@[simp] theorem State.setUnit_cur (s : State) (u : Nat) (r : Option UnitR) : (s.setUnit u r).cur = s.cur := rfl
@[simp] theorem State.setUnit_fresh (s : State) (u : Nat) (r : Option UnitR) : (s.setUnit u r).fresh = s.fresh := rfl
@[simp] theorem State.setUnit_cycle (s : State) (u : Nat) (r : Option UnitR) : (s.setUnit u r).cycle = s.cycle := rfl
@[simp] theorem State.setUnit_power (s : State) (u : Nat) (r : Option UnitR) : (s.setUnit u r).power = s.power := rfl
@[simp] theorem State.setUnit_waves (s : State) (u : Nat) (r : Option UnitR) : (s.setUnit u r).waves = s.waves := rfl
@[simp] theorem State.setUnit_launches (s : State) (u : Nat) (r : Option UnitR) : (s.setUnit u r).launches = s.launches := rfl
@[simp] theorem State.setUnit_pend (s : State) (u : Nat) (r : Option UnitR) : (s.setUnit u r).pend = s.pend := rfl
@[simp] theorem State.setUnit_saved (s : State) (u : Nat) (r : Option UnitR) : (s.setUnit u r).saved = s.saved := rfl
@[simp] theorem State.setUnit_cores (s : State) (u : Nat) (r : Option UnitR) : (s.setUnit u r).cores = s.cores := rfl
@[simp] theorem State.setUnit_lmap (s : State) (u : Nat) (r : Option UnitR) : (s.setUnit u r).lmap = s.lmap := rfl
@[simp] theorem State.setUnit_vaults (s : State) (u : Nat) (r : Option UnitR) : (s.setUnit u r).vaults = s.vaults := rfl
@[simp] theorem State.setUnit_dies (s : State) (u : Nat) (r : Option UnitR) : (s.setUnit u r).dies = s.dies := rfl
@[simp] theorem State.setUnit_vfs (s : State) (u : Nat) (r : Option UnitR) : (s.setUnit u r).vfs = s.vfs := rfl
@[simp] theorem State.setUnit_mem (s : State) (u : Nat) (r : Option UnitR) : (s.setUnit u r).mem = s.mem := rfl
@[simp] theorem State.setUnit_poison (s : State) (u : Nat) (r : Option UnitR) : (s.setUnit u r).poison = s.poison := rfl
@[simp] theorem State.setUnit_present (s : State) (u : Nat) (r : Option UnitR) : (s.setUnit u r).present = s.present := rfl
@[simp] theorem State.setUnit_recs (s : State) (u : Nat) (r : Option UnitR) : (s.setUnit u r).recs = s.recs := rfl
@[simp] theorem State.setUnit_ids (s : State) (u : Nat) (r : Option UnitR) : (s.setUnit u r).ids = s.ids := rfl
@[simp] theorem State.setUnit_homes (s : State) (u : Nat) (r : Option UnitR) : (s.setUnit u r).homes = s.homes := rfl
@[simp] theorem State.setUnit_claims (s : State) (u : Nat) (r : Option UnitR) : (s.setUnit u r).claims = s.claims := rfl
@[simp] theorem State.setUnit_verdicts (s : State) (u : Nat) (r : Option UnitR) : (s.setUnit u r).verdicts = s.verdicts := rfl
@[simp] theorem State.setUnit_drains (s : State) (u : Nat) (r : Option UnitR) : (s.setUnit u r).drains = s.drains := rfl
@[simp] theorem State.setUnit_acks (s : State) (u : Nat) (r : Option UnitR) : (s.setUnit u r).acks = s.acks := rfl
@[simp] theorem State.setUnit_changes (s : State) (u : Nat) (r : Option UnitR) : (s.setUnit u r).changes = s.changes := rfl
@[simp] theorem State.setUnit_purges (s : State) (u : Nat) (r : Option UnitR) : (s.setUnit u r).purges = s.purges := rfl
@[simp] theorem State.setUnit_rewrites (s : State) (u : Nat) (r : Option UnitR) : (s.setUnit u r).rewrites = s.rewrites := rfl
@[simp] theorem State.setUnit_ends (s : State) (u : Nat) (r : Option UnitR) : (s.setUnit u r).ends = s.ends := rfl
@[simp] theorem State.setUnit_hw (s : State) (u : Nat) (r : Option UnitR) : (s.setUnit u r).hw = s.hw := rfl
@[simp] theorem State.setUnit_winOld (s : State) (u : Nat) (r : Option UnitR) : (s.setUnit u r).winOld = s.winOld := rfl
@[simp] theorem State.setUnit_image (s : State) (u : Nat) (r : Option UnitR) : (s.setUnit u r).image = s.image := rfl
@[simp] theorem State.setUnit_tier2Cxl (s : State) (u : Nat) (r : Option UnitR) : (s.setUnit u r).tier2Cxl = s.tier2Cxl := rfl
@[simp] theorem State.setUnit_reserve (s : State) (u : Nat) (r : Option UnitR) : (s.setUnit u r).reserve = s.reserve := rfl
@[simp] theorem State.setUnit_mlog (s : State) (u : Nat) (r : Option UnitR) : (s.setUnit u r).mlog = s.mlog := rfl
@[simp] theorem State.setUnit_spdm (s : State) (u : Nat) (r : Option UnitR) : (s.setUnit u r).spdm = s.spdm := rfl
@[simp] theorem State.setUnit_outbox (s : State) (u : Nat) (r : Option UnitR) : (s.setUnit u r).outbox = s.outbox := rfl
@[simp] theorem State.setUnit_reqs (s : State) (u : Nat) (r : Option UnitR) : (s.setUnit u r).reqs = s.reqs := rfl
@[simp] theorem State.setUnit_retries (s : State) (u : Nat) (r : Option UnitR) : (s.setUnit u r).retries = s.retries := rfl
@[simp] theorem State.setUnit_switching (s : State) (u : Nat) (r : Option UnitR) : (s.setUnit u r).switching = s.switching := rfl
@[simp] theorem State.setUnit_hurdles (s : State) (u : Nat) (r : Option UnitR) : (s.setUnit u r).hurdles = s.hurdles := rfl
@[simp] theorem State.setUnit_hold (s : State) (u : Nat) (r : Option UnitR) : (s.setUnit u r).hold = s.hold := rfl
@[simp] theorem State.setUnit_devKey (s : State) (u : Nat) (r : Option UnitR) : (s.setUnit u r).devKey = s.devKey := rfl

/-! ### State.modUnit -/
@[simp] theorem State.modUnit_agenda (s : State) (u : Nat) (f : UnitR → UnitR) : (s.modUnit u f).agenda = s.agenda := by unfold State.modUnit; split <;> rfl
@[simp] theorem State.modUnit_cur (s : State) (u : Nat) (f : UnitR → UnitR) : (s.modUnit u f).cur = s.cur := by unfold State.modUnit; split <;> rfl
@[simp] theorem State.modUnit_fresh (s : State) (u : Nat) (f : UnitR → UnitR) : (s.modUnit u f).fresh = s.fresh := by unfold State.modUnit; split <;> rfl
@[simp] theorem State.modUnit_cycle (s : State) (u : Nat) (f : UnitR → UnitR) : (s.modUnit u f).cycle = s.cycle := by unfold State.modUnit; split <;> rfl
@[simp] theorem State.modUnit_power (s : State) (u : Nat) (f : UnitR → UnitR) : (s.modUnit u f).power = s.power := by unfold State.modUnit; split <;> rfl
@[simp] theorem State.modUnit_waves (s : State) (u : Nat) (f : UnitR → UnitR) : (s.modUnit u f).waves = s.waves := by unfold State.modUnit; split <;> rfl
@[simp] theorem State.modUnit_launches (s : State) (u : Nat) (f : UnitR → UnitR) : (s.modUnit u f).launches = s.launches := by unfold State.modUnit; split <;> rfl
@[simp] theorem State.modUnit_pend (s : State) (u : Nat) (f : UnitR → UnitR) : (s.modUnit u f).pend = s.pend := by unfold State.modUnit; split <;> rfl
@[simp] theorem State.modUnit_saved (s : State) (u : Nat) (f : UnitR → UnitR) : (s.modUnit u f).saved = s.saved := by unfold State.modUnit; split <;> rfl
@[simp] theorem State.modUnit_cores (s : State) (u : Nat) (f : UnitR → UnitR) : (s.modUnit u f).cores = s.cores := by unfold State.modUnit; split <;> rfl
@[simp] theorem State.modUnit_lmap (s : State) (u : Nat) (f : UnitR → UnitR) : (s.modUnit u f).lmap = s.lmap := by unfold State.modUnit; split <;> rfl
@[simp] theorem State.modUnit_vaults (s : State) (u : Nat) (f : UnitR → UnitR) : (s.modUnit u f).vaults = s.vaults := by unfold State.modUnit; split <;> rfl
@[simp] theorem State.modUnit_dies (s : State) (u : Nat) (f : UnitR → UnitR) : (s.modUnit u f).dies = s.dies := by unfold State.modUnit; split <;> rfl
@[simp] theorem State.modUnit_vfs (s : State) (u : Nat) (f : UnitR → UnitR) : (s.modUnit u f).vfs = s.vfs := by unfold State.modUnit; split <;> rfl
@[simp] theorem State.modUnit_mem (s : State) (u : Nat) (f : UnitR → UnitR) : (s.modUnit u f).mem = s.mem := by unfold State.modUnit; split <;> rfl
@[simp] theorem State.modUnit_poison (s : State) (u : Nat) (f : UnitR → UnitR) : (s.modUnit u f).poison = s.poison := by unfold State.modUnit; split <;> rfl
@[simp] theorem State.modUnit_present (s : State) (u : Nat) (f : UnitR → UnitR) : (s.modUnit u f).present = s.present := by unfold State.modUnit; split <;> rfl
@[simp] theorem State.modUnit_recs (s : State) (u : Nat) (f : UnitR → UnitR) : (s.modUnit u f).recs = s.recs := by unfold State.modUnit; split <;> rfl
@[simp] theorem State.modUnit_ids (s : State) (u : Nat) (f : UnitR → UnitR) : (s.modUnit u f).ids = s.ids := by unfold State.modUnit; split <;> rfl
@[simp] theorem State.modUnit_homes (s : State) (u : Nat) (f : UnitR → UnitR) : (s.modUnit u f).homes = s.homes := by unfold State.modUnit; split <;> rfl
@[simp] theorem State.modUnit_claims (s : State) (u : Nat) (f : UnitR → UnitR) : (s.modUnit u f).claims = s.claims := by unfold State.modUnit; split <;> rfl
@[simp] theorem State.modUnit_verdicts (s : State) (u : Nat) (f : UnitR → UnitR) : (s.modUnit u f).verdicts = s.verdicts := by unfold State.modUnit; split <;> rfl
@[simp] theorem State.modUnit_drains (s : State) (u : Nat) (f : UnitR → UnitR) : (s.modUnit u f).drains = s.drains := by unfold State.modUnit; split <;> rfl
@[simp] theorem State.modUnit_acks (s : State) (u : Nat) (f : UnitR → UnitR) : (s.modUnit u f).acks = s.acks := by unfold State.modUnit; split <;> rfl
@[simp] theorem State.modUnit_changes (s : State) (u : Nat) (f : UnitR → UnitR) : (s.modUnit u f).changes = s.changes := by unfold State.modUnit; split <;> rfl
@[simp] theorem State.modUnit_purges (s : State) (u : Nat) (f : UnitR → UnitR) : (s.modUnit u f).purges = s.purges := by unfold State.modUnit; split <;> rfl
@[simp] theorem State.modUnit_rewrites (s : State) (u : Nat) (f : UnitR → UnitR) : (s.modUnit u f).rewrites = s.rewrites := by unfold State.modUnit; split <;> rfl
@[simp] theorem State.modUnit_ends (s : State) (u : Nat) (f : UnitR → UnitR) : (s.modUnit u f).ends = s.ends := by unfold State.modUnit; split <;> rfl
@[simp] theorem State.modUnit_hw (s : State) (u : Nat) (f : UnitR → UnitR) : (s.modUnit u f).hw = s.hw := by unfold State.modUnit; split <;> rfl
@[simp] theorem State.modUnit_winOld (s : State) (u : Nat) (f : UnitR → UnitR) : (s.modUnit u f).winOld = s.winOld := by unfold State.modUnit; split <;> rfl
@[simp] theorem State.modUnit_image (s : State) (u : Nat) (f : UnitR → UnitR) : (s.modUnit u f).image = s.image := by unfold State.modUnit; split <;> rfl
@[simp] theorem State.modUnit_tier2Cxl (s : State) (u : Nat) (f : UnitR → UnitR) : (s.modUnit u f).tier2Cxl = s.tier2Cxl := by unfold State.modUnit; split <;> rfl
@[simp] theorem State.modUnit_reserve (s : State) (u : Nat) (f : UnitR → UnitR) : (s.modUnit u f).reserve = s.reserve := by unfold State.modUnit; split <;> rfl
@[simp] theorem State.modUnit_mlog (s : State) (u : Nat) (f : UnitR → UnitR) : (s.modUnit u f).mlog = s.mlog := by unfold State.modUnit; split <;> rfl
@[simp] theorem State.modUnit_spdm (s : State) (u : Nat) (f : UnitR → UnitR) : (s.modUnit u f).spdm = s.spdm := by unfold State.modUnit; split <;> rfl
@[simp] theorem State.modUnit_outbox (s : State) (u : Nat) (f : UnitR → UnitR) : (s.modUnit u f).outbox = s.outbox := by unfold State.modUnit; split <;> rfl
@[simp] theorem State.modUnit_reqs (s : State) (u : Nat) (f : UnitR → UnitR) : (s.modUnit u f).reqs = s.reqs := by unfold State.modUnit; split <;> rfl
@[simp] theorem State.modUnit_retries (s : State) (u : Nat) (f : UnitR → UnitR) : (s.modUnit u f).retries = s.retries := by unfold State.modUnit; split <;> rfl
@[simp] theorem State.modUnit_switching (s : State) (u : Nat) (f : UnitR → UnitR) : (s.modUnit u f).switching = s.switching := by unfold State.modUnit; split <;> rfl
@[simp] theorem State.modUnit_hurdles (s : State) (u : Nat) (f : UnitR → UnitR) : (s.modUnit u f).hurdles = s.hurdles := by unfold State.modUnit; split <;> rfl
@[simp] theorem State.modUnit_hold (s : State) (u : Nat) (f : UnitR → UnitR) : (s.modUnit u f).hold = s.hold := by unfold State.modUnit; split <;> rfl
@[simp] theorem State.modUnit_devKey (s : State) (u : Nat) (f : UnitR → UnitR) : (s.modUnit u f).devKey = s.devKey := by unfold State.modUnit; split <;> rfl

/-! ### State.setLaunch -/
@[simp] theorem State.setLaunch_agenda (s : State) (l : Nat) (r : Option Launch) : (s.setLaunch l r).agenda = s.agenda := rfl
@[simp] theorem State.setLaunch_cur (s : State) (l : Nat) (r : Option Launch) : (s.setLaunch l r).cur = s.cur := rfl
@[simp] theorem State.setLaunch_fresh (s : State) (l : Nat) (r : Option Launch) : (s.setLaunch l r).fresh = s.fresh := rfl
@[simp] theorem State.setLaunch_cycle (s : State) (l : Nat) (r : Option Launch) : (s.setLaunch l r).cycle = s.cycle := rfl
@[simp] theorem State.setLaunch_power (s : State) (l : Nat) (r : Option Launch) : (s.setLaunch l r).power = s.power := rfl
@[simp] theorem State.setLaunch_waves (s : State) (l : Nat) (r : Option Launch) : (s.setLaunch l r).waves = s.waves := rfl
@[simp] theorem State.setLaunch_units (s : State) (l : Nat) (r : Option Launch) : (s.setLaunch l r).units = s.units := rfl
@[simp] theorem State.setLaunch_pend (s : State) (l : Nat) (r : Option Launch) : (s.setLaunch l r).pend = s.pend := rfl
@[simp] theorem State.setLaunch_saved (s : State) (l : Nat) (r : Option Launch) : (s.setLaunch l r).saved = s.saved := rfl
@[simp] theorem State.setLaunch_cores (s : State) (l : Nat) (r : Option Launch) : (s.setLaunch l r).cores = s.cores := rfl
@[simp] theorem State.setLaunch_lmap (s : State) (l : Nat) (r : Option Launch) : (s.setLaunch l r).lmap = s.lmap := rfl
@[simp] theorem State.setLaunch_vaults (s : State) (l : Nat) (r : Option Launch) : (s.setLaunch l r).vaults = s.vaults := rfl
@[simp] theorem State.setLaunch_dies (s : State) (l : Nat) (r : Option Launch) : (s.setLaunch l r).dies = s.dies := rfl
@[simp] theorem State.setLaunch_vfs (s : State) (l : Nat) (r : Option Launch) : (s.setLaunch l r).vfs = s.vfs := rfl
@[simp] theorem State.setLaunch_mem (s : State) (l : Nat) (r : Option Launch) : (s.setLaunch l r).mem = s.mem := rfl
@[simp] theorem State.setLaunch_poison (s : State) (l : Nat) (r : Option Launch) : (s.setLaunch l r).poison = s.poison := rfl
@[simp] theorem State.setLaunch_present (s : State) (l : Nat) (r : Option Launch) : (s.setLaunch l r).present = s.present := rfl
@[simp] theorem State.setLaunch_recs (s : State) (l : Nat) (r : Option Launch) : (s.setLaunch l r).recs = s.recs := rfl
@[simp] theorem State.setLaunch_ids (s : State) (l : Nat) (r : Option Launch) : (s.setLaunch l r).ids = s.ids := rfl
@[simp] theorem State.setLaunch_homes (s : State) (l : Nat) (r : Option Launch) : (s.setLaunch l r).homes = s.homes := rfl
@[simp] theorem State.setLaunch_claims (s : State) (l : Nat) (r : Option Launch) : (s.setLaunch l r).claims = s.claims := rfl
@[simp] theorem State.setLaunch_verdicts (s : State) (l : Nat) (r : Option Launch) : (s.setLaunch l r).verdicts = s.verdicts := rfl
@[simp] theorem State.setLaunch_drains (s : State) (l : Nat) (r : Option Launch) : (s.setLaunch l r).drains = s.drains := rfl
@[simp] theorem State.setLaunch_acks (s : State) (l : Nat) (r : Option Launch) : (s.setLaunch l r).acks = s.acks := rfl
@[simp] theorem State.setLaunch_changes (s : State) (l : Nat) (r : Option Launch) : (s.setLaunch l r).changes = s.changes := rfl
@[simp] theorem State.setLaunch_purges (s : State) (l : Nat) (r : Option Launch) : (s.setLaunch l r).purges = s.purges := rfl
@[simp] theorem State.setLaunch_rewrites (s : State) (l : Nat) (r : Option Launch) : (s.setLaunch l r).rewrites = s.rewrites := rfl
@[simp] theorem State.setLaunch_ends (s : State) (l : Nat) (r : Option Launch) : (s.setLaunch l r).ends = s.ends := rfl
@[simp] theorem State.setLaunch_hw (s : State) (l : Nat) (r : Option Launch) : (s.setLaunch l r).hw = s.hw := rfl
@[simp] theorem State.setLaunch_winOld (s : State) (l : Nat) (r : Option Launch) : (s.setLaunch l r).winOld = s.winOld := rfl
@[simp] theorem State.setLaunch_image (s : State) (l : Nat) (r : Option Launch) : (s.setLaunch l r).image = s.image := rfl
@[simp] theorem State.setLaunch_tier2Cxl (s : State) (l : Nat) (r : Option Launch) : (s.setLaunch l r).tier2Cxl = s.tier2Cxl := rfl
@[simp] theorem State.setLaunch_reserve (s : State) (l : Nat) (r : Option Launch) : (s.setLaunch l r).reserve = s.reserve := rfl
@[simp] theorem State.setLaunch_mlog (s : State) (l : Nat) (r : Option Launch) : (s.setLaunch l r).mlog = s.mlog := rfl
@[simp] theorem State.setLaunch_spdm (s : State) (l : Nat) (r : Option Launch) : (s.setLaunch l r).spdm = s.spdm := rfl
@[simp] theorem State.setLaunch_outbox (s : State) (l : Nat) (r : Option Launch) : (s.setLaunch l r).outbox = s.outbox := rfl
@[simp] theorem State.setLaunch_reqs (s : State) (l : Nat) (r : Option Launch) : (s.setLaunch l r).reqs = s.reqs := rfl
@[simp] theorem State.setLaunch_retries (s : State) (l : Nat) (r : Option Launch) : (s.setLaunch l r).retries = s.retries := rfl
@[simp] theorem State.setLaunch_switching (s : State) (l : Nat) (r : Option Launch) : (s.setLaunch l r).switching = s.switching := rfl
@[simp] theorem State.setLaunch_hurdles (s : State) (l : Nat) (r : Option Launch) : (s.setLaunch l r).hurdles = s.hurdles := rfl
@[simp] theorem State.setLaunch_hold (s : State) (l : Nat) (r : Option Launch) : (s.setLaunch l r).hold = s.hold := rfl
@[simp] theorem State.setLaunch_devKey (s : State) (l : Nat) (r : Option Launch) : (s.setLaunch l r).devKey = s.devKey := rfl

/-! ### State.modLaunch -/
@[simp] theorem State.modLaunch_agenda (s : State) (l : Nat) (f : Launch → Launch) : (s.modLaunch l f).agenda = s.agenda := by unfold State.modLaunch; split <;> rfl
@[simp] theorem State.modLaunch_cur (s : State) (l : Nat) (f : Launch → Launch) : (s.modLaunch l f).cur = s.cur := by unfold State.modLaunch; split <;> rfl
@[simp] theorem State.modLaunch_fresh (s : State) (l : Nat) (f : Launch → Launch) : (s.modLaunch l f).fresh = s.fresh := by unfold State.modLaunch; split <;> rfl
@[simp] theorem State.modLaunch_cycle (s : State) (l : Nat) (f : Launch → Launch) : (s.modLaunch l f).cycle = s.cycle := by unfold State.modLaunch; split <;> rfl
@[simp] theorem State.modLaunch_power (s : State) (l : Nat) (f : Launch → Launch) : (s.modLaunch l f).power = s.power := by unfold State.modLaunch; split <;> rfl
@[simp] theorem State.modLaunch_waves (s : State) (l : Nat) (f : Launch → Launch) : (s.modLaunch l f).waves = s.waves := by unfold State.modLaunch; split <;> rfl
@[simp] theorem State.modLaunch_units (s : State) (l : Nat) (f : Launch → Launch) : (s.modLaunch l f).units = s.units := by unfold State.modLaunch; split <;> rfl
@[simp] theorem State.modLaunch_pend (s : State) (l : Nat) (f : Launch → Launch) : (s.modLaunch l f).pend = s.pend := by unfold State.modLaunch; split <;> rfl
@[simp] theorem State.modLaunch_saved (s : State) (l : Nat) (f : Launch → Launch) : (s.modLaunch l f).saved = s.saved := by unfold State.modLaunch; split <;> rfl
@[simp] theorem State.modLaunch_cores (s : State) (l : Nat) (f : Launch → Launch) : (s.modLaunch l f).cores = s.cores := by unfold State.modLaunch; split <;> rfl
@[simp] theorem State.modLaunch_lmap (s : State) (l : Nat) (f : Launch → Launch) : (s.modLaunch l f).lmap = s.lmap := by unfold State.modLaunch; split <;> rfl
@[simp] theorem State.modLaunch_vaults (s : State) (l : Nat) (f : Launch → Launch) : (s.modLaunch l f).vaults = s.vaults := by unfold State.modLaunch; split <;> rfl
@[simp] theorem State.modLaunch_dies (s : State) (l : Nat) (f : Launch → Launch) : (s.modLaunch l f).dies = s.dies := by unfold State.modLaunch; split <;> rfl
@[simp] theorem State.modLaunch_vfs (s : State) (l : Nat) (f : Launch → Launch) : (s.modLaunch l f).vfs = s.vfs := by unfold State.modLaunch; split <;> rfl
@[simp] theorem State.modLaunch_mem (s : State) (l : Nat) (f : Launch → Launch) : (s.modLaunch l f).mem = s.mem := by unfold State.modLaunch; split <;> rfl
@[simp] theorem State.modLaunch_poison (s : State) (l : Nat) (f : Launch → Launch) : (s.modLaunch l f).poison = s.poison := by unfold State.modLaunch; split <;> rfl
@[simp] theorem State.modLaunch_present (s : State) (l : Nat) (f : Launch → Launch) : (s.modLaunch l f).present = s.present := by unfold State.modLaunch; split <;> rfl
@[simp] theorem State.modLaunch_recs (s : State) (l : Nat) (f : Launch → Launch) : (s.modLaunch l f).recs = s.recs := by unfold State.modLaunch; split <;> rfl
@[simp] theorem State.modLaunch_ids (s : State) (l : Nat) (f : Launch → Launch) : (s.modLaunch l f).ids = s.ids := by unfold State.modLaunch; split <;> rfl
@[simp] theorem State.modLaunch_homes (s : State) (l : Nat) (f : Launch → Launch) : (s.modLaunch l f).homes = s.homes := by unfold State.modLaunch; split <;> rfl
@[simp] theorem State.modLaunch_claims (s : State) (l : Nat) (f : Launch → Launch) : (s.modLaunch l f).claims = s.claims := by unfold State.modLaunch; split <;> rfl
@[simp] theorem State.modLaunch_verdicts (s : State) (l : Nat) (f : Launch → Launch) : (s.modLaunch l f).verdicts = s.verdicts := by unfold State.modLaunch; split <;> rfl
@[simp] theorem State.modLaunch_drains (s : State) (l : Nat) (f : Launch → Launch) : (s.modLaunch l f).drains = s.drains := by unfold State.modLaunch; split <;> rfl
@[simp] theorem State.modLaunch_acks (s : State) (l : Nat) (f : Launch → Launch) : (s.modLaunch l f).acks = s.acks := by unfold State.modLaunch; split <;> rfl
@[simp] theorem State.modLaunch_changes (s : State) (l : Nat) (f : Launch → Launch) : (s.modLaunch l f).changes = s.changes := by unfold State.modLaunch; split <;> rfl
@[simp] theorem State.modLaunch_purges (s : State) (l : Nat) (f : Launch → Launch) : (s.modLaunch l f).purges = s.purges := by unfold State.modLaunch; split <;> rfl
@[simp] theorem State.modLaunch_rewrites (s : State) (l : Nat) (f : Launch → Launch) : (s.modLaunch l f).rewrites = s.rewrites := by unfold State.modLaunch; split <;> rfl
@[simp] theorem State.modLaunch_ends (s : State) (l : Nat) (f : Launch → Launch) : (s.modLaunch l f).ends = s.ends := by unfold State.modLaunch; split <;> rfl
@[simp] theorem State.modLaunch_hw (s : State) (l : Nat) (f : Launch → Launch) : (s.modLaunch l f).hw = s.hw := by unfold State.modLaunch; split <;> rfl
@[simp] theorem State.modLaunch_winOld (s : State) (l : Nat) (f : Launch → Launch) : (s.modLaunch l f).winOld = s.winOld := by unfold State.modLaunch; split <;> rfl
@[simp] theorem State.modLaunch_image (s : State) (l : Nat) (f : Launch → Launch) : (s.modLaunch l f).image = s.image := by unfold State.modLaunch; split <;> rfl
@[simp] theorem State.modLaunch_tier2Cxl (s : State) (l : Nat) (f : Launch → Launch) : (s.modLaunch l f).tier2Cxl = s.tier2Cxl := by unfold State.modLaunch; split <;> rfl
@[simp] theorem State.modLaunch_reserve (s : State) (l : Nat) (f : Launch → Launch) : (s.modLaunch l f).reserve = s.reserve := by unfold State.modLaunch; split <;> rfl
@[simp] theorem State.modLaunch_mlog (s : State) (l : Nat) (f : Launch → Launch) : (s.modLaunch l f).mlog = s.mlog := by unfold State.modLaunch; split <;> rfl
@[simp] theorem State.modLaunch_spdm (s : State) (l : Nat) (f : Launch → Launch) : (s.modLaunch l f).spdm = s.spdm := by unfold State.modLaunch; split <;> rfl
@[simp] theorem State.modLaunch_outbox (s : State) (l : Nat) (f : Launch → Launch) : (s.modLaunch l f).outbox = s.outbox := by unfold State.modLaunch; split <;> rfl
@[simp] theorem State.modLaunch_reqs (s : State) (l : Nat) (f : Launch → Launch) : (s.modLaunch l f).reqs = s.reqs := by unfold State.modLaunch; split <;> rfl
@[simp] theorem State.modLaunch_retries (s : State) (l : Nat) (f : Launch → Launch) : (s.modLaunch l f).retries = s.retries := by unfold State.modLaunch; split <;> rfl
@[simp] theorem State.modLaunch_switching (s : State) (l : Nat) (f : Launch → Launch) : (s.modLaunch l f).switching = s.switching := by unfold State.modLaunch; split <;> rfl
@[simp] theorem State.modLaunch_hurdles (s : State) (l : Nat) (f : Launch → Launch) : (s.modLaunch l f).hurdles = s.hurdles := by unfold State.modLaunch; split <;> rfl
@[simp] theorem State.modLaunch_hold (s : State) (l : Nat) (f : Launch → Launch) : (s.modLaunch l f).hold = s.hold := by unfold State.modLaunch; split <;> rfl
@[simp] theorem State.modLaunch_devKey (s : State) (l : Nat) (f : Launch → Launch) : (s.modLaunch l f).devKey = s.devKey := by unfold State.modLaunch; split <;> rfl

/-! ### State.setCore -/
@[simp] theorem State.setCore_agenda (s : State) (c : Nat) (x : Core) : (s.setCore c x).agenda = s.agenda := rfl
@[simp] theorem State.setCore_cur (s : State) (c : Nat) (x : Core) : (s.setCore c x).cur = s.cur := rfl
@[simp] theorem State.setCore_fresh (s : State) (c : Nat) (x : Core) : (s.setCore c x).fresh = s.fresh := rfl
@[simp] theorem State.setCore_cycle (s : State) (c : Nat) (x : Core) : (s.setCore c x).cycle = s.cycle := rfl
@[simp] theorem State.setCore_power (s : State) (c : Nat) (x : Core) : (s.setCore c x).power = s.power := rfl
@[simp] theorem State.setCore_waves (s : State) (c : Nat) (x : Core) : (s.setCore c x).waves = s.waves := rfl
@[simp] theorem State.setCore_units (s : State) (c : Nat) (x : Core) : (s.setCore c x).units = s.units := rfl
@[simp] theorem State.setCore_launches (s : State) (c : Nat) (x : Core) : (s.setCore c x).launches = s.launches := rfl
@[simp] theorem State.setCore_pend (s : State) (c : Nat) (x : Core) : (s.setCore c x).pend = s.pend := rfl
@[simp] theorem State.setCore_saved (s : State) (c : Nat) (x : Core) : (s.setCore c x).saved = s.saved := rfl
@[simp] theorem State.setCore_lmap (s : State) (c : Nat) (x : Core) : (s.setCore c x).lmap = s.lmap := rfl
@[simp] theorem State.setCore_vaults (s : State) (c : Nat) (x : Core) : (s.setCore c x).vaults = s.vaults := rfl
@[simp] theorem State.setCore_dies (s : State) (c : Nat) (x : Core) : (s.setCore c x).dies = s.dies := rfl
@[simp] theorem State.setCore_vfs (s : State) (c : Nat) (x : Core) : (s.setCore c x).vfs = s.vfs := rfl
@[simp] theorem State.setCore_mem (s : State) (c : Nat) (x : Core) : (s.setCore c x).mem = s.mem := rfl
@[simp] theorem State.setCore_poison (s : State) (c : Nat) (x : Core) : (s.setCore c x).poison = s.poison := rfl
@[simp] theorem State.setCore_present (s : State) (c : Nat) (x : Core) : (s.setCore c x).present = s.present := rfl
@[simp] theorem State.setCore_recs (s : State) (c : Nat) (x : Core) : (s.setCore c x).recs = s.recs := rfl
@[simp] theorem State.setCore_ids (s : State) (c : Nat) (x : Core) : (s.setCore c x).ids = s.ids := rfl
@[simp] theorem State.setCore_homes (s : State) (c : Nat) (x : Core) : (s.setCore c x).homes = s.homes := rfl
@[simp] theorem State.setCore_claims (s : State) (c : Nat) (x : Core) : (s.setCore c x).claims = s.claims := rfl
@[simp] theorem State.setCore_verdicts (s : State) (c : Nat) (x : Core) : (s.setCore c x).verdicts = s.verdicts := rfl
@[simp] theorem State.setCore_drains (s : State) (c : Nat) (x : Core) : (s.setCore c x).drains = s.drains := rfl
@[simp] theorem State.setCore_acks (s : State) (c : Nat) (x : Core) : (s.setCore c x).acks = s.acks := rfl
@[simp] theorem State.setCore_changes (s : State) (c : Nat) (x : Core) : (s.setCore c x).changes = s.changes := rfl
@[simp] theorem State.setCore_purges (s : State) (c : Nat) (x : Core) : (s.setCore c x).purges = s.purges := rfl
@[simp] theorem State.setCore_rewrites (s : State) (c : Nat) (x : Core) : (s.setCore c x).rewrites = s.rewrites := rfl
@[simp] theorem State.setCore_ends (s : State) (c : Nat) (x : Core) : (s.setCore c x).ends = s.ends := rfl
@[simp] theorem State.setCore_hw (s : State) (c : Nat) (x : Core) : (s.setCore c x).hw = s.hw := rfl
@[simp] theorem State.setCore_winOld (s : State) (c : Nat) (x : Core) : (s.setCore c x).winOld = s.winOld := rfl
@[simp] theorem State.setCore_image (s : State) (c : Nat) (x : Core) : (s.setCore c x).image = s.image := rfl
@[simp] theorem State.setCore_tier2Cxl (s : State) (c : Nat) (x : Core) : (s.setCore c x).tier2Cxl = s.tier2Cxl := rfl
@[simp] theorem State.setCore_reserve (s : State) (c : Nat) (x : Core) : (s.setCore c x).reserve = s.reserve := rfl
@[simp] theorem State.setCore_mlog (s : State) (c : Nat) (x : Core) : (s.setCore c x).mlog = s.mlog := rfl
@[simp] theorem State.setCore_spdm (s : State) (c : Nat) (x : Core) : (s.setCore c x).spdm = s.spdm := rfl
@[simp] theorem State.setCore_outbox (s : State) (c : Nat) (x : Core) : (s.setCore c x).outbox = s.outbox := rfl
@[simp] theorem State.setCore_reqs (s : State) (c : Nat) (x : Core) : (s.setCore c x).reqs = s.reqs := rfl
@[simp] theorem State.setCore_retries (s : State) (c : Nat) (x : Core) : (s.setCore c x).retries = s.retries := rfl
@[simp] theorem State.setCore_switching (s : State) (c : Nat) (x : Core) : (s.setCore c x).switching = s.switching := rfl
@[simp] theorem State.setCore_hurdles (s : State) (c : Nat) (x : Core) : (s.setCore c x).hurdles = s.hurdles := rfl
@[simp] theorem State.setCore_hold (s : State) (c : Nat) (x : Core) : (s.setCore c x).hold = s.hold := rfl
@[simp] theorem State.setCore_devKey (s : State) (c : Nat) (x : Core) : (s.setCore c x).devKey = s.devKey := rfl

/-! ### State.modCore -/
@[simp] theorem State.modCore_agenda (s : State) (c : Nat) (f : Core → Core) : (s.modCore c f).agenda = s.agenda := rfl
@[simp] theorem State.modCore_cur (s : State) (c : Nat) (f : Core → Core) : (s.modCore c f).cur = s.cur := rfl
@[simp] theorem State.modCore_fresh (s : State) (c : Nat) (f : Core → Core) : (s.modCore c f).fresh = s.fresh := rfl
@[simp] theorem State.modCore_cycle (s : State) (c : Nat) (f : Core → Core) : (s.modCore c f).cycle = s.cycle := rfl
@[simp] theorem State.modCore_power (s : State) (c : Nat) (f : Core → Core) : (s.modCore c f).power = s.power := rfl
@[simp] theorem State.modCore_waves (s : State) (c : Nat) (f : Core → Core) : (s.modCore c f).waves = s.waves := rfl
@[simp] theorem State.modCore_units (s : State) (c : Nat) (f : Core → Core) : (s.modCore c f).units = s.units := rfl
@[simp] theorem State.modCore_launches (s : State) (c : Nat) (f : Core → Core) : (s.modCore c f).launches = s.launches := rfl
@[simp] theorem State.modCore_pend (s : State) (c : Nat) (f : Core → Core) : (s.modCore c f).pend = s.pend := rfl
@[simp] theorem State.modCore_saved (s : State) (c : Nat) (f : Core → Core) : (s.modCore c f).saved = s.saved := rfl
@[simp] theorem State.modCore_lmap (s : State) (c : Nat) (f : Core → Core) : (s.modCore c f).lmap = s.lmap := rfl
@[simp] theorem State.modCore_vaults (s : State) (c : Nat) (f : Core → Core) : (s.modCore c f).vaults = s.vaults := rfl
@[simp] theorem State.modCore_dies (s : State) (c : Nat) (f : Core → Core) : (s.modCore c f).dies = s.dies := rfl
@[simp] theorem State.modCore_vfs (s : State) (c : Nat) (f : Core → Core) : (s.modCore c f).vfs = s.vfs := rfl
@[simp] theorem State.modCore_mem (s : State) (c : Nat) (f : Core → Core) : (s.modCore c f).mem = s.mem := rfl
@[simp] theorem State.modCore_poison (s : State) (c : Nat) (f : Core → Core) : (s.modCore c f).poison = s.poison := rfl
@[simp] theorem State.modCore_present (s : State) (c : Nat) (f : Core → Core) : (s.modCore c f).present = s.present := rfl
@[simp] theorem State.modCore_recs (s : State) (c : Nat) (f : Core → Core) : (s.modCore c f).recs = s.recs := rfl
@[simp] theorem State.modCore_ids (s : State) (c : Nat) (f : Core → Core) : (s.modCore c f).ids = s.ids := rfl
@[simp] theorem State.modCore_homes (s : State) (c : Nat) (f : Core → Core) : (s.modCore c f).homes = s.homes := rfl
@[simp] theorem State.modCore_claims (s : State) (c : Nat) (f : Core → Core) : (s.modCore c f).claims = s.claims := rfl
@[simp] theorem State.modCore_verdicts (s : State) (c : Nat) (f : Core → Core) : (s.modCore c f).verdicts = s.verdicts := rfl
@[simp] theorem State.modCore_drains (s : State) (c : Nat) (f : Core → Core) : (s.modCore c f).drains = s.drains := rfl
@[simp] theorem State.modCore_acks (s : State) (c : Nat) (f : Core → Core) : (s.modCore c f).acks = s.acks := rfl
@[simp] theorem State.modCore_changes (s : State) (c : Nat) (f : Core → Core) : (s.modCore c f).changes = s.changes := rfl
@[simp] theorem State.modCore_purges (s : State) (c : Nat) (f : Core → Core) : (s.modCore c f).purges = s.purges := rfl
@[simp] theorem State.modCore_rewrites (s : State) (c : Nat) (f : Core → Core) : (s.modCore c f).rewrites = s.rewrites := rfl
@[simp] theorem State.modCore_ends (s : State) (c : Nat) (f : Core → Core) : (s.modCore c f).ends = s.ends := rfl
@[simp] theorem State.modCore_hw (s : State) (c : Nat) (f : Core → Core) : (s.modCore c f).hw = s.hw := rfl
@[simp] theorem State.modCore_winOld (s : State) (c : Nat) (f : Core → Core) : (s.modCore c f).winOld = s.winOld := rfl
@[simp] theorem State.modCore_image (s : State) (c : Nat) (f : Core → Core) : (s.modCore c f).image = s.image := rfl
@[simp] theorem State.modCore_tier2Cxl (s : State) (c : Nat) (f : Core → Core) : (s.modCore c f).tier2Cxl = s.tier2Cxl := rfl
@[simp] theorem State.modCore_reserve (s : State) (c : Nat) (f : Core → Core) : (s.modCore c f).reserve = s.reserve := rfl
@[simp] theorem State.modCore_mlog (s : State) (c : Nat) (f : Core → Core) : (s.modCore c f).mlog = s.mlog := rfl
@[simp] theorem State.modCore_spdm (s : State) (c : Nat) (f : Core → Core) : (s.modCore c f).spdm = s.spdm := rfl
@[simp] theorem State.modCore_outbox (s : State) (c : Nat) (f : Core → Core) : (s.modCore c f).outbox = s.outbox := rfl
@[simp] theorem State.modCore_reqs (s : State) (c : Nat) (f : Core → Core) : (s.modCore c f).reqs = s.reqs := rfl
@[simp] theorem State.modCore_retries (s : State) (c : Nat) (f : Core → Core) : (s.modCore c f).retries = s.retries := rfl
@[simp] theorem State.modCore_switching (s : State) (c : Nat) (f : Core → Core) : (s.modCore c f).switching = s.switching := rfl
@[simp] theorem State.modCore_hurdles (s : State) (c : Nat) (f : Core → Core) : (s.modCore c f).hurdles = s.hurdles := rfl
@[simp] theorem State.modCore_hold (s : State) (c : Nat) (f : Core → Core) : (s.modCore c f).hold = s.hold := rfl
@[simp] theorem State.modCore_devKey (s : State) (c : Nat) (f : Core → Core) : (s.modCore c f).devKey = s.devKey := rfl

/-! ### State.setVf -/
@[simp] theorem State.setVf_agenda (s : State) (v : Nat) (x : VFn) : (s.setVf v x).agenda = s.agenda := rfl
@[simp] theorem State.setVf_cur (s : State) (v : Nat) (x : VFn) : (s.setVf v x).cur = s.cur := rfl
@[simp] theorem State.setVf_fresh (s : State) (v : Nat) (x : VFn) : (s.setVf v x).fresh = s.fresh := rfl
@[simp] theorem State.setVf_cycle (s : State) (v : Nat) (x : VFn) : (s.setVf v x).cycle = s.cycle := rfl
@[simp] theorem State.setVf_power (s : State) (v : Nat) (x : VFn) : (s.setVf v x).power = s.power := rfl
@[simp] theorem State.setVf_waves (s : State) (v : Nat) (x : VFn) : (s.setVf v x).waves = s.waves := rfl
@[simp] theorem State.setVf_units (s : State) (v : Nat) (x : VFn) : (s.setVf v x).units = s.units := rfl
@[simp] theorem State.setVf_launches (s : State) (v : Nat) (x : VFn) : (s.setVf v x).launches = s.launches := rfl
@[simp] theorem State.setVf_pend (s : State) (v : Nat) (x : VFn) : (s.setVf v x).pend = s.pend := rfl
@[simp] theorem State.setVf_saved (s : State) (v : Nat) (x : VFn) : (s.setVf v x).saved = s.saved := rfl
@[simp] theorem State.setVf_cores (s : State) (v : Nat) (x : VFn) : (s.setVf v x).cores = s.cores := rfl
@[simp] theorem State.setVf_lmap (s : State) (v : Nat) (x : VFn) : (s.setVf v x).lmap = s.lmap := rfl
@[simp] theorem State.setVf_vaults (s : State) (v : Nat) (x : VFn) : (s.setVf v x).vaults = s.vaults := rfl
@[simp] theorem State.setVf_dies (s : State) (v : Nat) (x : VFn) : (s.setVf v x).dies = s.dies := rfl
@[simp] theorem State.setVf_mem (s : State) (v : Nat) (x : VFn) : (s.setVf v x).mem = s.mem := rfl
@[simp] theorem State.setVf_poison (s : State) (v : Nat) (x : VFn) : (s.setVf v x).poison = s.poison := rfl
@[simp] theorem State.setVf_present (s : State) (v : Nat) (x : VFn) : (s.setVf v x).present = s.present := rfl
@[simp] theorem State.setVf_recs (s : State) (v : Nat) (x : VFn) : (s.setVf v x).recs = s.recs := rfl
@[simp] theorem State.setVf_ids (s : State) (v : Nat) (x : VFn) : (s.setVf v x).ids = s.ids := rfl
@[simp] theorem State.setVf_homes (s : State) (v : Nat) (x : VFn) : (s.setVf v x).homes = s.homes := rfl
@[simp] theorem State.setVf_claims (s : State) (v : Nat) (x : VFn) : (s.setVf v x).claims = s.claims := rfl
@[simp] theorem State.setVf_verdicts (s : State) (v : Nat) (x : VFn) : (s.setVf v x).verdicts = s.verdicts := rfl
@[simp] theorem State.setVf_drains (s : State) (v : Nat) (x : VFn) : (s.setVf v x).drains = s.drains := rfl
@[simp] theorem State.setVf_acks (s : State) (v : Nat) (x : VFn) : (s.setVf v x).acks = s.acks := rfl
@[simp] theorem State.setVf_changes (s : State) (v : Nat) (x : VFn) : (s.setVf v x).changes = s.changes := rfl
@[simp] theorem State.setVf_purges (s : State) (v : Nat) (x : VFn) : (s.setVf v x).purges = s.purges := rfl
@[simp] theorem State.setVf_rewrites (s : State) (v : Nat) (x : VFn) : (s.setVf v x).rewrites = s.rewrites := rfl
@[simp] theorem State.setVf_ends (s : State) (v : Nat) (x : VFn) : (s.setVf v x).ends = s.ends := rfl
@[simp] theorem State.setVf_hw (s : State) (v : Nat) (x : VFn) : (s.setVf v x).hw = s.hw := rfl
@[simp] theorem State.setVf_winOld (s : State) (v : Nat) (x : VFn) : (s.setVf v x).winOld = s.winOld := rfl
@[simp] theorem State.setVf_image (s : State) (v : Nat) (x : VFn) : (s.setVf v x).image = s.image := rfl
@[simp] theorem State.setVf_tier2Cxl (s : State) (v : Nat) (x : VFn) : (s.setVf v x).tier2Cxl = s.tier2Cxl := rfl
@[simp] theorem State.setVf_reserve (s : State) (v : Nat) (x : VFn) : (s.setVf v x).reserve = s.reserve := rfl
@[simp] theorem State.setVf_mlog (s : State) (v : Nat) (x : VFn) : (s.setVf v x).mlog = s.mlog := rfl
@[simp] theorem State.setVf_spdm (s : State) (v : Nat) (x : VFn) : (s.setVf v x).spdm = s.spdm := rfl
@[simp] theorem State.setVf_outbox (s : State) (v : Nat) (x : VFn) : (s.setVf v x).outbox = s.outbox := rfl
@[simp] theorem State.setVf_reqs (s : State) (v : Nat) (x : VFn) : (s.setVf v x).reqs = s.reqs := rfl
@[simp] theorem State.setVf_retries (s : State) (v : Nat) (x : VFn) : (s.setVf v x).retries = s.retries := rfl
@[simp] theorem State.setVf_switching (s : State) (v : Nat) (x : VFn) : (s.setVf v x).switching = s.switching := rfl
@[simp] theorem State.setVf_hurdles (s : State) (v : Nat) (x : VFn) : (s.setVf v x).hurdles = s.hurdles := rfl
@[simp] theorem State.setVf_hold (s : State) (v : Nat) (x : VFn) : (s.setVf v x).hold = s.hold := rfl
@[simp] theorem State.setVf_devKey (s : State) (v : Nat) (x : VFn) : (s.setVf v x).devKey = s.devKey := rfl

/-! ### State.modVf -/
@[simp] theorem State.modVf_agenda (s : State) (v : Nat) (f : VFn → VFn) : (s.modVf v f).agenda = s.agenda := rfl
@[simp] theorem State.modVf_cur (s : State) (v : Nat) (f : VFn → VFn) : (s.modVf v f).cur = s.cur := rfl
@[simp] theorem State.modVf_fresh (s : State) (v : Nat) (f : VFn → VFn) : (s.modVf v f).fresh = s.fresh := rfl
@[simp] theorem State.modVf_cycle (s : State) (v : Nat) (f : VFn → VFn) : (s.modVf v f).cycle = s.cycle := rfl
@[simp] theorem State.modVf_power (s : State) (v : Nat) (f : VFn → VFn) : (s.modVf v f).power = s.power := rfl
@[simp] theorem State.modVf_waves (s : State) (v : Nat) (f : VFn → VFn) : (s.modVf v f).waves = s.waves := rfl
@[simp] theorem State.modVf_units (s : State) (v : Nat) (f : VFn → VFn) : (s.modVf v f).units = s.units := rfl
@[simp] theorem State.modVf_launches (s : State) (v : Nat) (f : VFn → VFn) : (s.modVf v f).launches = s.launches := rfl
@[simp] theorem State.modVf_pend (s : State) (v : Nat) (f : VFn → VFn) : (s.modVf v f).pend = s.pend := rfl
@[simp] theorem State.modVf_saved (s : State) (v : Nat) (f : VFn → VFn) : (s.modVf v f).saved = s.saved := rfl
@[simp] theorem State.modVf_cores (s : State) (v : Nat) (f : VFn → VFn) : (s.modVf v f).cores = s.cores := rfl
@[simp] theorem State.modVf_lmap (s : State) (v : Nat) (f : VFn → VFn) : (s.modVf v f).lmap = s.lmap := rfl
@[simp] theorem State.modVf_vaults (s : State) (v : Nat) (f : VFn → VFn) : (s.modVf v f).vaults = s.vaults := rfl
@[simp] theorem State.modVf_dies (s : State) (v : Nat) (f : VFn → VFn) : (s.modVf v f).dies = s.dies := rfl
@[simp] theorem State.modVf_mem (s : State) (v : Nat) (f : VFn → VFn) : (s.modVf v f).mem = s.mem := rfl
@[simp] theorem State.modVf_poison (s : State) (v : Nat) (f : VFn → VFn) : (s.modVf v f).poison = s.poison := rfl
@[simp] theorem State.modVf_present (s : State) (v : Nat) (f : VFn → VFn) : (s.modVf v f).present = s.present := rfl
@[simp] theorem State.modVf_recs (s : State) (v : Nat) (f : VFn → VFn) : (s.modVf v f).recs = s.recs := rfl
@[simp] theorem State.modVf_ids (s : State) (v : Nat) (f : VFn → VFn) : (s.modVf v f).ids = s.ids := rfl
@[simp] theorem State.modVf_homes (s : State) (v : Nat) (f : VFn → VFn) : (s.modVf v f).homes = s.homes := rfl
@[simp] theorem State.modVf_claims (s : State) (v : Nat) (f : VFn → VFn) : (s.modVf v f).claims = s.claims := rfl
@[simp] theorem State.modVf_verdicts (s : State) (v : Nat) (f : VFn → VFn) : (s.modVf v f).verdicts = s.verdicts := rfl
@[simp] theorem State.modVf_drains (s : State) (v : Nat) (f : VFn → VFn) : (s.modVf v f).drains = s.drains := rfl
@[simp] theorem State.modVf_acks (s : State) (v : Nat) (f : VFn → VFn) : (s.modVf v f).acks = s.acks := rfl
@[simp] theorem State.modVf_changes (s : State) (v : Nat) (f : VFn → VFn) : (s.modVf v f).changes = s.changes := rfl
@[simp] theorem State.modVf_purges (s : State) (v : Nat) (f : VFn → VFn) : (s.modVf v f).purges = s.purges := rfl
@[simp] theorem State.modVf_rewrites (s : State) (v : Nat) (f : VFn → VFn) : (s.modVf v f).rewrites = s.rewrites := rfl
@[simp] theorem State.modVf_ends (s : State) (v : Nat) (f : VFn → VFn) : (s.modVf v f).ends = s.ends := rfl
@[simp] theorem State.modVf_hw (s : State) (v : Nat) (f : VFn → VFn) : (s.modVf v f).hw = s.hw := rfl
@[simp] theorem State.modVf_winOld (s : State) (v : Nat) (f : VFn → VFn) : (s.modVf v f).winOld = s.winOld := rfl
@[simp] theorem State.modVf_image (s : State) (v : Nat) (f : VFn → VFn) : (s.modVf v f).image = s.image := rfl
@[simp] theorem State.modVf_tier2Cxl (s : State) (v : Nat) (f : VFn → VFn) : (s.modVf v f).tier2Cxl = s.tier2Cxl := rfl
@[simp] theorem State.modVf_reserve (s : State) (v : Nat) (f : VFn → VFn) : (s.modVf v f).reserve = s.reserve := rfl
@[simp] theorem State.modVf_mlog (s : State) (v : Nat) (f : VFn → VFn) : (s.modVf v f).mlog = s.mlog := rfl
@[simp] theorem State.modVf_spdm (s : State) (v : Nat) (f : VFn → VFn) : (s.modVf v f).spdm = s.spdm := rfl
@[simp] theorem State.modVf_outbox (s : State) (v : Nat) (f : VFn → VFn) : (s.modVf v f).outbox = s.outbox := rfl
@[simp] theorem State.modVf_reqs (s : State) (v : Nat) (f : VFn → VFn) : (s.modVf v f).reqs = s.reqs := rfl
@[simp] theorem State.modVf_retries (s : State) (v : Nat) (f : VFn → VFn) : (s.modVf v f).retries = s.retries := rfl
@[simp] theorem State.modVf_switching (s : State) (v : Nat) (f : VFn → VFn) : (s.modVf v f).switching = s.switching := rfl
@[simp] theorem State.modVf_hurdles (s : State) (v : Nat) (f : VFn → VFn) : (s.modVf v f).hurdles = s.hurdles := rfl
@[simp] theorem State.modVf_hold (s : State) (v : Nat) (f : VFn → VFn) : (s.modVf v f).hold = s.hold := rfl
@[simp] theorem State.modVf_devKey (s : State) (v : Nat) (f : VFn → VFn) : (s.modVf v f).devKey = s.devKey := rfl

/-! ### State.modDie -/
@[simp] theorem State.modDie_agenda (s : State) (d : Nat) (f : Die → Die) : (s.modDie d f).agenda = s.agenda := rfl
@[simp] theorem State.modDie_cur (s : State) (d : Nat) (f : Die → Die) : (s.modDie d f).cur = s.cur := rfl
@[simp] theorem State.modDie_fresh (s : State) (d : Nat) (f : Die → Die) : (s.modDie d f).fresh = s.fresh := rfl
@[simp] theorem State.modDie_cycle (s : State) (d : Nat) (f : Die → Die) : (s.modDie d f).cycle = s.cycle := rfl
@[simp] theorem State.modDie_power (s : State) (d : Nat) (f : Die → Die) : (s.modDie d f).power = s.power := rfl
@[simp] theorem State.modDie_waves (s : State) (d : Nat) (f : Die → Die) : (s.modDie d f).waves = s.waves := rfl
@[simp] theorem State.modDie_units (s : State) (d : Nat) (f : Die → Die) : (s.modDie d f).units = s.units := rfl
@[simp] theorem State.modDie_launches (s : State) (d : Nat) (f : Die → Die) : (s.modDie d f).launches = s.launches := rfl
@[simp] theorem State.modDie_pend (s : State) (d : Nat) (f : Die → Die) : (s.modDie d f).pend = s.pend := rfl
@[simp] theorem State.modDie_saved (s : State) (d : Nat) (f : Die → Die) : (s.modDie d f).saved = s.saved := rfl
@[simp] theorem State.modDie_cores (s : State) (d : Nat) (f : Die → Die) : (s.modDie d f).cores = s.cores := rfl
@[simp] theorem State.modDie_lmap (s : State) (d : Nat) (f : Die → Die) : (s.modDie d f).lmap = s.lmap := rfl
@[simp] theorem State.modDie_vaults (s : State) (d : Nat) (f : Die → Die) : (s.modDie d f).vaults = s.vaults := rfl
@[simp] theorem State.modDie_vfs (s : State) (d : Nat) (f : Die → Die) : (s.modDie d f).vfs = s.vfs := rfl
@[simp] theorem State.modDie_mem (s : State) (d : Nat) (f : Die → Die) : (s.modDie d f).mem = s.mem := rfl
@[simp] theorem State.modDie_poison (s : State) (d : Nat) (f : Die → Die) : (s.modDie d f).poison = s.poison := rfl
@[simp] theorem State.modDie_present (s : State) (d : Nat) (f : Die → Die) : (s.modDie d f).present = s.present := rfl
@[simp] theorem State.modDie_recs (s : State) (d : Nat) (f : Die → Die) : (s.modDie d f).recs = s.recs := rfl
@[simp] theorem State.modDie_ids (s : State) (d : Nat) (f : Die → Die) : (s.modDie d f).ids = s.ids := rfl
@[simp] theorem State.modDie_homes (s : State) (d : Nat) (f : Die → Die) : (s.modDie d f).homes = s.homes := rfl
@[simp] theorem State.modDie_claims (s : State) (d : Nat) (f : Die → Die) : (s.modDie d f).claims = s.claims := rfl
@[simp] theorem State.modDie_verdicts (s : State) (d : Nat) (f : Die → Die) : (s.modDie d f).verdicts = s.verdicts := rfl
@[simp] theorem State.modDie_drains (s : State) (d : Nat) (f : Die → Die) : (s.modDie d f).drains = s.drains := rfl
@[simp] theorem State.modDie_acks (s : State) (d : Nat) (f : Die → Die) : (s.modDie d f).acks = s.acks := rfl
@[simp] theorem State.modDie_changes (s : State) (d : Nat) (f : Die → Die) : (s.modDie d f).changes = s.changes := rfl
@[simp] theorem State.modDie_purges (s : State) (d : Nat) (f : Die → Die) : (s.modDie d f).purges = s.purges := rfl
@[simp] theorem State.modDie_rewrites (s : State) (d : Nat) (f : Die → Die) : (s.modDie d f).rewrites = s.rewrites := rfl
@[simp] theorem State.modDie_ends (s : State) (d : Nat) (f : Die → Die) : (s.modDie d f).ends = s.ends := rfl
@[simp] theorem State.modDie_hw (s : State) (d : Nat) (f : Die → Die) : (s.modDie d f).hw = s.hw := rfl
@[simp] theorem State.modDie_winOld (s : State) (d : Nat) (f : Die → Die) : (s.modDie d f).winOld = s.winOld := rfl
@[simp] theorem State.modDie_image (s : State) (d : Nat) (f : Die → Die) : (s.modDie d f).image = s.image := rfl
@[simp] theorem State.modDie_tier2Cxl (s : State) (d : Nat) (f : Die → Die) : (s.modDie d f).tier2Cxl = s.tier2Cxl := rfl
@[simp] theorem State.modDie_reserve (s : State) (d : Nat) (f : Die → Die) : (s.modDie d f).reserve = s.reserve := rfl
@[simp] theorem State.modDie_mlog (s : State) (d : Nat) (f : Die → Die) : (s.modDie d f).mlog = s.mlog := rfl
@[simp] theorem State.modDie_spdm (s : State) (d : Nat) (f : Die → Die) : (s.modDie d f).spdm = s.spdm := rfl
@[simp] theorem State.modDie_outbox (s : State) (d : Nat) (f : Die → Die) : (s.modDie d f).outbox = s.outbox := rfl
@[simp] theorem State.modDie_reqs (s : State) (d : Nat) (f : Die → Die) : (s.modDie d f).reqs = s.reqs := rfl
@[simp] theorem State.modDie_retries (s : State) (d : Nat) (f : Die → Die) : (s.modDie d f).retries = s.retries := rfl
@[simp] theorem State.modDie_switching (s : State) (d : Nat) (f : Die → Die) : (s.modDie d f).switching = s.switching := rfl
@[simp] theorem State.modDie_hurdles (s : State) (d : Nat) (f : Die → Die) : (s.modDie d f).hurdles = s.hurdles := rfl
@[simp] theorem State.modDie_hold (s : State) (d : Nat) (f : Die → Die) : (s.modDie d f).hold = s.hold := rfl
@[simp] theorem State.modDie_devKey (s : State) (d : Nat) (f : Die → Die) : (s.modDie d f).devKey = s.devKey := rfl

/-! ### State.tick -/
@[simp] theorem State.tick_agenda (s : State) : (s.tick).agenda = s.agenda := rfl
@[simp] theorem State.tick_cur (s : State) : (s.tick).cur = s.cur := rfl
@[simp] theorem State.tick_cycle (s : State) : (s.tick).cycle = s.cycle := rfl
@[simp] theorem State.tick_power (s : State) : (s.tick).power = s.power := rfl
@[simp] theorem State.tick_waves (s : State) : (s.tick).waves = s.waves := rfl
@[simp] theorem State.tick_units (s : State) : (s.tick).units = s.units := rfl
@[simp] theorem State.tick_launches (s : State) : (s.tick).launches = s.launches := rfl
@[simp] theorem State.tick_pend (s : State) : (s.tick).pend = s.pend := rfl
@[simp] theorem State.tick_saved (s : State) : (s.tick).saved = s.saved := rfl
@[simp] theorem State.tick_cores (s : State) : (s.tick).cores = s.cores := rfl
@[simp] theorem State.tick_lmap (s : State) : (s.tick).lmap = s.lmap := rfl
@[simp] theorem State.tick_vaults (s : State) : (s.tick).vaults = s.vaults := rfl
@[simp] theorem State.tick_dies (s : State) : (s.tick).dies = s.dies := rfl
@[simp] theorem State.tick_vfs (s : State) : (s.tick).vfs = s.vfs := rfl
@[simp] theorem State.tick_mem (s : State) : (s.tick).mem = s.mem := rfl
@[simp] theorem State.tick_poison (s : State) : (s.tick).poison = s.poison := rfl
@[simp] theorem State.tick_present (s : State) : (s.tick).present = s.present := rfl
@[simp] theorem State.tick_recs (s : State) : (s.tick).recs = s.recs := rfl
@[simp] theorem State.tick_ids (s : State) : (s.tick).ids = s.ids := rfl
@[simp] theorem State.tick_homes (s : State) : (s.tick).homes = s.homes := rfl
@[simp] theorem State.tick_claims (s : State) : (s.tick).claims = s.claims := rfl
@[simp] theorem State.tick_verdicts (s : State) : (s.tick).verdicts = s.verdicts := rfl
@[simp] theorem State.tick_drains (s : State) : (s.tick).drains = s.drains := rfl
@[simp] theorem State.tick_acks (s : State) : (s.tick).acks = s.acks := rfl
@[simp] theorem State.tick_changes (s : State) : (s.tick).changes = s.changes := rfl
@[simp] theorem State.tick_purges (s : State) : (s.tick).purges = s.purges := rfl
@[simp] theorem State.tick_rewrites (s : State) : (s.tick).rewrites = s.rewrites := rfl
@[simp] theorem State.tick_ends (s : State) : (s.tick).ends = s.ends := rfl
@[simp] theorem State.tick_hw (s : State) : (s.tick).hw = s.hw := rfl
@[simp] theorem State.tick_winOld (s : State) : (s.tick).winOld = s.winOld := rfl
@[simp] theorem State.tick_image (s : State) : (s.tick).image = s.image := rfl
@[simp] theorem State.tick_tier2Cxl (s : State) : (s.tick).tier2Cxl = s.tier2Cxl := rfl
@[simp] theorem State.tick_reserve (s : State) : (s.tick).reserve = s.reserve := rfl
@[simp] theorem State.tick_mlog (s : State) : (s.tick).mlog = s.mlog := rfl
@[simp] theorem State.tick_spdm (s : State) : (s.tick).spdm = s.spdm := rfl
@[simp] theorem State.tick_outbox (s : State) : (s.tick).outbox = s.outbox := rfl
@[simp] theorem State.tick_reqs (s : State) : (s.tick).reqs = s.reqs := rfl
@[simp] theorem State.tick_retries (s : State) : (s.tick).retries = s.retries := rfl
@[simp] theorem State.tick_switching (s : State) : (s.tick).switching = s.switching := rfl
@[simp] theorem State.tick_hurdles (s : State) : (s.tick).hurdles = s.hurdles := rfl
@[simp] theorem State.tick_hold (s : State) : (s.tick).hold = s.hold := rfl
@[simp] theorem State.tick_devKey (s : State) : (s.tick).devKey = s.devKey := rfl

/-! ### State.setHw -/
@[simp] theorem State.setHw_agenda (s : State) (o v n : Nat) : (s.setHw o v n).agenda = s.agenda := rfl
@[simp] theorem State.setHw_cur (s : State) (o v n : Nat) : (s.setHw o v n).cur = s.cur := rfl
@[simp] theorem State.setHw_fresh (s : State) (o v n : Nat) : (s.setHw o v n).fresh = s.fresh := rfl
@[simp] theorem State.setHw_cycle (s : State) (o v n : Nat) : (s.setHw o v n).cycle = s.cycle := rfl
@[simp] theorem State.setHw_power (s : State) (o v n : Nat) : (s.setHw o v n).power = s.power := rfl
@[simp] theorem State.setHw_waves (s : State) (o v n : Nat) : (s.setHw o v n).waves = s.waves := rfl
@[simp] theorem State.setHw_units (s : State) (o v n : Nat) : (s.setHw o v n).units = s.units := rfl
@[simp] theorem State.setHw_launches (s : State) (o v n : Nat) : (s.setHw o v n).launches = s.launches := rfl
@[simp] theorem State.setHw_pend (s : State) (o v n : Nat) : (s.setHw o v n).pend = s.pend := rfl
@[simp] theorem State.setHw_saved (s : State) (o v n : Nat) : (s.setHw o v n).saved = s.saved := rfl
@[simp] theorem State.setHw_cores (s : State) (o v n : Nat) : (s.setHw o v n).cores = s.cores := rfl
@[simp] theorem State.setHw_lmap (s : State) (o v n : Nat) : (s.setHw o v n).lmap = s.lmap := rfl
@[simp] theorem State.setHw_vaults (s : State) (o v n : Nat) : (s.setHw o v n).vaults = s.vaults := rfl
@[simp] theorem State.setHw_dies (s : State) (o v n : Nat) : (s.setHw o v n).dies = s.dies := rfl
@[simp] theorem State.setHw_vfs (s : State) (o v n : Nat) : (s.setHw o v n).vfs = s.vfs := rfl
@[simp] theorem State.setHw_mem (s : State) (o v n : Nat) : (s.setHw o v n).mem = s.mem := rfl
@[simp] theorem State.setHw_poison (s : State) (o v n : Nat) : (s.setHw o v n).poison = s.poison := rfl
@[simp] theorem State.setHw_present (s : State) (o v n : Nat) : (s.setHw o v n).present = s.present := rfl
@[simp] theorem State.setHw_recs (s : State) (o v n : Nat) : (s.setHw o v n).recs = s.recs := rfl
@[simp] theorem State.setHw_ids (s : State) (o v n : Nat) : (s.setHw o v n).ids = s.ids := rfl
@[simp] theorem State.setHw_homes (s : State) (o v n : Nat) : (s.setHw o v n).homes = s.homes := rfl
@[simp] theorem State.setHw_claims (s : State) (o v n : Nat) : (s.setHw o v n).claims = s.claims := rfl
@[simp] theorem State.setHw_verdicts (s : State) (o v n : Nat) : (s.setHw o v n).verdicts = s.verdicts := rfl
@[simp] theorem State.setHw_drains (s : State) (o v n : Nat) : (s.setHw o v n).drains = s.drains := rfl
@[simp] theorem State.setHw_acks (s : State) (o v n : Nat) : (s.setHw o v n).acks = s.acks := rfl
@[simp] theorem State.setHw_changes (s : State) (o v n : Nat) : (s.setHw o v n).changes = s.changes := rfl
@[simp] theorem State.setHw_purges (s : State) (o v n : Nat) : (s.setHw o v n).purges = s.purges := rfl
@[simp] theorem State.setHw_rewrites (s : State) (o v n : Nat) : (s.setHw o v n).rewrites = s.rewrites := rfl
@[simp] theorem State.setHw_ends (s : State) (o v n : Nat) : (s.setHw o v n).ends = s.ends := rfl
@[simp] theorem State.setHw_winOld (s : State) (o v n : Nat) : (s.setHw o v n).winOld = s.winOld := rfl
@[simp] theorem State.setHw_image (s : State) (o v n : Nat) : (s.setHw o v n).image = s.image := rfl
@[simp] theorem State.setHw_tier2Cxl (s : State) (o v n : Nat) : (s.setHw o v n).tier2Cxl = s.tier2Cxl := rfl
@[simp] theorem State.setHw_reserve (s : State) (o v n : Nat) : (s.setHw o v n).reserve = s.reserve := rfl
@[simp] theorem State.setHw_mlog (s : State) (o v n : Nat) : (s.setHw o v n).mlog = s.mlog := rfl
@[simp] theorem State.setHw_spdm (s : State) (o v n : Nat) : (s.setHw o v n).spdm = s.spdm := rfl
@[simp] theorem State.setHw_outbox (s : State) (o v n : Nat) : (s.setHw o v n).outbox = s.outbox := rfl
@[simp] theorem State.setHw_reqs (s : State) (o v n : Nat) : (s.setHw o v n).reqs = s.reqs := rfl
@[simp] theorem State.setHw_retries (s : State) (o v n : Nat) : (s.setHw o v n).retries = s.retries := rfl
@[simp] theorem State.setHw_switching (s : State) (o v n : Nat) : (s.setHw o v n).switching = s.switching := rfl
@[simp] theorem State.setHw_hurdles (s : State) (o v n : Nat) : (s.setHw o v n).hurdles = s.hurdles := rfl
@[simp] theorem State.setHw_hold (s : State) (o v n : Nat) : (s.setHw o v n).hold = s.hold := rfl
@[simp] theorem State.setHw_devKey (s : State) (o v n : Nat) : (s.setHw o v n).devKey = s.devKey := rfl

/-! ### Reading back -/

@[simp] theorem State.wave_setWave (s : State) (id : Nat) (w : Wave) : (s.setWave id w).wave id = w := mget_mset_same ..
theorem State.wave_setWave_ne (s : State) {id j : Nat} (w : Wave) (h : j ≠ id) : (s.setWave id w).wave j = s.wave j := mget_mset_ne _ _ _ h
@[simp] theorem State.wave_modWave (s : State) (id : Nat) (f : Wave → Wave) : (s.modWave id f).wave id = f (s.wave id) := mget_mset_same ..
theorem State.wave_modWave_ne (s : State) {id j : Nat} (f : Wave → Wave) (h : j ≠ id) : (s.modWave id f).wave j = s.wave j := mget_mset_ne _ _ _ h
@[simp] theorem State.unit_setUnit (s : State) (u : Nat) (r : Option UnitR) : (s.setUnit u r).unit u = r := mget_mset_same ..
theorem State.unit_setUnit_ne (s : State) {u j : Nat} (r : Option UnitR) (h : j ≠ u) : (s.setUnit u r).unit j = s.unit j := mget_mset_ne _ _ _ h
@[simp] theorem State.unit_modUnit (s : State) (u : Nat) (f : UnitR → UnitR) : (s.modUnit u f).unit u = (s.unit u).map f := by
  unfold State.modUnit; split <;> simp_all
@[simp] theorem State.launch_setLaunch (s : State) (l : Nat) (r : Option Launch) : (s.setLaunch l r).launch l = r := mget_mset_same ..
theorem State.launch_setLaunch_ne (s : State) {l j : Nat} (r : Option Launch) (h : j ≠ l) : (s.setLaunch l r).launch j = s.launch j := mget_mset_ne _ _ _ h
@[simp] theorem State.launch_modLaunch (s : State) (l : Nat) (f : Launch → Launch) : (s.modLaunch l f).launch l = (s.launch l).map f := by
  unfold State.modLaunch; split <;> simp_all
@[simp] theorem State.core_setCore (s : State) (c : Nat) (x : Core) : (s.setCore c x).core c = x := mget_mset_same ..
theorem State.core_setCore_ne (s : State) {c j : Nat} (x : Core) (h : j ≠ c) : (s.setCore c x).core j = s.core j := mget_mset_ne _ _ _ h
@[simp] theorem State.core_modCore (s : State) (c : Nat) (f : Core → Core) : (s.modCore c f).core c = f (s.core c) := mget_mset_same ..
theorem State.core_modCore_ne (s : State) {c j : Nat} (f : Core → Core) (h : j ≠ c) : (s.modCore c f).core j = s.core j := mget_mset_ne _ _ _ h
@[simp] theorem State.vf_setVf (s : State) (v : Nat) (x : VFn) : (s.setVf v x).vf v = x := mget_mset_same ..
theorem State.vf_setVf_ne (s : State) {v j : Nat} (x : VFn) (h : j ≠ v) : (s.setVf v x).vf j = s.vf j := mget_mset_ne _ _ _ h
@[simp] theorem State.vf_modVf (s : State) (v : Nat) (f : VFn → VFn) : (s.modVf v f).vf v = f (s.vf v) := mget_mset_same ..
theorem State.vf_modVf_ne (s : State) {v j : Nat} (f : VFn → VFn) (h : j ≠ v) : (s.modVf v f).vf j = s.vf j := mget_mset_ne _ _ _ h
@[simp] theorem State.die_modDie (s : State) (d : Nat) (f : Die → Die) : (s.modDie d f).die d = f (s.die d) := mget_mset_same ..

@[simp] theorem State.unit_setWave (s : State) (id : Nat) (w : Wave) (j : Nat) : (s.setWave id w).unit j = s.unit j := rfl
@[simp] theorem State.launch_setWave (s : State) (id : Nat) (w : Wave) (j : Nat) : (s.setWave id w).launch j = s.launch j := rfl
@[simp] theorem State.core_setWave (s : State) (id : Nat) (w : Wave) (j : Nat) : (s.setWave id w).core j = s.core j := rfl
@[simp] theorem State.vf_setWave (s : State) (id : Nat) (w : Wave) (j : Nat) : (s.setWave id w).vf j = s.vf j := rfl
@[simp] theorem State.die_setWave (s : State) (id : Nat) (w : Wave) (j : Nat) : (s.setWave id w).die j = s.die j := rfl
@[simp] theorem State.vault_setWave (s : State) (id : Nat) (w : Wave) (j : Nat) : (s.setWave id w).vault j = s.vault j := rfl
@[simp] theorem State.unit_modWave (s : State) (id : Nat) (f : Wave → Wave) (j : Nat) : (s.modWave id f).unit j = s.unit j := rfl
@[simp] theorem State.launch_modWave (s : State) (id : Nat) (f : Wave → Wave) (j : Nat) : (s.modWave id f).launch j = s.launch j := rfl
@[simp] theorem State.core_modWave (s : State) (id : Nat) (f : Wave → Wave) (j : Nat) : (s.modWave id f).core j = s.core j := rfl
@[simp] theorem State.vf_modWave (s : State) (id : Nat) (f : Wave → Wave) (j : Nat) : (s.modWave id f).vf j = s.vf j := rfl
@[simp] theorem State.die_modWave (s : State) (id : Nat) (f : Wave → Wave) (j : Nat) : (s.modWave id f).die j = s.die j := rfl
@[simp] theorem State.vault_modWave (s : State) (id : Nat) (f : Wave → Wave) (j : Nat) : (s.modWave id f).vault j = s.vault j := rfl
@[simp] theorem State.wave_setUnit (s : State) (u : Nat) (r : Option UnitR) (j : Nat) : (s.setUnit u r).wave j = s.wave j := rfl
@[simp] theorem State.launch_setUnit (s : State) (u : Nat) (r : Option UnitR) (j : Nat) : (s.setUnit u r).launch j = s.launch j := rfl
@[simp] theorem State.core_setUnit (s : State) (u : Nat) (r : Option UnitR) (j : Nat) : (s.setUnit u r).core j = s.core j := rfl
@[simp] theorem State.vf_setUnit (s : State) (u : Nat) (r : Option UnitR) (j : Nat) : (s.setUnit u r).vf j = s.vf j := rfl
@[simp] theorem State.die_setUnit (s : State) (u : Nat) (r : Option UnitR) (j : Nat) : (s.setUnit u r).die j = s.die j := rfl
@[simp] theorem State.vault_setUnit (s : State) (u : Nat) (r : Option UnitR) (j : Nat) : (s.setUnit u r).vault j = s.vault j := rfl
@[simp] theorem State.wave_modUnit (s : State) (u : Nat) (f : UnitR → UnitR) (j : Nat) : (s.modUnit u f).wave j = s.wave j := by unfold State.modUnit; split <;> rfl
@[simp] theorem State.launch_modUnit (s : State) (u : Nat) (f : UnitR → UnitR) (j : Nat) : (s.modUnit u f).launch j = s.launch j := by unfold State.modUnit; split <;> rfl
@[simp] theorem State.core_modUnit (s : State) (u : Nat) (f : UnitR → UnitR) (j : Nat) : (s.modUnit u f).core j = s.core j := by unfold State.modUnit; split <;> rfl
@[simp] theorem State.vf_modUnit (s : State) (u : Nat) (f : UnitR → UnitR) (j : Nat) : (s.modUnit u f).vf j = s.vf j := by unfold State.modUnit; split <;> rfl
@[simp] theorem State.die_modUnit (s : State) (u : Nat) (f : UnitR → UnitR) (j : Nat) : (s.modUnit u f).die j = s.die j := by unfold State.modUnit; split <;> rfl
@[simp] theorem State.vault_modUnit (s : State) (u : Nat) (f : UnitR → UnitR) (j : Nat) : (s.modUnit u f).vault j = s.vault j := by unfold State.modUnit; split <;> rfl
@[simp] theorem State.wave_setLaunch (s : State) (l : Nat) (r : Option Launch) (j : Nat) : (s.setLaunch l r).wave j = s.wave j := rfl
@[simp] theorem State.unit_setLaunch (s : State) (l : Nat) (r : Option Launch) (j : Nat) : (s.setLaunch l r).unit j = s.unit j := rfl
@[simp] theorem State.core_setLaunch (s : State) (l : Nat) (r : Option Launch) (j : Nat) : (s.setLaunch l r).core j = s.core j := rfl
@[simp] theorem State.vf_setLaunch (s : State) (l : Nat) (r : Option Launch) (j : Nat) : (s.setLaunch l r).vf j = s.vf j := rfl
@[simp] theorem State.die_setLaunch (s : State) (l : Nat) (r : Option Launch) (j : Nat) : (s.setLaunch l r).die j = s.die j := rfl
@[simp] theorem State.vault_setLaunch (s : State) (l : Nat) (r : Option Launch) (j : Nat) : (s.setLaunch l r).vault j = s.vault j := rfl
@[simp] theorem State.wave_modLaunch (s : State) (l : Nat) (f : Launch → Launch) (j : Nat) : (s.modLaunch l f).wave j = s.wave j := by unfold State.modLaunch; split <;> rfl
@[simp] theorem State.unit_modLaunch (s : State) (l : Nat) (f : Launch → Launch) (j : Nat) : (s.modLaunch l f).unit j = s.unit j := by unfold State.modLaunch; split <;> rfl
@[simp] theorem State.core_modLaunch (s : State) (l : Nat) (f : Launch → Launch) (j : Nat) : (s.modLaunch l f).core j = s.core j := by unfold State.modLaunch; split <;> rfl
@[simp] theorem State.vf_modLaunch (s : State) (l : Nat) (f : Launch → Launch) (j : Nat) : (s.modLaunch l f).vf j = s.vf j := by unfold State.modLaunch; split <;> rfl
@[simp] theorem State.die_modLaunch (s : State) (l : Nat) (f : Launch → Launch) (j : Nat) : (s.modLaunch l f).die j = s.die j := by unfold State.modLaunch; split <;> rfl
@[simp] theorem State.vault_modLaunch (s : State) (l : Nat) (f : Launch → Launch) (j : Nat) : (s.modLaunch l f).vault j = s.vault j := by unfold State.modLaunch; split <;> rfl
@[simp] theorem State.wave_setCore (s : State) (c : Nat) (x : Core) (j : Nat) : (s.setCore c x).wave j = s.wave j := rfl
@[simp] theorem State.unit_setCore (s : State) (c : Nat) (x : Core) (j : Nat) : (s.setCore c x).unit j = s.unit j := rfl
@[simp] theorem State.launch_setCore (s : State) (c : Nat) (x : Core) (j : Nat) : (s.setCore c x).launch j = s.launch j := rfl
@[simp] theorem State.vf_setCore (s : State) (c : Nat) (x : Core) (j : Nat) : (s.setCore c x).vf j = s.vf j := rfl
@[simp] theorem State.die_setCore (s : State) (c : Nat) (x : Core) (j : Nat) : (s.setCore c x).die j = s.die j := rfl
@[simp] theorem State.vault_setCore (s : State) (c : Nat) (x : Core) (j : Nat) : (s.setCore c x).vault j = s.vault j := rfl
@[simp] theorem State.wave_modCore (s : State) (c : Nat) (f : Core → Core) (j : Nat) : (s.modCore c f).wave j = s.wave j := rfl
@[simp] theorem State.unit_modCore (s : State) (c : Nat) (f : Core → Core) (j : Nat) : (s.modCore c f).unit j = s.unit j := rfl
@[simp] theorem State.launch_modCore (s : State) (c : Nat) (f : Core → Core) (j : Nat) : (s.modCore c f).launch j = s.launch j := rfl
@[simp] theorem State.vf_modCore (s : State) (c : Nat) (f : Core → Core) (j : Nat) : (s.modCore c f).vf j = s.vf j := rfl
@[simp] theorem State.die_modCore (s : State) (c : Nat) (f : Core → Core) (j : Nat) : (s.modCore c f).die j = s.die j := rfl
@[simp] theorem State.vault_modCore (s : State) (c : Nat) (f : Core → Core) (j : Nat) : (s.modCore c f).vault j = s.vault j := rfl
@[simp] theorem State.wave_setVf (s : State) (v : Nat) (x : VFn) (j : Nat) : (s.setVf v x).wave j = s.wave j := rfl
@[simp] theorem State.unit_setVf (s : State) (v : Nat) (x : VFn) (j : Nat) : (s.setVf v x).unit j = s.unit j := rfl
@[simp] theorem State.launch_setVf (s : State) (v : Nat) (x : VFn) (j : Nat) : (s.setVf v x).launch j = s.launch j := rfl
@[simp] theorem State.core_setVf (s : State) (v : Nat) (x : VFn) (j : Nat) : (s.setVf v x).core j = s.core j := rfl
@[simp] theorem State.die_setVf (s : State) (v : Nat) (x : VFn) (j : Nat) : (s.setVf v x).die j = s.die j := rfl
@[simp] theorem State.vault_setVf (s : State) (v : Nat) (x : VFn) (j : Nat) : (s.setVf v x).vault j = s.vault j := rfl
@[simp] theorem State.wave_modVf (s : State) (v : Nat) (f : VFn → VFn) (j : Nat) : (s.modVf v f).wave j = s.wave j := rfl
@[simp] theorem State.unit_modVf (s : State) (v : Nat) (f : VFn → VFn) (j : Nat) : (s.modVf v f).unit j = s.unit j := rfl
@[simp] theorem State.launch_modVf (s : State) (v : Nat) (f : VFn → VFn) (j : Nat) : (s.modVf v f).launch j = s.launch j := rfl
@[simp] theorem State.core_modVf (s : State) (v : Nat) (f : VFn → VFn) (j : Nat) : (s.modVf v f).core j = s.core j := rfl
@[simp] theorem State.die_modVf (s : State) (v : Nat) (f : VFn → VFn) (j : Nat) : (s.modVf v f).die j = s.die j := rfl
@[simp] theorem State.vault_modVf (s : State) (v : Nat) (f : VFn → VFn) (j : Nat) : (s.modVf v f).vault j = s.vault j := rfl
@[simp] theorem State.wave_modDie (s : State) (d : Nat) (f : Die → Die) (j : Nat) : (s.modDie d f).wave j = s.wave j := rfl
@[simp] theorem State.unit_modDie (s : State) (d : Nat) (f : Die → Die) (j : Nat) : (s.modDie d f).unit j = s.unit j := rfl
@[simp] theorem State.launch_modDie (s : State) (d : Nat) (f : Die → Die) (j : Nat) : (s.modDie d f).launch j = s.launch j := rfl
@[simp] theorem State.core_modDie (s : State) (d : Nat) (f : Die → Die) (j : Nat) : (s.modDie d f).core j = s.core j := rfl
@[simp] theorem State.vf_modDie (s : State) (d : Nat) (f : Die → Die) (j : Nat) : (s.modDie d f).vf j = s.vf j := rfl
@[simp] theorem State.vault_modDie (s : State) (d : Nat) (f : Die → Die) (j : Nat) : (s.modDie d f).vault j = s.vault j := rfl
@[simp] theorem State.wave_tick (s : State) (j : Nat) : (s.tick).wave j = s.wave j := rfl
@[simp] theorem State.unit_tick (s : State) (j : Nat) : (s.tick).unit j = s.unit j := rfl
@[simp] theorem State.launch_tick (s : State) (j : Nat) : (s.tick).launch j = s.launch j := rfl
@[simp] theorem State.core_tick (s : State) (j : Nat) : (s.tick).core j = s.core j := rfl
@[simp] theorem State.vf_tick (s : State) (j : Nat) : (s.tick).vf j = s.vf j := rfl
@[simp] theorem State.die_tick (s : State) (j : Nat) : (s.tick).die j = s.die j := rfl
@[simp] theorem State.vault_tick (s : State) (j : Nat) : (s.tick).vault j = s.vault j := rfl
@[simp] theorem State.wave_setHw (s : State) (o v n : Nat) (j : Nat) : (s.setHw o v n).wave j = s.wave j := rfl
@[simp] theorem State.unit_setHw (s : State) (o v n : Nat) (j : Nat) : (s.setHw o v n).unit j = s.unit j := rfl
@[simp] theorem State.launch_setHw (s : State) (o v n : Nat) (j : Nat) : (s.setHw o v n).launch j = s.launch j := rfl
@[simp] theorem State.core_setHw (s : State) (o v n : Nat) (j : Nat) : (s.setHw o v n).core j = s.core j := rfl
@[simp] theorem State.vf_setHw (s : State) (o v n : Nat) (j : Nat) : (s.setHw o v n).vf j = s.vf j := rfl
@[simp] theorem State.die_setHw (s : State) (o v n : Nat) (j : Nat) : (s.setHw o v n).die j = s.die j := rfl
@[simp] theorem State.vault_setHw (s : State) (o v n : Nat) (j : Nat) : (s.setHw o v n).vault j = s.vault j := rfl

end Sys2Proof.Machine
end

