-- ==== Sys2Proof/Laws/Issue.lean ====
section
/-! SUPPORT. What issuing and completing an instruction can do: the gate, and the end of an instruction that continues at the next one. -/

namespace Sys2Proof.Machine

open Sys2Proof.Safety

/-- An instruction that issues passes the gate. -/
theorem gate_of_issues {s : State} {i : Instr} (h : Issues s i) : s.gate i = .go := by
  obtain ⟨h1, h2, h3, h4, h6, h5⟩ := h
  unfold me at *
  simp only [State.gate]
  rw [if_neg, if_neg, if_neg, if_neg, if_neg, if_neg]
  · intro hh
    simp only [Bool.and_eq_true, beq_iff_eq] at hh
    exact Bool.false_ne_true ((h5 hh.1.1 hh.1.2).symm.trans hh.2)
  · intro hh
    simp only [Bool.and_eq_true, bne_iff_ne, ne_eq] at hh
    exact Bool.false_ne_true ((h6 hh.1).symm.trans hh.2)
  · rw [h4]; decide
  · intro hh
    simp only [Bool.and_eq_true, beq_iff_eq, Bool.not_eq_true'] at hh
    have := h3 hh.1.1.1 hh.1.1.2 hh.1.2
    rw [hh.2] at this; exact Bool.false_ne_true this
  · intro hh
    simp only [Bool.and_eq_true, bne_iff_ne, ne_eq, Bool.not_eq_true'] at hh
    have := h2 hh.1
    rw [hh.2] at this; exact Bool.false_ne_true this
  · intro hh
    simp only [Bool.and_eq_true, Bool.not_eq_true'] at hh
    have := h1 hh.1
    rw [hh.2] at this; exact Bool.false_ne_true this

/-- An instruction that passes the gate issues. -/
theorem issues_of_gate {s : State} {i : Instr} (h : s.gate i = .go) : Issues s i := by
  simp only [State.gate] at h
  unfold Issues me
  split at h; · simp at h
  split at h; · simp at h
  split at h; · simp at h
  split at h; · simp at h
  split at h; · simp at h
  split at h; · simp at h
  simp_all

theorem gated_of_issues {s f : State} {i : Instr} (h : Issues s i) : gated i s f = .next f := by
  unfold gated; rw [gate_of_issues h]

/-! ## The parts of a completion -/

theorem Wave.variantTaint_eq (w : Wave) (i : Instr) (b : Wave) : ∃ g, w.variantTaint i b = { w with gz := g } ∧ g.choice = w.gz.choice := by
  unfold Wave.variantTaint
  split
  · exact ⟨_, rfl, rfl⟩
  · exact ⟨w.gz, rfl, rfl⟩

theorem Wave.late_eq (w : Wave) (i : Instr) : ∃ b, w.late i = { w with busy := b } := by
  unfold Wave.late; split
  · exact ⟨w.busy, rfl⟩
  · exact ⟨_, rfl⟩

theorem Wave.unfresh_eq (w : Wave) (cs : List Nat) : ∃ g, w.unfresh cs = { w with gz := g } ∧ g.choice = w.gz.choice := by
  unfold Wave.unfresh; split
  · exact ⟨w.gz, rfl, rfl⟩
  · exact ⟨_, rfl, rfl⟩

theorem Wave.stale_eq (w : Wave) (i : Instr) : ∃ g, w.stale i = { w with gz := g } ∧ g.choice = w.gz.choice := w.unfresh_eq _

theorem Wave.skip_eq (w : Wave) (n : Nat) : ∃ p g, w.skip n = { w with pc := p, gz := g } ∧ (inVariant w = false → p = w.pc + BitVec.ofNat 64 n) := by
  unfold Wave.skip
  split
  · rename_i id off h
    exact ⟨w.pc, _, rfl, fun hv => by simp [inVariant, h] at hv⟩
  · exact ⟨_, w.gz, rfl, fun _ => by apply BitVec.eq_of_toNat_eq; simp⟩

theorem Wave.complete_eq (w : Wave) (i : Instr) :
    ∃ r, w.complete i = { w with st := .ready, step := 0, wait := .none, eng := [], engi := 0, sched := none, rgn := r } := by
  unfold Wave.complete
  simp only
  split
  · exact ⟨w.rgn, rfl⟩
  · split <;> exact ⟨_, rfl⟩

/-- The end of an instruction that continues at the next one (R166): which fields it touches, and where the wave stands. -/
theorem Wave.finish_eq (w : Wave) (i : Instr) :
    ∃ p g r, w.finish i = { w with pc := p, gz := g, st := .ready, step := 0, wait := .none, eng := [], engi := 0, sched := none, rgn := r }
      ∧ (inVariant w = false → p = w.pc + BitVec.ofNat 64 i.length) := by
  obtain ⟨p, g, hs, hp⟩ := w.skip_eq i.length
  obtain ⟨r, hc⟩ := (w.skip i.length).complete_eq i
  exact ⟨p, g, r, by unfold Wave.finish; rw [hc, hs], hp⟩

/-! ## Instructions of groups 1 to 5 -/

/-- w₁ is w but for the register files, their marks, and the latches. -/
def SameBut (w w₁ : Wave) : Prop :=
  w₁ = { w with regs := w₁.regs, poison := w₁.poison, taint := w₁.taint, latA := w₁.latA, latB := w₁.latB, latC := w₁.latC }

theorem SameBut.refl (w : Wave) : SameBut w w := rfl
theorem SameBut.trans {a b c : Wave} (h : SameBut a b) (k : SameBut b c) : SameBut a c := by
  unfold SameBut at *; rw [h] at k; exact k

/-- What a completing effect becomes: the next state, in which the wave alone differs. -/
theorem runEff_ok {s : State} {i : Instr} {e : Eff} {w₁ : Wave} (h : Issues s i) (he : e (me s) = .ok w₁) (hk : SameBut (me s) w₁) :
    ∃ w', runEff i e s = .next (s.setWave s.cur w') ∧ Keeps (me s) w' ∧ Advances i.length (me s) w' ∧ w'.regs = w₁.regs ∧ w'.poison = w₁.poison := by
  have hg := gate_of_issues h
  unfold runEff
  rw [hg]
  simp only
  unfold me at he hk ⊢
  rw [he]
  refine ⟨_, rfl, ?_⟩
  obtain ⟨t, ht, htc⟩ := w₁.variantTaint_eq i (s.wave s.cur)
  obtain ⟨b, hb⟩ := (w₁.variantTaint i (s.wave s.cur)).late_eq i
  obtain ⟨g, hst, hgc⟩ := ((w₁.variantTaint i (s.wave s.cur)).late i).stale_eq i
  obtain ⟨p, g', r, hf, hp⟩ := ((((w₁.variantTaint i (s.wave s.cur)).late i).stale i)).finish_eq i
  rw [hf]
  rw [hst, hb, ht] at hp ⊢
  have hgc' : g.choice = (s.wave s.cur).gz.choice := by rw [hgc, hb, ht]; simp only; rw [htc, hk]
  have hpc : w₁.pc = (s.wave s.cur).pc := by rw [hk]
  refine ⟨?_, ⟨rfl, fun hv => ?_⟩, rfl, rfl⟩
  · unfold Keeps; rw [hk]
  · simp only at hp ⊢
    rw [hp (by simpa [inVariant, hgc'] using hv), hpc]

/-- From the effect of an instruction of groups 1 to 5 to what a statement says of it. -/
theorem completes_of_effect {s : State} {i : Instr} {e : Eff} {P : Wave → Wave → Prop} (hx : exec i s = runEff i e s)
    (h : ∃ w₁, e (me s) = .ok w₁ ∧ SameBut (me s) w₁ ∧ ∀ w', w'.regs = w₁.regs → w'.poison = w₁.poison → P (me s) w') : Completes s i P := by
  intro hi
  obtain ⟨w₁, he, hk, hP⟩ := h
  obtain ⟨w', h1, h2, h3, h4, h5⟩ := runEff_ok hi he hk
  exact ⟨w', hx.trans h1, h2, h3, hP w' h4 h5⟩

/-- What the completion of the current instruction leaves of its wave, apart from what f has changed. -/
theorem finishCur_eq (s : State) (i : Instr) (f : Wave → Wave) :
    ∃ p g r, s.finishCur i f = s.setWave s.cur { f (me s) with pc := p, gz := g, st := .ready, step := 0, wait := .none, eng := [], engi := 0, sched := none, rgn := r }
      ∧ (inVariant (f (me s)) = false → p = (f (me s)).pc + BitVec.ofNat 64 i.length) := by
  unfold State.finishCur State.modWave me
  obtain ⟨g, hs, hg⟩ := (f (s.wave s.cur)).stale_eq i
  obtain ⟨p, g', r, hf, hp⟩ := ((f (s.wave s.cur)).stale i).finish_eq i
  refine ⟨p, g', r, ?_, fun hv => ?_⟩
  · simp only; rw [hf, hs]
  · have := hp (by unfold inVariant at *; rw [hs]; simp only; rw [hg]; exact hv)
    rw [this, hs]

/-- An instruction that issues and whose effect is a change of registers. -/
theorem completes_of_finish {s : State} {i : Instr} {f : Wave → Wave} {P : Wave → Wave → Prop} (hx : Issues s i → exec i s = .next (s.finishCur i f))
    (hk : SameBut (me s) (f (me s))) (hP : ∀ w', w'.regs = (f (me s)).regs → w'.poison = (f (me s)).poison → P (me s) w') : Completes s i P := by
  intro hi
  obtain ⟨p, g, r, h, hp⟩ := finishCur_eq s i f
  refine ⟨_, (hx hi).trans (congrArg _ h), ?_, ⟨rfl, fun hv => ?_⟩, hP _ rfl rfl⟩
  · unfold Keeps; rw [hk]
  · simp only
    rw [hp (by rw [hk]; simpa [inVariant] using hv), hk]

end Sys2Proof.Machine
end

