-- ==== Sys2Proof/Laws/Operands.lean ====
section
/-! SUPPORT. What the writes of the register files do, lane by lane, and what an effect of groups 1 to 5 does where nothing is poisoned. -/

namespace Sys2Proof.Machine

open Sys2Proof.Safety

/-! ## Lanes -/

theorem key_inj {n m l k : Nat} (hl : l < 32) (hk : k < 32) (h : key n l = key m k) : n = m ∧ l = k := by
  unfold key at h; omega

theorem mem_maskLanes {m : W32} {l : Nat} : l ∈ maskLanes m ↔ l < 32 ∧ m.getLsbD l = true := by simp [maskLanes, allLanes]

theorem lt_of_mem_execLanes {w : Wave} {l : Nat} (h : l ∈ execLanes w) : l < 32 := (mem_maskLanes.mp h).1

theorem mem_active {w : Wave} {g : Guard} {l : Nat} : l ∈ active w g ↔ l ∈ execLanes w ∧ guardBit w g l = true := by
  simp [active, execLanes]

theorem lt_of_mem_active {w : Wave} {g : Guard} {l : Nat} (h : l ∈ active w g) : l < 32 := lt_of_mem_execLanes (mem_active.mp h).1

theorem nodup_execLanes (w : Wave) : (execLanes w).Nodup := List.Nodup.filter _ List.nodup_range

theorem nodup_active (w : Wave) (g : Guard) : (active w g).Nodup := (nodup_execLanes w).filter _

/-! ## Poison -/

theorem poisonTrap_none {xs : List (Nat × LV)} (h : ∀ x ∈ xs, x.2.poison = none) : poisonTrap xs = none := by
  unfold poisonTrap
  rw [List.filter_eq_nil_iff.mpr (fun x hx => by simp [h x hx])]

theorem scalarTrap_none {xs : List LV} (h : ∀ x ∈ xs, x.poison = none) : scalarTrap xs = none := by
  unfold scalarTrap
  have : xs.filterMap (·.poison) = [] := by
    rw [List.filterMap_eq_nil_iff]; exact h
  rw [this]

theorem guardTrap_none {w : Wave} {g : Guard} (h : GuardClean w g) : guardTrap w g = none := by
  unfold guardTrap
  exact poisonTrap_none (fun x hx => by obtain ⟨l, hl, rfl⟩ := List.mem_map.mp hx; exact h l hl)

theorem markOf_none {b : Bool} {f st : Nat} : markOf b f st = none ↔ b = false := by unfold markOf; cases b <;> simp

/-- Which source field is asked for has no part in whether a source is poisoned. -/
theorem srcLV_poison_none (w : Wave) (f f' : Nat) (k : EKind) (wide : Bool) (x : Src) (l : Nat) :
    (srcLV w f k wide x l).poison = none ↔ (srcLV w f' k wide x l).poison = none := by
  cases x <;> cases wide <;> simp [srcLV, vLV, oLV, markOf_none]

/-- Nor has it a part in the value. -/
theorem srcLV_val (w : Wave) (f f' : Nat) (k : EKind) (wide : Bool) (x : Src) (l : Nat) : (srcLV w f k wide x l).val = (srcLV w f' k wide x l).val := by
  cases x <;> cases wide <;> simp [srcLV, vLV, oLV]

theorem predLV_poison_none (w : Wave) (f f' n l : Nat) : (predLV w f n l).poison = none ↔ (predLV w f' n l).poison = none := by
  unfold predLV; simp only; split <;> simp [markOf_none]

/-! ## Latches -/

theorem Wave.touch_eq (w : Wave) (c : Nat) : ∃ a b d, w.touch c = { w with latA := a, latB := b, latC := d } := ⟨_, _, _, rfl⟩
theorem sameBut_touch (w : Wave) (c : Nat) : SameBut w (w.touch c) := rfl
theorem sameBut_fill (a b c : Option Opn) (w : Wave) : SameBut w (fill a b c w) := rfl
@[simp] theorem regs_touch (w : Wave) (c : Nat) : (w.touch c).regs = w.regs := rfl
@[simp] theorem poison_touch (w : Wave) (c : Nat) : (w.touch c).poison = w.poison := rfl
@[simp] theorem regs_fill (a b c : Option Opn) (w : Wave) : (fill a b c w).regs = w.regs := rfl
@[simp] theorem poison_fill (a b c : Option Opn) (w : Wave) : (fill a b c w).poison = w.poison := rfl
@[simp] theorem regs_fillScalars (xs : List (Nat × Src)) (w : Wave) : (fillScalars xs w).regs = w.regs := rfl
@[simp] theorem poison_fillScalars (xs : List (Nat × Src)) (w : Wave) : (fillScalars xs w).poison = w.poison := rfl
theorem sameBut_fillScalars (xs : List (Nat × Src)) (w : Wave) : SameBut w (fillScalars xs w) := rfl

/-! ## Scalar registers -/

theorem sameBut_writeS (n : Nat) (x : LV) (w : Wave) : SameBut w (writeS n x w) := rfl

/-- A scalar write changes its register and nothing else (R245). -/
theorem scalarGets_writeS (n : Nat) (x : LV) (w : Wave) : ScalarGets n (BitVec.ofNat 64 x.val) w (writeS n x w) := by
  refine ⟨fun m => ?_, fun m => ?_, rfl, rfl⟩
  · simp only [sAt, writeS, wrS, regs_touch]; rw [mget_mset]
  · simp only [sBad, writeS, wrS, poison_touch]; rw [mget_mset]
    by_cases h : m = n <;> simp [h]

/-- What a statement about registers says of a wave that reads alike. -/
theorem scalarGets_congr {d : Nat} {v : W64} {w a b : Wave} (h : ScalarGets d v w a) (hr : b.regs = a.regs) (hp : b.poison = a.poison) : ScalarGets d v w b := by
  unfold ScalarGets sAt sBad at *; rw [hr, hp]; exact h

/-! ## Predicates -/

theorem wrP_spec (w : Wave) (n l : Nat) (v t : Bool) :
    SameBut w (wrP w n l v t)
    ∧ (∀ m k, k < 32 → l < 32 → predBit (wrP w n l v t) m k = if m = n ∧ m ≠ 0 ∧ k = l then v else predBit w m k)
    ∧ (∀ m k, k < 32 → l < 32 → m ≠ 0 → pBad (wrP w n l v t) m k = (!(m == n && k == l) && pBad w m k))
    ∧ (wrP w n l v t).regs = { w.regs with p := (wrP w n l v t).regs.p } ∧ (wrP w n l v t).poison = { w.poison with p := (wrP w n l v t).poison.p } := by
  by_cases hn : n = 0
  · subst hn
    simp only [wrP, if_true]
    refine ⟨rfl, fun m k _ _ => ?_, fun m k _ _ hm => ?_, trivial, trivial⟩
    · by_cases h : m = 0 <;> simp [h]
    · simp [hm]
  · simp only [wrP, if_neg hn]
    refine ⟨rfl, fun m k hk hl => ?_, fun m k hk hl hm => ?_, trivial, trivial⟩
    · simp only [predBit]
      by_cases hm : m = 0
      · simp [hm]
      · rw [mget_mset]
        by_cases hkl : m = n ∧ k = l
        · obtain ⟨rfl, rfl⟩ := hkl; simp [hm]
        · have : key m k ≠ key n l := fun e => hkl (key_inj hk hl e)
          rw [if_neg this, if_neg (fun e => hkl ⟨e.1, e.2.2⟩)]
    · simp only [pBad]
      rw [mget_mset]
      by_cases hkl : m = n ∧ k = l
      · obtain ⟨rfl, rfl⟩ := hkl; simp
      · have : key m k ≠ key n l := fun e => hkl (key_inj hk hl e)
        rw [if_neg this]
        have : (m == n && k == l) = false := by
          rw [Bool.eq_false_iff]; intro e; simp at e; exact hkl e
        simp [this]

theorem sameBut_writePred (n : Nat) (xs : List (Nat × LV)) (w : Wave) : SameBut w (writePred n xs w) := by
  unfold writePred
  induction xs generalizing w with
  | nil => exact SameBut.refl w
  | cons x xs ih => exact (wrP_spec w n x.1 _ _).1.trans (ih _)

/-- A predicate write changes its predicate in the lanes it is given and nothing else (R54, R277). -/
theorem predGets_writePred (n : Nat) (ls : List Nat) (f : Nat → LV) (w : Wave) (hn : ls.Nodup) (hl : ∀ l ∈ ls, l < 32) :
    PredGets n ls (fun l => (f l).val % 2 == 1) w (writePred n (ls.map (fun l => (l, f l))) w) := by
  unfold writePred
  induction ls generalizing w with
  | nil => exact ⟨fun m k _ => by simp, fun m k _ _ => by simp, rfl, rfl⟩
  | cons a ls ih =>
    obtain ⟨-, hp, hb, hr, hq⟩ := wrP_spec w n a ((f a).val % 2 == 1) (f a).taint
    have ha := hl a (by simp)
    obtain ⟨ip, ib, ir, iq⟩ := ih (wrP w n a ((f a).val % 2 == 1) (f a).taint) hn.of_cons (fun l h => hl l (by simp [h]))
    simp only [List.map_cons, List.foldl_cons]
    refine ⟨fun m k hk => ?_, fun m k hk hm => ?_, ?_, ?_⟩
    · rw [ip m k hk, hp m k hk ha]
      by_cases hmn : m = n ∧ m ≠ 0
      · by_cases hka : k = a
        · subst hka
          have : k ∉ ls := (List.nodup_cons.mp hn).1
          simp [hmn, this]
        · simp [hmn, hka]
      · have h1 : ¬(m = n ∧ m ≠ 0 ∧ k ∈ ls) := fun e => hmn ⟨e.1, e.2.1⟩
        have h2 : ¬(m = n ∧ m ≠ 0 ∧ k = a) := fun e => hmn ⟨e.1, e.2.1⟩
        have h3 : ¬(m = n ∧ m ≠ 0 ∧ k ∈ a :: ls) := fun e => hmn ⟨e.1, e.2.1⟩
        rw [if_neg h1, if_neg h2, if_neg h3]
    · rw [ib m k hk hm, hb m k hk ha hm]
      by_cases hmn : m = n
      · by_cases hka : k = a
        · simp [hmn, hka]
        · simp [hmn, hka, beq_false_of_ne hka]
      · simp [beq_false_of_ne hmn]
    · rw [ir, hr]
    · rw [iq, hq]

theorem predGets_congr {d : Nat} {ls : List Nat} {f : Nat → Bool} {w a b : Wave} (h : PredGets d ls f w a) (hr : b.regs = a.regs) (hp : b.poison = a.poison) :
    PredGets d ls f w b := by
  unfold PredGets predBit pBad at *; rw [hr, hp]; exact h

/-- A change of marks and latches alone before the write does not matter. -/
theorem predGets_of_same {d : Nat} {ls : List Nat} {f : Nat → Bool} {w w₀ a : Wave} (h : PredGets d ls f w₀ a) (hr : w₀.regs = w.regs) (hp : w₀.poison = w.poison) :
    PredGets d ls f w a := by
  unfold PredGets predBit pBad at *; rw [← hr, ← hp]; exact h

theorem scalarGets_of_same {d : Nat} {v : W64} {w w₀ a : Wave} (h : ScalarGets d v w₀ a) (hr : w₀.regs = w.regs) (hp : w₀.poison = w.poison) : ScalarGets d v w a := by
  unfold ScalarGets sAt sBad at *; rw [← hr, ← hp]; exact h

/-! ## Scalar effects -/

/-- What a scalar instruction does where no source is poisoned (R245, R261). -/
theorem scalarOp_ok {d : Nat} {xs : List (Nat × Src)} {f : List Nat → Nat} {w : Wave} (h : ∀ x ∈ xs, (scalarLV w x.1 x.2).poison = none) :
    ∃ w₁, scalarOp d xs f w = .ok w₁ ∧ SameBut w w₁ ∧ ScalarGets d (BitVec.ofNat 64 (f (xs.map (fun x => (scalarLV w x.1 x.2).val)))) w w₁ := by
  refine ⟨writeS d ⟨f ((xs.map (fun x => scalarLV w x.1 x.2)).map (·.val)), none, (xs.map (fun x => scalarLV w x.1 x.2)).any (·.taint)⟩ (fillScalars xs w), ?_, ?_, ?_⟩
  · unfold scalarOp
    simp only
    rw [scalarTrap_none (fun y hy => by obtain ⟨x, hx, rfl⟩ := List.mem_map.mp hy; exact h x hx)]
  · exact (sameBut_fillScalars xs w).trans (sameBut_writeS ..)
  · have := scalarGets_of_same (scalarGets_writeS d ⟨f ((xs.map (fun x => scalarLV w x.1 x.2)).map (·.val)), none, (xs.map (fun x => scalarLV w x.1 x.2)).any (·.taint)⟩ (fillScalars xs w)) (regs_fillScalars xs w) (poison_fillScalars xs w)
    simpa [List.map_map, Function.comp_def] using this

/-- What an instruction with a predicate result does where nothing that it consumes is poisoned (R54, R277). -/
theorem cmpOp_ok {g : Guard} {p : Nat} {a b c : Option Opn} {f : Wave → Nat → LV} {w : Wave} (hg : GuardClean w g) (h : ∀ l ∈ active w g, (f w l).poison = none) :
    ∃ w₁, cmpOp g p a b c f w = .ok w₁ ∧ SameBut w w₁ ∧ PredGets p (active w g) (fun l => (f w l).val % 2 == 1) w w₁ := by
  refine ⟨writePred p ((active w g).map (fun l => (l, f w l))) (fill a b c w), ?_, ?_, ?_⟩
  · unfold cmpOp
    rw [guardTrap_none hg]
    simp only
    rw [poisonTrap_none (fun x hx => by obtain ⟨l, hl, rfl⟩ := List.mem_map.mp hx; exact h l hl)]
  · exact (sameBut_fill a b c w).trans (sameBut_writePred ..)
  · exact predGets_of_same (predGets_writePred p _ (f w) (fill a b c w) (nodup_active w g) (fun l hl => lt_of_mem_active hl)) rfl rfl

end Sys2Proof.Machine
end

