-- ==== Sys2Proof/Laws/Lanes.lean ====
section
/-! SUPPORT. What a result-producing write does (R58, R277): destination and last-result registers, lane by lane. -/

namespace Sys2Proof.Machine

open Sys2Proof.Safety

theorem mget_mset_key {α : Type} [DecidableEq α] (d : α) (m : SMap α) {n l j k : Nat} (v : α) (hl : l < 32) (hk : k < 32) :
    mget d (mset d m (key n l) v) (key j k) = if j = n ∧ k = l then v else mget d m (key j k) := by
  rw [mget_mset]
  by_cases h : j = n ∧ k = l
  · obtain ⟨rfl, rfl⟩ := h; simp
  · rw [if_neg h, if_neg (fun e => h (key_inj hk hl e))]

theorem vAt_wrV (w : Wave) (n v : Nat) (t : Bool) {l k : Nat} (m : Nat) (hl : l < 32) (hk : k < 32) :
    vAt (wrV w n l v t) m k = if m = n ∧ k = l then BitVec.ofNat 32 v else vAt w m k := mget_mset_key 0 _ _ hl hk
theorem oAt_wrO (w : Wave) (n v : Nat) (t : Bool) {l k : Nat} (m : Nat) (hl : l < 32) (hk : k < 32) :
    oAt (wrO w n l v t) m k = if m = n ∧ k = l then BitVec.ofNat 32 v else oAt w m k := mget_mset_key 0 _ _ hl hk
theorem vBad_wrV (w : Wave) (n v : Nat) (t : Bool) {l k : Nat} (m : Nat) (hl : l < 32) (hk : k < 32) :
    vBad (wrV w n l v t) m k = if m = n ∧ k = l then false else vBad w m k := by
  simp only [vBad, wrV]; exact mget_mset_key false _ _ hl hk
theorem oBad_wrO (w : Wave) (n v : Nat) (t : Bool) {l k : Nat} (m : Nat) (hl : l < 32) (hk : k < 32) :
    oBad (wrO w n l v t) m k = if m = n ∧ k = l then false else oBad w m k := by
  simp only [oBad, wrO]; exact mget_mset_key false _ _ hl hk

theorem yAt_shiftY (w : Wave) (v : Nat) (t : Bool) {l k : Nat} (hl : l < 32) (hk : k < 32) :
    yAt (shiftY w l v t) 0 k = (if k = l then BitVec.ofNat 64 v else yAt w 0 k)
    ∧ yAt (shiftY w l v t) 1 k = (if k = l then yAt w 0 k else yAt w 1 k) := by
  simp only [yAt, shiftY]
  rw [mget_mset_key _ _ _ hl hk, mget_mset_key _ _ _ hl hk, mget_mset_key _ _ _ hl hk]
  rw [mget_mset_key _ _ _ hl hk]
  by_cases h : k = l <;> simp [h]

theorem yBad_shiftY (w : Wave) (v : Nat) (t : Bool) {l k : Nat} (hl : l < 32) (hk : k < 32) :
    yBad (shiftY w l v t) 0 k = (!(k == l) && yBad w 0 k) ∧ yBad (shiftY w l v t) 1 k = (if k = l then yBad w 0 k else yBad w 1 k) := by
  simp only [yBad, shiftY]
  rw [mget_mset_key _ _ _ hl hk, mget_mset_key _ _ _ hl hk, mget_mset_key _ _ _ hl hk]
  rw [mget_mset_key _ _ _ hl hk]
  by_cases h : k = l <;> simp [h, beq_false_of_ne]

/-- One lane of a result-producing write. -/
theorem lanesGet_one (wide : Bool) (d : Dst) (w : Wave) (l : Nat) (x : LV) (hl : l < 32) (hd : isVO d = true) :
    LanesGet wide d [l] (fun _ => x.val) w (shiftY (wrLane wide d w (l, x)) l x.val x.taint) := by
  have hy : ∀ w' : Wave, w'.regs.y = w.regs.y → w'.poison.y = w.poison.y → ∀ k, k < 32 →
      (yAt (shiftY w' l x.val x.taint) 0 k = if k ∈ [l] then BitVec.ofNat 64 x.val else yAt w 0 k)
      ∧ (yAt (shiftY w' l x.val x.taint) 1 k = if k ∈ [l] then yAt w 0 k else yAt w 1 k)
      ∧ (yBad (shiftY w' l x.val x.taint) 0 k = (!([l].contains k) && yBad w 0 k))
      ∧ (yBad (shiftY w' l x.val x.taint) 1 k = if k ∈ [l] then yBad w 0 k else yBad w 1 k) := by
    intro w' h1 h2 k hk
    obtain ⟨a, b⟩ := yAt_shiftY w' x.val x.taint hl hk
    obtain ⟨c, e⟩ := yBad_shiftY w' x.val x.taint hl hk
    have h3 : ∀ n, yAt w' n k = yAt w n k := fun n => by simp [yAt, h1]
    have h4 : ∀ n, yBad w' n k = yBad w n k := fun n => by simp [yBad, h2]
    rw [a, b, c, e, h3, h3, h4, h4]
    by_cases h : k = l <;> simp [h]
  cases d with
  | s n => simp [isVO] at hd
  | exec => simp [isVO] at hd
  | v n =>
    cases wide with
    | false =>
      refine ⟨fun m k hk => ?_, fun m k hk => ?_, fun k hk => (hy _ rfl rfl k hk).1, fun k hk => (hy _ rfl rfl k hk).2.1, fun m k hk => ?_, fun m k hk => ?_,
        fun k hk => (hy _ rfl rfl k hk).2.2.1, fun k hk => (hy _ rfl rfl k hk).2.2.2, rfl, rfl⟩
      · have := vAt_wrV w n x.val x.taint m hl hk
        show vAt (wrV w n l x.val x.taint) m k = _
        rw [this]
        by_cases h1 : m = n <;> by_cases h2 : k = l <;> simp [h1, h2, Ne.symm]
      · show oAt w m k = _; simp
      · have := vBad_wrV w n x.val x.taint m hl hk
        show vBad (wrV w n l x.val x.taint) m k = _
        rw [this]
        by_cases h1 : m = n <;> by_cases h2 : k = l <;> simp [h1, h2]
        all_goals omega
      · show oBad w m k = _; simp
    | true =>
      refine ⟨fun m k hk => ?_, fun m k hk => ?_, fun k hk => (hy _ rfl rfl k hk).1, fun k hk => (hy _ rfl rfl k hk).2.1, fun m k hk => ?_, fun m k hk => ?_,
        fun k hk => (hy _ rfl rfl k hk).2.2.1, fun k hk => (hy _ rfl rfl k hk).2.2.2, rfl, rfl⟩
      · show vAt (wrV (wrV w n l x.val x.taint) (n + 1) l (x.val / 2 ^ 32) x.taint) m k = _
        rw [vAt_wrV _ _ _ _ m hl hk, vAt_wrV _ _ _ _ m hl hk]
        by_cases h2 : k = l
        · by_cases h1 : m = n
          · simp [h1, h2]
          · by_cases h3 : m = n + 1
            · simp [h3, h2]
            · have h4 : ¬(n = m) := fun e => h1 e.symm
              have h5 : ¬(m ≠ 0 ∧ n = m - 1) := fun e => h3 (by omega)
              simp [h1, h2, h3, h4]
              intros; omega
        · simp [h2]
      · show oAt w m k = _; simp
      · show vBad (wrV (wrV w n l x.val x.taint) (n + 1) l (x.val / 2 ^ 32) x.taint) m k = _
        rw [vBad_wrV _ _ _ _ m hl hk, vBad_wrV _ _ _ _ m hl hk]
        by_cases h2 : k = l
        · by_cases h1 : m = n
          · simp [h1, h2]
          · by_cases h3 : m = n + 1
            · simp [h3, h2]
            · have h4 : ¬(n = m) := fun e => h1 e.symm
              have h5 : ¬(m ≠ 0 ∧ n = m - 1) := fun e => h3 (by omega)
              simp [h1, h2, h3, h4]
              intros; omega
        · simp [h2]
      · show oBad w m k = _; simp
  | o n =>
    cases wide with
    | false =>
      refine ⟨fun m k hk => ?_, fun m k hk => ?_, fun k hk => (hy _ rfl rfl k hk).1, fun k hk => (hy _ rfl rfl k hk).2.1, fun m k hk => ?_, fun m k hk => ?_,
        fun k hk => (hy _ rfl rfl k hk).2.2.1, fun k hk => (hy _ rfl rfl k hk).2.2.2, rfl, rfl⟩
      · show vAt w m k = _; simp
      · have := oAt_wrO w n x.val x.taint m hl hk
        show oAt (wrO w n l x.val x.taint) m k = _
        rw [this]
        by_cases h1 : m = n <;> by_cases h2 : k = l <;> simp [h1, h2, Ne.symm]
      · show vBad w m k = _; simp
      · have := oBad_wrO w n x.val x.taint m hl hk
        show oBad (wrO w n l x.val x.taint) m k = _
        rw [this]
        by_cases h1 : m = n <;> by_cases h2 : k = l <;> simp [h1, h2]
        all_goals omega
    | true =>
      refine ⟨fun m k hk => ?_, fun m k hk => ?_, fun k hk => (hy _ rfl rfl k hk).1, fun k hk => (hy _ rfl rfl k hk).2.1, fun m k hk => ?_, fun m k hk => ?_,
        fun k hk => (hy _ rfl rfl k hk).2.2.1, fun k hk => (hy _ rfl rfl k hk).2.2.2, rfl, rfl⟩
      · show vAt w m k = _; simp
      · show oAt (wrO (wrO w n l x.val x.taint) (n + 1) l (x.val / 2 ^ 32) x.taint) m k = _
        rw [oAt_wrO _ _ _ _ m hl hk, oAt_wrO _ _ _ _ m hl hk]
        by_cases h2 : k = l
        · by_cases h1 : m = n
          · simp [h1, h2]
          · by_cases h3 : m = n + 1
            · simp [h3, h2]
            · have h4 : ¬(n = m) := fun e => h1 e.symm
              have h5 : ¬(m ≠ 0 ∧ n = m - 1) := fun e => h3 (by omega)
              simp [h1, h2, h3, h4]
              intros; omega
        · simp [h2]
      · show vBad w m k = _; simp
      · show oBad (wrO (wrO w n l x.val x.taint) (n + 1) l (x.val / 2 ^ 32) x.taint) m k = _
        rw [oBad_wrO _ _ _ _ m hl hk, oBad_wrO _ _ _ _ m hl hk]
        by_cases h2 : k = l
        · by_cases h1 : m = n
          · simp [h1, h2]
          · by_cases h3 : m = n + 1
            · simp [h3, h2]
            · have h4 : ¬(n = m) := fun e => h1 e.symm
              have h5 : ¬(m ≠ 0 ∧ n = m - 1) := fun e => h3 (by omega)
              simp [h1, h2, h3, h4]
              intros; omega
        · simp [h2]

/-- One lane after another. -/
theorem lanesGet_cons {wide : Bool} {d : Dst} {a v : Nat} {ls : List Nat} {f : Nat → Nat} {w w₁ w₂ : Wave} (ha : a ∉ ls) (hv : f a = v)
    (h : LanesGet wide d [a] (fun _ => v) w w₁) (k : LanesGet wide d ls f w₁ w₂) : LanesGet wide d (a :: ls) f w w₂ := by
  obtain ⟨h1, h2, h3, h4, h5, h6, h7, h8, h9, h10⟩ := h
  obtain ⟨k1, k2, k3, k4, k5, k6, k7, k8, k9, k10⟩ := k
  subst hv
  refine ⟨fun n l hl => ?_, fun n l hl => ?_, fun l hl => ?_, fun l hl => ?_, fun n l hl => ?_, fun n l hl => ?_, fun l hl => ?_, fun l hl => ?_, ?_, ?_⟩
  · rw [k1 n l hl, h1 n l hl]
    clear h1 h2 h3 h4 h5 h6 h7 h8 h9 h10 k1 k2 k3 k4 k5 k6 k7 k8 k9 k10
    by_cases hla : l = a
    · subst hla; simp [ha]
    · by_cases hm : l ∈ ls <;> simp [hla, hm]
  · rw [k2 n l hl, h2 n l hl]
    clear h1 h2 h3 h4 h5 h6 h7 h8 h9 h10 k1 k2 k3 k4 k5 k6 k7 k8 k9 k10
    by_cases hla : l = a
    · subst hla; simp [ha]
    · by_cases hm : l ∈ ls <;> simp [hla, hm]
  · rw [k3 l hl, h3 l hl]
    clear h1 h2 h3 h4 h5 h6 h7 h8 h9 h10 k1 k2 k3 k4 k5 k6 k7 k8 k9 k10
    by_cases hla : l = a
    · subst hla; simp [ha]
    · by_cases hm : l ∈ ls <;> simp [hla, hm]
  · rw [k4 l hl, h3 l hl, h4 l hl]
    clear h1 h2 h3 h4 h5 h6 h7 h8 h9 h10 k1 k2 k3 k4 k5 k6 k7 k8 k9 k10
    by_cases hla : l = a
    · subst hla; simp [ha]
    · by_cases hm : l ∈ ls <;> simp [hla, hm]
  · rw [k5 n l hl, h5 n l hl]
    clear h1 h2 h3 h4 h5 h6 h7 h8 h9 h10 k1 k2 k3 k4 k5 k6 k7 k8 k9 k10
    by_cases hla : l = a
    · subst hla; simp [ha]
    · by_cases hm : l ∈ ls <;> simp [hla, hm]
  · rw [k6 n l hl, h6 n l hl]
    clear h1 h2 h3 h4 h5 h6 h7 h8 h9 h10 k1 k2 k3 k4 k5 k6 k7 k8 k9 k10
    by_cases hla : l = a
    · subst hla; simp [ha]
    · by_cases hm : l ∈ ls <;> simp [hla, hm]
  · rw [k7 l hl, h7 l hl]
    clear h1 h2 h3 h4 h5 h6 h7 h8 h9 h10 k1 k2 k3 k4 k5 k6 k7 k8 k9 k10
    by_cases hla : l = a
    · subst hla; simp [ha]
    · by_cases hm : l ∈ ls <;> simp [hla, hm]
  · rw [k8 l hl, h7 l hl, h8 l hl]
    clear h1 h2 h3 h4 h5 h6 h7 h8 h9 h10 k1 k2 k3 k4 k5 k6 k7 k8 k9 k10
    by_cases hla : l = a
    · subst hla; simp [ha]
    · by_cases hm : l ∈ ls <;> simp [hla, hm]
  · rw [k9, h9]
  · rw [k10, h10]

theorem lanesGet_nil (wide : Bool) (d : Dst) (f : Nat → Nat) (w : Wave) : LanesGet wide d [] f w w := by
  refine ⟨?_, ?_, ?_, ?_, ?_, ?_, ?_, ?_, rfl, rfl⟩ <;> simp

theorem lanesGet_of_same {wide : Bool} {d : Dst} {ls : List Nat} {f : Nat → Nat} {w w₀ a : Wave} (h : LanesGet wide d ls f w₀ a) (hr : w₀.regs = w.regs) (hp : w₀.poison = w.poison) :
    LanesGet wide d ls f w a := by
  unfold LanesGet vAt oAt yAt vBad oBad yBad at *; rw [← hr, ← hp]; exact h

theorem lanesGet_congr {wide : Bool} {d : Dst} {ls : List Nat} {f : Nat → Nat} {w a b : Wave} (h : LanesGet wide d ls f w a) (hr : b.regs = a.regs) (hp : b.poison = a.poison) :
    LanesGet wide d ls f w b := by
  unfold LanesGet vAt oAt yAt vBad oBad yBad at *; rw [hr, hp]; exact h

theorem sameBut_lane (wide : Bool) (d : Dst) (w : Wave) (x : Nat × LV) : SameBut w (shiftY (wrLane wide d w x) x.1 x.2.val x.2.taint) := by
  cases d <;> cases wide <;> rfl

theorem sameBut_lanes (wide : Bool) (d : Dst) (xs : List (Nat × LV)) (w : Wave) :
    SameBut w (xs.foldl (fun w x => shiftY (wrLane wide d w x) x.1 x.2.val x.2.taint) w) := by
  induction xs generalizing w with
  | nil => exact SameBut.refl w
  | cons x xs ih => exact (sameBut_lane wide d w x).trans (ih _)

theorem sameBut_touchDst (wide : Bool) (d : Dst) (w : Wave) : SameBut w (touchDst wide d w) := by
  unfold touchDst; split <;> rfl

theorem sameBut_touchY (w : Wave) : SameBut w w.touchY := rfl

theorem sameBut_produce (wide : Bool) (d : Dst) (xs : List (Nat × LV)) (w : Wave) : SameBut w (produce wide d xs w) := by
  unfold produce
  simp only
  split
  · exact sameBut_lanes ..
  · exact ((sameBut_lanes wide d xs w).trans (sameBut_touchDst ..)).trans (sameBut_touchY _)

theorem regs_produce (wide : Bool) (d : Dst) (xs : List (Nat × LV)) (w : Wave) :
    (produce wide d xs w).regs = (xs.foldl (fun w x => shiftY (wrLane wide d w x) x.1 x.2.val x.2.taint) w).regs
    ∧ (produce wide d xs w).poison = (xs.foldl (fun w x => shiftY (wrLane wide d w x) x.1 x.2.val x.2.taint) w).poison := by
  unfold produce
  generalize xs.foldl (fun w x => shiftY (wrLane wide d w x) x.1 x.2.val x.2.taint) w = w'
  simp only
  split
  · exact ⟨rfl, rfl⟩
  · unfold touchDst
    split <;> exact ⟨rfl, rfl⟩

/-- A result-producing write changes its destination and the last-result registers in the lanes it is given, and nothing else (R58, R277). -/
theorem lanesGet_produce (wide : Bool) (d : Dst) (ls : List Nat) (f : Nat → LV) (w : Wave) (hn : ls.Nodup) (hl : ∀ l ∈ ls, l < 32) (hd : isVO d = true) :
    LanesGet wide d ls (fun l => (f l).val) w (produce wide d (ls.map (fun l => (l, f l))) w) := by
  obtain ⟨hr, hp⟩ := regs_produce wide d (ls.map (fun l => (l, f l))) w
  refine lanesGet_congr ?_ hr hp
  clear hr hp
  induction ls generalizing w with
  | nil => exact lanesGet_nil ..
  | cons a ls ih =>
    simp only [List.map_cons, List.foldl_cons]
    exact lanesGet_cons (List.nodup_cons.mp hn).1 rfl (lanesGet_one wide d w a (f a) (hl a (by simp)) hd)
      (ih _ hn.of_cons (fun l h => hl l (by simp [h])))

/-- What a result-producing instruction does where nothing that it consumes is poisoned (R58, R277). -/
theorem vecOp_ok {g : Guard} {wide : Bool} {d : Dst} {a b c : Option Opn} {f : Wave → Nat → LV} {w : Wave} (hd : isVO d = true)
    (hg : GuardClean w g) (h : ∀ l ∈ active w g, (f w l).poison = none) :
    ∃ w₁, vecOp g wide d a b c f w = .ok w₁ ∧ SameBut w w₁ ∧ LanesGet wide d (active w g) (fun l => (f w l).val) w w₁ := by
  refine ⟨produce wide d ((active w g).map (fun l => (l, f w l))) (fill a b c w), ?_, ?_, ?_⟩
  · unfold vecOp
    rw [guardTrap_none hg]
    simp only
    rw [poisonTrap_none (fun x hx => by obtain ⟨l, hl, rfl⟩ := List.mem_map.mp hx; exact h l hl)]
  · exact (sameBut_fill a b c w).trans (sameBut_produce ..)
  · exact lanesGet_of_same (lanesGet_produce wide d _ (f w) (fill a b c w) (nodup_active w g) (fun l hl => lt_of_mem_active hl) hd) rfl rfl

/-- The marks of a value computed from others. -/
theorem LV.map_poison (f : Nat → Nat) (a : LV) : (LV.map f a).poison = a.poison := rfl
theorem LV.mix_none {v : Nat} {a b : LV} (ha : a.poison = none) (hb : b.poison = none) : (LV.mix v a b).poison = none := by
  simp [LV.mix, ha, hb]
theorem LV.map2_none {f : Nat → Nat → Nat} {a b : LV} (ha : a.poison = none) (hb : b.poison = none) : (LV.map2 f a b).poison = none := LV.mix_none ha hb
theorem LV.map3_none {f : Nat → Nat → Nat → Nat} {a b c : LV} (ha : a.poison = none) (hb : b.poison = none) (hc : c.poison = none) : (LV.map3 f a b c).poison = none :=
  LV.mix_none (LV.mix_none ha hb) hc

theorem Opn.at_none {x : Opn} {w : Wave} {l : Nat} (field : Nat) (h : (x.at w 2 l).poison = none) : (x.at w field l).poison = none :=
  (srcLV_poison_none w field 2 x.k x.wide x.src l).mpr h

theorem Opn.at_val (x : Opn) (w : Wave) (field l : Nat) : (x.at w field l).val = (x.at w 2 l).val := srcLV_val w field 2 x.k x.wide x.src l

end Sys2Proof.Machine
end

