-- ==== Sys2Proof/Laws/Memory.lean ====
section
/-! SUPPORT. Laws of memory: a read after a write, a write leaves every other byte alone, and every memory operation keeps the canonical form. -/

namespace Sys2Proof.Machine

/-! ## One byte -/

@[simp] theorem readB_writeB_same (m : List Host.Cell) (a : Nat) (v : Byte) : readB (writeB m a v) a = v := mget_mset_same ..
theorem readB_writeB_ne (m : List Host.Cell) {a b : Nat} (v : Byte) (h : b ≠ a) : readB (writeB m a v) b = readB m b := mget_mset_ne _ _ _ h

theorem wf_writeB {m : List Host.Cell} (a : Nat) (v : Byte) (h : Memory.wf m = true) : Memory.wf (writeB m a v) = true := mwf_mset a v h

/-! ## Several bytes -/

theorem readB_writeBytes_out {m : List Host.Cell} {a b : Nat} {bs : List Byte} (h : b < a ∨ a + bs.length ≤ b) :
    readB (writeBytes m a bs) b = readB m b := by
  induction bs generalizing m a with
  | nil => rfl
  | cons x bs ih =>
    simp only [writeBytes, List.length_cons] at *
    rw [ih (by omega), readB_writeB_ne _ _ (by omega)]

theorem readB_writeBytes_in {m : List Host.Cell} {a i : Nat} {bs : List Byte} (h : i < bs.length) :
    readB (writeBytes m a bs) (a + i) = bs[i] := by
  induction bs generalizing m a i with
  | nil => simp at h
  | cons x bs ih =>
    simp only [writeBytes]
    cases i with
    | zero => rw [readB_writeBytes_out (by omega)]; simp
    | succ i =>
      have := ih (m := writeB m a x) (a := a + 1) (i := i) (by simpa using h)
      simpa [Nat.add_assoc, Nat.add_comm 1 i] using this

theorem readB_writeN_out {m : List Host.Cell} {a b v n : Nat} (h : b < a ∨ a + n ≤ b) : readB (writeN m a v n) b = readB m b := by
  induction n generalizing m a v with
  | zero => rfl
  | succ n ih => simp only [writeN]; rw [ih (by omega), readB_writeB_ne _ _ (by omega)]

theorem readN_congr {m n : List Host.Cell} {a k : Nat} (h : ∀ i, a ≤ i → i < a + k → readB m i = readB n i) : readN m a k = readN n a k := by
  induction k generalizing a with
  | zero => rfl
  | succ k ih => simp only [readN]; rw [h a (by omega) (by omega), ih (fun i _ _ => h i (by omega) (by omega))]

/-- What is written as n little-endian bytes is read back as n little-endian bytes (R8). -/
theorem readN_writeN (m : List Host.Cell) (a v n : Nat) : readN (writeN m a v n) a n = v % 256 ^ n := by
  induction n generalizing m a v with
  | zero => simp [readN, Nat.mod_one]
  | succ n ih =>
    simp only [readN, writeN]
    rw [ih, readB_writeN_out (by omega), readB_writeB_same]
    simp only [BitVec.toNat_ofNat]
    rw [show (2 : Nat) ^ 8 = 256 from rfl, show (256 : Nat) ^ (n + 1) = 256 * 256 ^ n from by rw [Nat.pow_succ, Nat.mul_comm], Nat.mod_mul]

theorem readN_writeN_out {m : List Host.Cell} {a b v n k : Nat} (h : b + k ≤ a ∨ a + n ≤ b) : readN (writeN m a v n) b k = readN m b k :=
  readN_congr (fun i _ _ => readB_writeN_out (by omega))

theorem wf_writeBytes {m : List Host.Cell} (a : Nat) (bs : List Byte) (h : Memory.wf m = true) : Memory.wf (writeBytes m a bs) = true := by
  induction bs generalizing m a with
  | nil => exact h
  | cons x bs ih => exact ih _ (wf_writeB a x h)

theorem wf_writeN {m : List Host.Cell} (a v n : Nat) (h : Memory.wf m = true) : Memory.wf (writeN m a v n) = true := by
  induction n generalizing m a v with
  | zero => exact h
  | succ n ih => exact ih _ _ (wf_writeB a _ h)

theorem wf_filter {m : List Host.Cell} (p : Host.Cell → Bool) (h : Memory.wf m = true) : Memory.wf (m.filter p) = true := mwf_filter p h

theorem wf_foldl {β : Type} {f : List Host.Cell → β → List Host.Cell} (hf : ∀ m x, Memory.wf m = true → Memory.wf (f m x) = true)
    {m : List Host.Cell} (xs : List β) (h : Memory.wf m = true) : Memory.wf (xs.foldl f m) = true := by
  induction xs generalizing m with
  | nil => exact h
  | cons x xs ih => exact ih (hf _ _ h)

/-! ## The operations of the state that write memory -/

theorem wf_homeWrite {s : State} (a : Nat) (bs : List Byte) (h : Memory.wf s.mem = true) : Memory.wf (s.homeWrite a bs).mem = true := wf_writeBytes a bs h

theorem wf_maskWrite {s : State} (a : Nat) (d : SMap (Option Byte)) (h : Memory.wf s.mem = true) : Memory.wf (s.maskWrite a d).mem = true := by
  refine wf_foldl (fun m x hm => ?_) d h
  split
  · exact wf_writeB _ _ hm
  · exact hm

theorem wf_zeroFill {s : State} (a n : Nat) (h : Memory.wf s.mem = true) : Memory.wf (s.zeroFill a n).mem = true := wf_filter _ h

/-- Outside the bytes written, a write at a home leaves memory alone (R116). -/
theorem readB_homeWrite_out {s : State} {a b : Nat} {bs : List Byte} (h : b < a ∨ a + bs.length ≤ b) : readB (s.homeWrite a bs).mem b = readB s.mem b :=
  readB_writeBytes_out h

theorem wf_toPool {s : State} (v a size : Nat) (h : Memory.wf s.mem = true) : Memory.wf (s.toPool v a size).mem = true := wf_filter _ h
theorem wf_toReserve {s : State} (a size : Nat) (h : Memory.wf s.mem = true) : Memory.wf (s.toReserve a size).mem = true := wf_filter _ h

theorem wf_reset : Memory.wf State.reset.mem = true := rfl

end Sys2Proof.Machine
end

