-- ==== Sys2Proof/Laws/Turns.lean ====
section
/-! SUPPORT. What the operations around an issue can do: the counts of a trace unit (R403), and held fabric requests (R412). -/

namespace Sys2Proof.Machine

/-- The second state is the first with other trace counters. -/
def OnlyTraced (s t : State) : Prop := ∃ cs, t = { s with cores := cs } ∧ ∀ k, ∃ x, mget {} cs k = { mget {} s.cores k with trcnt := x }

theorem OnlyTraced.refl (s : State) : OnlyTraced s s := ⟨s.cores, rfl, fun _ => ⟨_, rfl⟩⟩
theorem OnlyTraced.trans {s t u : State} : OnlyTraced s t → OnlyTraced t u → OnlyTraced s u := by
  rintro ⟨cs, rfl, h⟩ ⟨ds, rfl, h'⟩
  refine ⟨ds, rfl, fun k => ?_⟩
  obtain ⟨x, hx⟩ := h k
  obtain ⟨y, hy⟩ := h' k
  exact ⟨y, by rw [hy]; show { mget {} cs k with trcnt := y } = _; rw [hx]⟩

theorem OnlyTraced.foldl {β : Type} {f : State → β → State} (h : ∀ s b, OnlyTraced s (f s b)) (l : List β) (s : State) : OnlyTraced s (l.foldl f s) := by
  induction l generalizing s with
  | nil => exact .refl s
  | cons b l ih => exact (h s b).trans (ih _)

/-- Counting in a trace unit writes its counters and nothing else. -/
theorem trace_spec (s : State) (c ev n : Nat) : OnlyTraced s (s.trace c ev n) := by
  unfold State.trace
  split
  · exact .refl s
  · refine OnlyTraced.foldl (fun s k => ?_) _ s
    dsimp only
    split
    · refine ⟨_, rfl, fun j => ?_⟩
      by_cases h : j = c
      · subst h; exact ⟨_, mget_mset_same ..⟩
      · exact ⟨_, mget_mset_ne _ _ _ h⟩
    · exact .refl s

/-- Noting the issues withheld for power counts in trace units and does nothing else. -/
theorem noteWithheld_spec (s : State) : OnlyTraced s s.noteWithheld := OnlyTraced.foldl (fun s id => trace_spec s (coreOf id) 7 1) _ s

/-- Where no request is held nothing is sent. -/
theorem unhold_of_none {s : State} (h : ∀ q ∈ s.reqs, q.held = false) : s.unhold = s := by
  have : s.reqs.filter (·.held) = [] := List.filter_eq_nil_iff.mpr fun q hq => by simp [h q hq]
  rw [State.unhold, this]; rfl

end Sys2Proof.Machine
end

