-- ==== Sys2Proof/Tests/Slice0.lean ====
section
/-! SUPPORT. The model's own tests: terms that WellFormed refuses, words written out from the encoding tables of the spec, one step on small states, and for each statement a state that meets what it assumes. -/

namespace Sys2Proof.Tests

set_option Elab.async false

open Sys2Proof Sys2Proof.Machine Sys2Proof.Safety

/-! ## WellFormed: a term for each check, which the check refuses -/

/-- Unguarded. -/
def g0 : Guard := ⟨0, false⟩
/-- Sources without a hold. -/
def v (n : Nat) : HSrc := ⟨.v n, false⟩
def im (i : Int) : HSrc := ⟨.imm i, false⟩
def sr (n : Nat) : HSrc := ⟨.s n, false⟩

theorem test_wf_good : WellFormed 12 (.add .w32 g0 (.v 11) ⟨.v 3, true⟩ (im (-128))) = true := by decide
theorem test_wf_budget : WellFormed 12 (.add .w32 g0 (.v 0) (v 12) (v 1)) = false ∧ WellFormed 12 (.add .w32 g0 (.v 12) (v 0) (v 1)) = false := by decide
theorem test_wf_ranges : WellFormed 240 (.sadd 64 (.s 0) (.s 1)) = false ∧ WellFormed 240 (.sadd 0 (.s 64) (.s 1)) = false ∧ WellFormed 240 (.add .w32 g0 (.o 8) (v 0) (v 1)) = false
    ∧ WellFormed 240 (.add .w32 g0 (.v 0) ⟨.y 2, false⟩ (v 1)) = false ∧ WellFormed 240 (.add .w32 g0 (.v 0) (im 128) (v 1)) = false := by decide
theorem test_wf_kinds : WellFormed 240 (.sadd 0 (.v 1) (.s 1)) = false ∧ WellFormed 240 (.hrel .exec) = false ∧ WellFormed 240 (.hrel (.v 2)) = false ∧ WellFormed 240 (.add .w32 g0 .exec (v 0) (v 1)) = false
    ∧ WellFormed 240 (.add .w32 g0 (.s 1) (v 0) (v 1)) = false := by decide
theorem test_wf_hold : WellFormed 240 (.add .w32 g0 (.v 0) ⟨.s 1, true⟩ (v 1)) = false := by decide
theorem test_wf_even : WellFormed 240 (.add .w64 g0 (.v 1) (v 2) (v 4)) = false ∧ WellFormed 240 (.add .w64 g0 (.v 0) (v 3) (v 4)) = false ∧ WellFormed 240 (.evget 3) = false := by decide
theorem test_wf_predicate : WellFormed 240 (.scmp false .eq 128 (.s 0) (.s 1)) = false := by decide
theorem test_wf_guard : WellFormed 240 (.add .w32 ⟨0, true⟩ (.v 0) (v 1) (v 2)) = false ∧ WellFormed 240 (.add .w32 ⟨128, false⟩ (.v 0) (v 1) (v 2)) = false := by decide
theorem test_wf_literals : WellFormed 240 (.add .w32 g0 (.v 0) ⟨.lit 5, false⟩ ⟨.lit 5, false⟩) = false := by decide
theorem test_wf_type : WellFormed 240 (.div .w8 true g0 (.v 0) (v 1) (v 2)) = false ∧ WellFormed 240 (.fdot2 .f32 g0 (.v 0) (v 1) (v 2) (v 3)) = false ∧ WellFormed 240 (.cvt .fp32 .fp32 g0 (.v 0) (v 1)) = false := by decide
theorem test_wf_control : WellFormed 240 (.ifP false 1 (2 ^ 20)) = false ∧ WellFormed 12 (.region 13 0) = false ∧ WellFormed 240 (.region 5 256) = false ∧ WellFormed 240 (.wait 64 0 0 0) = false := by decide
theorem test_wf_tile : WellFormed 240 (.mtask (.s 0) (.s 1) (.v 0) (.s 2)) = false := by decide
theorem test_wf_pair : WellFormed 240 (.pair ⟨.addU32, .v 3, .v 1, some (.v 2)⟩ ⟨.addU32, .v 10, .v 4, some (.v 5)⟩) = false
    ∧ WellFormed 240 (.pair ⟨.movU32, .v 7, .v 1, some (.v 2)⟩ ⟨.addU32, .v 10, .v 4, some (.v 5)⟩) = false ∧ WellFormed 240 (.addU32Compact (.v 120) (.v 0) (.imm 0)) = false
    ∧ WellFormed 240 (.addU32Compact (.v 0) (.v 0) (.imm 31)) = false := by decide
theorem test_wf_event : WellFormed 240 .coldStart = false := by decide

/-! ## Decoding: words laid out by R218, R226 and R227 with the opcodes of R230 and R235 to R242 -/

/-- A full form: opcode, D, A, B, C, then AUX, GP, GS, and the hold bits HA 1, HB 2, HC 4 (R218). -/
def full (op d a b c : Nat) (aux gp gs hold : Nat := 0) : Nat :=
  op * 2 ^ 2 + aux * 2 ^ 12 + gp * 2 ^ 13 + gs * 2 ^ 20 + d * 2 ^ 21 + a * 2 ^ 31 + b * 2 ^ 41 + c * 2 ^ 51 + hold * 2 ^ 61
/-- The code of scalar register n and of an immediate (R219). -/
def S (n : Nat) : Nat := 256 + n
def I (n : Nat) : Nat := 640 + n
/-- An I field of B and C together (R224). -/
def immBC (op d a n : Nat) (aux : Nat := 0) : Nat := full op d a (n % 1024) (n / 1024) aux
/-- A restricted opcode in a compact form (R227). -/
def small (op d a b : Nat) : Nat := 3 + op * 2 ^ 2 + d * 2 ^ 8 + a * 2 ^ 16 + b * 2 ^ 24

/-- The words decode to the instructions beside them. -/
def reads (n : Nat) (xs : List (Nat × Instr)) : Bool := xs.all fun x => decodeTableWord n x.1 == some x.2

theorem test_decode_control : reads 64 [
    (0, .nop), (immBC 0x001 0 0 (5 + 256 * 3), .region 5 3), (immBC 0x002 0 2 6, .ifP false 2 6), (immBC 0x002 0 2 6 1, .ifP true 2 6), (immBC 0x003 0 0 4, .elseP 4), (full 0x004 0 0 0 0, .endif), (full 0x005 0 0 0 0, .loop),
    (immBC 0x006 0 0 8, .endloop 8), (full 0x007 0 1 0 0, .breakP false 1), (full 0x008 0 1 0 0 1, .contP true 1), (immBC 0x009 (S 5) 0 0xFFFFE, .callRelative 5 (-2)), (full 0x00A (S 5) 6 0 0, .callIndirect 5 (v 6)),
    (full 0x00B 0 (S 5) 0 0, .ret (sr 5)), (full 0x00C 0 0 0 0, .exit), (immBC 0x00D 0 0 0xFFFFF, .trap 0xFFFFF), (full 0x00E 0 0 0 0, .tret), (immBC 0x00F 0 0 7, .bkpt 7)] = true := by decide

theorem test_decode_system : reads 64 [
    (full 0x010 0 (S 2) 4 0, .spawn (sr 2) (v 4)), (full 0x011 0 0 0 0, .yield), (immBC 0x012 0 0 0x40, .svc 0x40), (immBC 0x018 (S 4) 0 0x20, .rdsys 4 0x20), (immBC 0x019 0 (S 4) 0x10, .wrsys (.s 4) 0x10),
    (full 0x01A (S 4) 0 0 0, .rdtime 4), (immBC 0x01B 7 0 0, .rdid (.v 7) 0), (immBC 0x01B (S 7) 0 3, .rdid (.s 7) 3)] = true := by decide

theorem test_decode_scalar : reads 64 [
    (full 0x080 (S 1) (S 2) (S 3) 0, .sadd 1 (.s 2) (.s 3)), (full 0x081 (S 5) (S 5) (I 1) 0, .ssub 5 (.s 5) (.imm 1)), (full 0x082 (S 4) (S 4) (S 5) 0, .smul 4 (.s 4) (.s 5)), (full 0x083 (S 1) (S 2) (S 3) 0 1, .smulh true 1 (.s 2) (.s 3)),
    (full 0x084 (S 1) (S 2) (S 3) 0 0, .sdiv false 1 (.s 2) (.s 3)), (full 0x085 (S 1) (S 2) (S 3) 0 1, .srem true 1 (.s 2) (.s 3)), (full 0x086 (S 1) 330 (S 3) 0, .sand 1 .exec (.s 3)), (full 0x087 (S 1) (S 2) (S 3) 0, .sor 1 (.s 2) (.s 3)),
    (full 0x088 (S 1) (S 2) (S 3) 0, .sxor 1 (.s 2) (.s 3)), (full 0x089 (S 1) (S 2) (S 3) 0, .sshl 1 (.s 2) (.s 3)), (full 0x08A (S 1) (S 2) (S 3) 0, .sshr 1 (.s 2) (.s 3)), (full 0x08B (S 1) (S 2) (S 3) 0, .ssar 1 (.s 2) (.s 3)),
    (full 0x08C (S 1) (S 2) (S 3) 0 1, .smin true 1 (.s 2) (.s 3)), (full 0x08D (S 1) (S 2) (S 3) 0 0, .smax false 1 (.s 2) (.s 3)), (full 0x08E 1 (S 5) (I 2) 2 1, .scmp true .lt 1 (.s 5) (.imm 2)), (full 0x08F 330 (S 2) 0 0, .smov .exec (.s 2)),
    (immBC 0x090 (S 4) 0 0xFFFFF, .sli 4 (-1)), (full 0x091 (S 1) (S 2) 0 0, .sclz 1 (.s 2)), (full 0x092 (S 1) (S 2) 0 0, .spopc 1 (.s 2)), (full 0x093 (S 1) (S 2) (S 3) (S 4) 1, .sbfx true 1 (.s 2) (.s 3) (.s 4)),
    (full 0x094 (S 1) (S 2) (S 3) (S 4), .sbfi 1 (.s 2) (.s 3) (.s 4)), (full 0x095 (S 1) (S 2) (S 3) (I 2), .sadr 1 (.s 2) (.s 3) (.imm 2)), (full 0x096 (S 1) (S 2) (I 8) 0 1, .sext true 1 (.s 2) (.imm 8))] = true := by decide

theorem test_decode_predicate : reads 64 [
    (full 0x100 1 2 3 0, .pand g0 1 2 3), (full 0x101 1 2 3 0 0 4 0, .por ⟨4, false⟩ 1 2 3), (full 0x102 1 2 3 0 0 4 1, .pxor ⟨4, true⟩ 1 2 3), (full 0x103 1 2 0 0, .pnot g0 1 2), (full 0x104 1 127 0 0, .pmov g0 1 (.p 127)),
    (full 0x104 1 320 0 0 1, .pmov g0 1 (.val ⟨.o 0, false⟩)), (full 0x105 1 2 0 0, .pany g0 1 2), (full 0x106 1 2 0 0, .pall g0 1 2), (full 0x107 (S 1) 2 0 0, .pcnt g0 1 2), (full 0x108 (S 1) 2 0 0, .pfirst g0 1 2),
    (full 0x109 330 2 0 0, .pballot g0 .exec 2)] = true := by decide

theorem test_decode_integer : reads 64 [
    (full 0x180 1 2 3 0, .add .w32 g0 (.v 1) (v 2) (v 3)), (full 0x185 2 4 6 0, .sub .w64 g0 (.v 2) (v 4) (v 6)), (full 0x18A 1 2 3 0, .mul .w16 g0 (.v 1) (v 2) (v 3)), (full 0x18F 1 2 3 0 1, .mulh .w8 true g0 (.v 1) (v 2) (v 3)),
    (full 0x190 1 2 3 4 0 0 0 4, .mad .w32 g0 (.v 1) (v 2) (v 3) ⟨.v 4, true⟩), (full 0x194 8 2 (I 4) 0 1, .div .w32 true g0 (.v 8) (v 2) (im 4)), (full 0x199 2 4 6 0 0, .rem .w64 false g0 (.v 2) (v 4) (v 6)), (full 0x19C 1 2 3 0 1, .min .w32 true g0 (.v 1) (v 2) (v 3)),
    (full 0x1A0 1 2 3 0 0, .max .w32 false g0 (.v 1) (v 2) (v 3)), (full 0x1A4 1 2 0 0 1, .abs .w32 true g0 (.v 1) (v 2)), (full 0x1A8 1 2 3 0, .and .w32 g0 (.v 1) (v 2) (v 3)), (full 0x1AC 1 2 3 0, .or .w32 g0 (.v 1) (v 2) (v 3)),
    (full 0x1B0 1 2 3 0, .xor .w32 g0 (.v 1) (v 2) (v 3)), (full 0x1B4 1 2 0 0, .not .w32 g0 (.v 1) (v 2)), (full 0x1B8 1 2 3 0, .shl .w32 g0 (.v 1) (v 2) (v 3)), (full 0x1BC 1 2 3 0, .shr .w32 g0 (.v 1) (v 2) (v 3)),
    (full 0x1C0 1 2 3 0, .sar .w32 g0 (.v 1) (v 2) (v 3)), (full 0x1C4 1 2 0 0, .clz .w32 g0 (.v 1) (v 2)), (full 0x1C8 1 2 0 0, .popc .w32 g0 (.v 1) (v 2)), (full 0x1CC 1 2 3 4 1, .bfx .w32 true g0 (.v 1) (v 2) (v 3) (v 4)),
    (full 0x1D0 1 2 3 4, .bfi .w32 g0 (.v 1) (v 2) (v 3) (v 4)), (full 0x1D4 1 2 3 5, .sel .w32 g0 (.v 1) (v 2) (v 3) 5), (full 0x1D8 2 320 (S 7) 2, .cmp .w32 false .lt g0 2 ⟨.o 0, false⟩ (sr 7)), (full 0x1DC 330 2 0 0, .mov .w32 g0 .exec (v 2))] = true := by decide

theorem test_decode_lanes : reads 64 [
    (full 0x1E0 1 2 3 3, .shfl .w32 .xor g0 (.v 1) (v 2) (v 3)), (full 0x1E4 1 2 (S 3) 0, .bcast .w32 g0 (.v 1) (v 2) (.s 3)), (0x00000000804077B0, .lscan .w32 true .add false ⟨3, false⟩ (.v 2) (v 1)),
    (0x00100000A0C077A0, .lred .w32 true .max ⟨3, false⟩ (.s 6) (v 1)), (full 0x1EC 2 1 0 8 1 3 0, .lscan .w32 true .add true ⟨3, false⟩ (.v 2) (v 1)), (full 0x1F0 1 2 3 0 1, .addSat .w32 true g0 (.v 1) (v 2) (v 3)),
    (full 0x1F4 1 2 3 0 0, .subSat .w32 false g0 (.v 1) (v 2) (v 3)), (full 0x1F8 1 2 3 0 1, .mulSat .w32 true g0 (.v 1) (v 2) (v 3))] = true := by decide

theorem test_decode_float : reads 64 [
    (full 0x200 1 2 3 0, .fadd .f32 g0 (.v 1) (v 2) (v 3)), (full 0x205 2 4 6 0, .fsub .f64 g0 (.v 2) (v 4) (v 6)), (full 0x20A 1 2 3 0, .fmul .f16 g0 (.v 1) (v 2) (v 3)), (0x4090180302A00830, .fma .f32 g0 (.v 21) (v 6) ⟨.v 12, true⟩ (v 18)),
    (full 0x213 1 2 3 0, .fmin .bf16 g0 (.v 1) (v 2) (v 3)), (full 0x214 1 2 3 0, .fmax .f32 g0 (.v 1) (v 2) (v 3)), (full 0x218 1 2 3 0, .fdiv .f32 g0 (.v 1) (v 2) (v 3)), (full 0x21D 2 4 0 0, .fsqrt .f64 g0 (.v 2) (v 4)),
    (full 0x220 1 2 0 0, .frcp .f32 g0 (.v 1) (v 2)), (full 0x224 1 2 0 0, .frsq .f32 g0 (.v 1) (v 2)), (full 0x228 1 2 0 0, .fexp2 .f32 g0 (.v 1) (v 2)), (full 0x22C 1 2 0 0, .flog2 .f32 g0 (.v 1) (v 2)),
    (full 0x230 1 2 0 0, .fsin .f32 g0 (.v 1) (v 2)), (full 0x234 1 2 0 0, .fcos .f32 g0 (.v 1) (v 2)), (full 0x238 1 2 0 0, .ftanh .f32 g0 (.v 1) (v 2)), (full 0x23C 5 2 3 6, .fcmp .f32 .un g0 5 (v 2) (v 3)),
    (full 0x240 5 2 0 0x1FF, .fcls .f32 g0 5 (v 2) 0x1FF), (full 0x244 1 2 0 5, .fround .f32 .dyn g0 (.v 1) (v 2)), (full 0x24A 1 2 3 4, .fdot2 .f16 g0 (.v 1) (v 2) (v 3) (v 4))] = true := by decide

theorem test_decode_conversion : reads 64 [
    (0x0A78000180800A00, .cvt .t8 .fp32 g0 (.v 4) (v 3)), (full 0x281 1 2 3 (8 + 32 * 10), .pack .fp16 .fp32 g0 (.v 1) (v 2) (v 3)), (full 0x282 1 (I 8) (I 16) (12 + 32 * 10), .packTile .e4m3 (.v 1) (.imm 8) (.imm 16)),
    (full 0x283 1 2 3 (10 + 32 * 8), .unpk .fp32 .fp16 g0 (.v 1) (v 2) (v 3)), (full 0x284 1 2 3 (12 + 32 * 10), .qnt .e4m3 g0 (.v 1) (v 2) (v 3)), (full 0x285 1 2 3 (10 + 32 * 12), .dqnt .e4m3 g0 (.v 1) (v 2) (v 3)),
    (0x0000000281200A20, .csum .add g0 (.v 9) (v 5)), (0x0000140480000A24, .chk .eq g0 (v 9) (v 10))] = true := by decide

theorem test_decode_memory : reads 64 [
    (0x1480000100800C08, .ld .b4 false g0 (.v 4) (v 2) (im 16)), (full 0x305 4 2 0 (I 0) 1, .ldSigned .b2 true g0 (.v 4) (v 2) (im 0)), (0x1480120100000C28, .st .b4 false g0 (v 2) (v 9) (im 16)), (full 0x30F (S 4) (S 6) 0 (I 8), .sld .b8 false 4 (.s 6) (.imm 8)),
    (0x14025895800 * 2 ^ 20 + 0x00C4C, .sst .b8 false (.s 43) (.s 44) (.imm 0)), (full 0x314 0 2 0 (I 0), .prf false g0 (v 2) (im 0)), (0x0025020100C00C68, .atom .add .b4 false .k g0 (.v 6) (v 2) (im 1)), (full 0x31E 6 2 3 4, .cas .b4 false .k g0 (.v 6) (v 2) (v 3)),
    (0x0020000100800C88, .ldacq .b4 false .k g0 (.v 4) (v 2)), (0x0020120100000C98, .strel .b4 false .k g0 (v 2) (v 9)), (full 0x328 0 0 0 3, .fence .d), (0x0020000000000CB0, .rel .k), (full 0x330 0 0 0 5, .acq .f), (0x0008000000000CD0, .bar .u),
    (0x0000014000200CE0, .poll false 1 (.imm 0)), (0x0008014000200CE0, .poll true 1 (.imm 0)), (0x0020040000000CF0, .wait 2 0 1 0), (0x0000114000000D00, .qput (.imm 0) 8), (0x0000014000800D10, .qget 4 (.imm 0)),
    (0x0000014020800D20, .qprobe 4 (.imm 0)), (0x0000000000000D30, .cncl .launch)] = true := by decide

theorem test_decode_engines : reads 64 [
    (0x00020B4000000E00, .cpy (.imm 0) (.s 5)), (0x0000020000000E04, .stadv 1), (0x0010014000200E08, .hwait true 1 (.imm 0)), (full 0x382 1 (I 0) 0 0, .hwait false 1 (.imm 0)), (0x0000014000000E0C, .hrel (.imm 0)), (0x0860208520C00E10, .mtask (.s 6) (.s 10) (.v 16) (.s 12)),
    (0x0000014080000E14, .aalloc (.imm 1)), (0x0000000000000E18, .afree), (0x1480000100800E1C, .ald g0 (.v 4) (v 2) (im 16)), (0x1480120100000E20, .ast g0 (v 2) (v 9) (im 16)), (0x0000008300000E24, .azero (.s 6)), (0x086A108300000E28, .aep (.s 6) (.s 8) (.s 13)),
    (0x143A0B4180000E2C, .cpyc (.imm 3) (.s 5) (.imm 7)), (0x0000000020800E30, .evget 4), (0x0000014100000E40, .gpol (.imm 2)), (0x00000082A0800E44, .gqry 4 (.s 5)), (0x0000008280000E48, .gcul (.s 5))] = true := by decide

/-- A literal form (R225) and a pair (R226, R228). -/
theorem test_decode_literal : decodeTableWord 96 (0x80600822 + 0x0007FE01 * 2 ^ 32 + 0x3FC00000 * 2 ^ 64) = some (.fmul .f32 g0 (.v 3) (v 3) ⟨.lit 0x3FC00000, false⟩) := by decide
theorem test_decode_pair : decodeTableWord 64 0x0201040004020801 = some (.pair ⟨.addU32, .v 7, .v 1, some (.v 2)⟩ ⟨.addU32, .v 10, .v 4, some (.v 5)⟩)
    ∧ decodeTableWord 64 (1 + 64 * 2 ^ 2 + 184 * 2 ^ 9 + 192 * 2 ^ 17 + 255 * 2 ^ 25 + 69 * 2 ^ 33 + 119 * 2 ^ 40 + 120 * 2 ^ 48 + 3 * 2 ^ 56)
      = some (.pair ⟨.fdot2F16, .o 0, .y 0, some (.imm 30)⟩ ⟨.madU16, .v 239, .s 0, some (.v 9)⟩) := by decide

theorem test_decode_compact : reads 32 [
    (0xE3000003, .addU32Compact (.v 0) (.v 0) (.imm 2)), (small 1 119 0 183, .subU32Compact (.v 119) (.v 0) (.s 63)), (small 2 184 2 3, .mulU32Compact (.o 0) (.v 2) (.v 3)), (small 3 1 2 3, .madU32Compact (.v 1) (.v 2) (.v 3)), (small 4 1 2 3, .andU32Compact (.v 1) (.v 2) (.v 3)),
    (small 5 1 2 3, .orU32Compact (.v 1) (.v 2) (.v 3)), (small 6 1 2 3, .xorU32Compact (.v 1) (.v 2) (.v 3)), (small 7 1 2 3, .shlU32Compact (.v 1) (.v 2) (.v 3)), (small 8 1 2 3, .shrU32Compact (.v 1) (.v 2) (.v 3)), (small 9 1 2 3, .sarI32Compact (.v 1) (.v 2) (.v 3)),
    (small 10 1 2 3, .minI32Compact (.v 1) (.v 2) (.v 3)), (small 11 1 2 3, .maxI32Compact (.v 1) (.v 2) (.v 3)), (small 12 1 2 3, .minU32Compact (.v 1) (.v 2) (.v 3)), (small 13 1 2 3, .maxU32Compact (.v 1) (.v 2) (.v 3)), (small 14 1 2 3, .addSatI32Compact (.v 1) (.v 2) (.v 3)),
    (small 15 1 2 3, .subSatI32Compact (.v 1) (.v 2) (.v 3)), (small 16 1 193 0, .movU32Compact (.v 1) (.y 1)), (small 17 1 2 0, .notU32Compact (.v 1) (.v 2)), (small 18 1 2 0, .absI32Compact (.v 1) (.v 2)), (small 19 1 2 0, .clzU32Compact (.v 1) (.v 2)), (small 20 1 2 0, .popcU32Compact (.v 1) (.v 2)),
    (small 21 1 2 3, .mulhI32Compact (.v 1) (.v 2) (.v 3)), (small 22 1 2 3, .mulhU32Compact (.v 1) (.v 2) (.v 3)), (small 23 1 2 3, .addSatU32Compact (.v 1) (.v 2) (.v 3)), (small 24 1 2 194, .faddF32Compact (.v 1) (.v 2) (.imm (-31)))] = true := by decide

theorem test_decode_compact_float : reads 32 [
    (small 25 1 2 3, .fsubF32Compact (.v 1) (.v 2) (.v 3)), (small 26 1 2 3, .fmulF32Compact (.v 1) (.v 2) (.v 3)), (small 27 1 2 3, .fmaF32Compact (.v 1) (.v 2) (.v 3)), (small 28 1 2 3, .fminF32Compact (.v 1) (.v 2) (.v 3)), (small 29 1 2 3, .fmaxF32Compact (.v 1) (.v 2) (.v 3)),
    (small 30 1 2 3, .faddF16Compact (.v 1) (.v 2) (.v 3)), (small 31 1 2 3, .fmulF16Compact (.v 1) (.v 2) (.v 3)), (small 32 1 2 3, .fmaF16Compact (.v 1) (.v 2) (.v 3)), (small 33 1 2 3, .faddBf16Compact (.v 1) (.v 2) (.v 3)), (small 34 1 2 3, .fmulBf16Compact (.v 1) (.v 2) (.v 3)),
    (small 35 1 2 3, .fmaBf16Compact (.v 1) (.v 2) (.v 3)), (small 36 1 2 0, .frcpF32Compact (.v 1) (.v 2)), (small 37 1 2 0, .frsqF32Compact (.v 1) (.v 2)), (small 38 1 2 0, .fexp2F32Compact (.v 1) (.v 2)), (small 39 1 2 0, .flog2F32Compact (.v 1) (.v 2)),
    (small 40 1 2 3, .fsubF16Compact (.v 1) (.v 2) (.v 3)), (small 41 1 2 3, .fsubBf16Compact (.v 1) (.v 2) (.v 3)), (small 42 1 2 3, .addU16Compact (.v 1) (.v 2) (.v 3)), (small 43 1 2 3, .subU16Compact (.v 1) (.v 2) (.v 3)), (small 44 1 2 3, .fminF16Compact (.v 1) (.v 2) (.v 3)),
    (small 45 1 2 3, .fmaxF16Compact (.v 1) (.v 2) (.v 3)), (small 46 1 2 3, .fminBf16Compact (.v 1) (.v 2) (.v 3)), (small 47 1 2 3, .fmaxBf16Compact (.v 1) (.v 2) (.v 3)), (small 48 1 2 3, .subSatU32Compact (.v 1) (.v 2) (.v 3)), (0x000000C7, .cnop)] = true := by decide

/-- Words that are no instruction, with the step of R243 that refuses each. -/
def refuses (bud w r f : Nat) : Bool := match decodeWord bud w with | .bad b => b.reason == r && b.field == f | _ => false

theorem test_decode_refused : refuses 240 (full 0x013 0 0 0 0) 0x01 0 ∧ refuses 240 (full 0x197 2 4 6 0) 0x02 0 ∧ refuses 240 (full 0x200 1 2 3 0 1) 0x03 0 ∧ refuses 240 (full 0x180 1 2 3 0 0 0 1) 0x04 5 ∧ refuses 240 (full 0x08E 1 (S 5) (I 2) 2 1 0 0 4) 0x05 6
    ∧ refuses 240 (full 0x180 (S 1) 2 3 0) 0x06 1 ∧ refuses 240 (full 0x180 1 250 3 0) 0x06 2 ∧ refuses 240 (full 0x180 1 2 1023 0) 0x07 0 ∧ refuses 240 (full 0x180 328 2 3 0) 0x08 1 ∧ refuses 12 (full 0x180 12 2 3 0) 0x09 1
    ∧ refuses 240 (full 0x181 2 5 6 0) 0x0A 2 ∧ refuses 12 (0x0201040004020801 + 2 * 2 ^ 40) 0x0B 8 ∧ refuses 240 (full 0x240 5 2 0 0x3FF) 0x07 0 ∧ refuses 240 (small 49 1 0 0) 0x06 1 ∧ refuses 240 (small 0 192 0 0) 0x08 1 := by decide

/-! ## States for the witnesses -/

/-- A page of memory at one place, with every permission at user level. -/
def page (base frame : Nat) : Page := { vf := 0, base := base, size := 4096, frame := frame, w := true, u := true, x := true, attr := 0 }
/-- Wave 0 of a unit on core 0, at the first instruction of its region, all lanes running. -/
def wave0 : Wave :=
  { st := .ready, unit := 0, launch := 1, budget := 240, pc := 0x1000, base := 3, prio := 3, dies := [0], regs := { exec := 0xFFFFFFFF, s := [(1, 0x2000), (2, 7)] }, rgn := { first := true, opened := 1 } }
def task0 : Task := { launch := 1, stage := 0, uidx := 0, child := none, depth := 0, budget := 240, prio := 0, relaunches := 0, taken := 0, avoid := none }
def unit0 : UnitR := { task := task0, slots := [0], m := 4, sgran := 4 }
def launch1 : Launch := { kind := 1, stages := [{}], cnt := { count := 2 }, next := [1], whole := true }
/-- Page 0x1000 holds code, page 0x2000 data; the physical places are 0x41000 and 0x42000. -/
def core0 : Core := { vf := some 0, tlb := [page 0x1000 0x41000, page 0x2000 0x42000] }
def run0 : State :=
  { State.reset with waves := [(0, wave0)], units := [(0, some unit0)], launches := [(1, some launch1)], cores := [(0, core0)], fresh := 9, ids := [] }
/-- The same with a change of the wave, or of the unit. -/
def withWave (f : Wave → Wave) : State := run0.setWave 0 (f wave0)
def withUnit (f : UnitR → UnitR) : State := run0.setUnit 0 (some (f unit0))
/-- A control core, after its launch. -/
def ctl0 : State := { run0 with cur := 12288, waves := [(12288, { wave0 with ctl := true, regs := { s := [(1, 0x2000), (2, 7)] } })] }

/-- Issues, as a check. -/
def issuesB (s : State) (i : Instr) : Bool :=
  (!(me s).ctl || ctlAllows i) && ((me s).mode == .normal || modeAllows (me s).mode i) && (!((me s).mode == .normal && !(me s).ctl && nonIdem i) || (me s).rgn.first)
    && !hazard (me s) i && ((me s).mode == .normal || !s.accessOut) && (!((me s).mode == .normal && nonIdem i) || !s.unverified s.cur)
theorem issues_of {s : State} {i : Instr} (h : issuesB s i = true) : Issues s i := by
  simp only [issuesB, Bool.and_eq_true, Bool.or_eq_true, Bool.not_eq_true', beq_iff_eq, Bool.and_eq_false_imp] at h
  obtain ⟨⟨⟨⟨⟨h1, h2⟩, h3⟩, h4⟩, h6⟩, h5⟩ := h
  refine ⟨fun c => ?_, fun c => ?_, fun c d e => ?_, h4, fun c => ?_, fun c e => ?_⟩
  · rcases h1 with h | h <;> simp_all
  · rcases h2 with h | h <;> simp_all
  · rcases h3 with h | h <;> simp_all
  · rcases h6 with h | h <;> simp_all
  · rcases h5 with h | h <;> simp_all

/-- The outcome is a next state of which p holds. -/
def ends (i : Instr) (s : State) (p : State → Bool) : Bool := match exec i s with | .next t => p t | _ => false

/-! ## Witnesses: states and operands that meet what each statement assumes -/

theorem witness_ScalarArithmetic : ScalarsClean (me run0) [.s 1, .imm (-128)] ∧ Issues run0 (.sadd 0 (.s 1) (.imm (-128))) ∧ Issues run0 (.smulh true 0 (.s 1) (.s 2)) ∧ Issues run0 (.sadr 0 (.s 1) (.s 2) (.imm 3)) ∧ Issues run0 (.sli 0 (-1)) := by
  and_intros <;> first | decide | exact issues_of (by decide) | (unfold ScalarsClean; decide) | (unfold GuardClean; decide)
theorem witness_ScalarDivision : ScalarsClean (me run0) [.s 1, .s 3] ∧ sVal (me run0) (.s 3) = 0 ∧ sVal (me run0) (.s 1) = 0x2000 ∧ Issues run0 (.sdiv true 0 (.s 1) (.s 3)) ∧ Issues run0 (.srem false 0 (.s 1) (.s 3)) := by
  and_intros <;> first | decide | exact issues_of (by decide) | (unfold ScalarsClean; decide) | (unfold GuardClean; decide)
theorem witness_ScalarCompare : ScalarsClean (me run0) [.s 1, .s 2] ∧ Issues run0 (.scmp true .lt 127 (.s 1) (.s 2)) := by
  and_intros <;> first | decide | exact issues_of (by decide) | (unfold ScalarsClean; decide) | (unfold GuardClean; decide)
theorem witness_ScalarFieldsAndMove : ScalarsClean (me run0) [.s 1, .imm 63, .imm 127] ∧ sBad (me run0) 4 = false ∧ Issues run0 (.sbfx true 4 (.s 1) (.imm 63) (.imm 127)) ∧ Issues run0 (.smov .exec (.s 1)) := by
  and_intros <;> first | decide | exact issues_of (by decide) | (unfold ScalarsClean; decide) | (unfold GuardClean; decide)
theorem witness_PredicateResults : PredsClean (me run0) ⟨5, true⟩ [1, 127] ∧ LanesClean (me run0) ⟨5, true⟩ [⟨.i32, false, .v 3⟩] ∧ Issues run0 (.pand ⟨5, true⟩ 2 1 127) ∧ Issues run0 (.pballot g0 .exec 1) := by
  and_intros <;> first | decide | exact issues_of (by decide) | (unfold ScalarsClean; decide) | (unfold GuardClean; decide)
theorem witness_IntegerArithmetic : isVO (.v 238) = true ∧ LanesClean (me run0) g0 [opI .w64 (v 2), opI .w64 (im 5)] ∧ LanesClean (me run0) g0 [opI .w64 (sr 1)] ∧ Issues run0 (.mad .w64 g0 (.v 238) (v 2) (im 5) (sr 1)) := by
  and_intros <;> first | decide | exact issues_of (by decide) | (unfold ScalarsClean; decide) | (unfold GuardClean; decide)
theorem witness_ShiftsAndFields : isVO (.o 7) = true ∧ LanesClean (me run0) g0 [opI .w8 (v 2), opCount .w8 (im 5), opCount .w8 (im 9)] ∧ LanesClean (me run0) g0 [opI .w8 ⟨dstSrc (.o 7), false⟩] ∧ Issues run0 (.bfi .w8 g0 (.o 7) (v 2) (im 5) (im 9)) := by
  and_intros <;> first | decide | exact issues_of (by decide) | (unfold ScalarsClean; decide) | (unfold GuardClean; decide)
theorem witness_CompareSelectMove : isVO (.v 3) = true ∧ LanesClean (me run0) g0 [opI .w32 (v 2), opI .w32 (im 5)] ∧ PredsClean (me run0) g0 [9] ∧ Issues run0 (.sel .w32 g0 (.v 3) (v 2) (im 5) 9) ∧ Issues run0 (.cmp .w32 true .ge g0 9 (v 2) (im 5)) := by
  and_intros <;> first | decide | exact issues_of (by decide) | (unfold ScalarsClean; decide) | (unfold GuardClean; decide)
/-- Lanes that agree; lanes that differ; no lane. -/
theorem witness_CompareSelectMove_exec :
    let u := withWave fun w => { w with regs := { w.regs with v := [(key 2 0, 1)] } }
    LanesClean (me run0) g0 [opI .w32 (v 2)] ∧ (∀ l ∈ active (me run0) g0, laneVal (me run0) (opI .w32 (v 2)) l = 0) ∧ LanesClean (me u) g0 [opI .w32 (v 2)] ∧ laneVal (me u) (opI .w32 (v 2)) 0 ≠ laneVal (me u) (opI .w32 (v 2)) 1
    ∧ active (me run0) ⟨5, false⟩ = [] ∧ Issues run0 (.mov .w32 g0 .exec (v 2)) ∧ Issues u (.mov .w32 g0 .exec (v 2)) := by
  and_intros <;> first | decide | exact issues_of (by decide) | (unfold ScalarsClean; decide) | (unfold GuardClean; decide)
theorem witness_LaneMoves : isVO (.v 3) = true ∧ LanesClean (me run0) g0 [⟨.i32, false, .imm 31⟩] ∧ (∀ l ∈ active (me run0) g0, ((opI .w32 (v 2)).at (me run0) 2 (if 31 < l + 31 then l else l + 31)).poison = none) ∧ Issues run0 (.shfl .w32 .down g0 (.v 3) (v 2) (im 31))
    ∧ Issues run0 (.bcast .w32 g0 (.v 3) (v 2) (.imm 31)) := by
  and_intros <;> first | decide | exact issues_of (by decide) | (unfold ScalarsClean; decide) | (unfold GuardClean; decide)
theorem witness_LaneCombinations : isVO (.v 3) = true ∧ LanesClean (me run0) ⟨5, false⟩ [opI .w16 (v 2)] ∧ active (me run0) ⟨5, false⟩ = [] ∧ LanesClean (me run0) g0 [opI .w16 (v 2)] ∧ Issues run0 (.lscan .w16 true .max true g0 (.v 3) (v 2)) ∧ Issues run0 (.lred .w16 true .max ⟨5, false⟩ (.s 3) (v 2)) := by
  and_intros <;> first | decide | exact issues_of (by decide) | (unfold ScalarsClean; decide) | (unfold GuardClean; decide)
theorem witness_FloatArithmetic : isVO (.v 4) = true ∧ LanesClean (me run0) g0 [opF .f64 (v 2), opF .f64 (im 3)] ∧ LanesClean (me run0) g0 [opF .f64 (sr 1)] ∧ Issues run0 (.fma .f64 g0 (.v 4) (v 2) (im 3) (sr 1)) ∧ Issues run0 (.ftanh .f32 g0 (.v 4) (v 2)) := by
  and_intros <;> first | decide | exact issues_of (by decide) | (unfold ScalarsClean; decide) | (unfold GuardClean; decide)
theorem witness_FloatTests : isVO (.v 4) = true ∧ LanesClean (me run0) g0 [opF .bf16 (v 2), opF .bf16 (im 3)] ∧ FTy.wide .bf16 = false ∧ LanesClean (me run0) g0 [⟨.f32, false, .v 7⟩] ∧ Issues run0 (.fdot2 .bf16 g0 (.v 4) (v 2) (im 3) (v 7)) ∧ Issues run0 (.fcls .bf16 g0 4 (v 2) 0x1FF) := by
  and_intros <;> first | decide | exact issues_of (by decide) | (unfold ScalarsClean; decide) | (unfold GuardClean; decide)
theorem witness_Conversions : isVO (.v 4) = true ∧ LanesClean (me run0) g0 [⟨fmtKind .fp64, fmtWide Fmt.fp64.code, .v 2⟩] ∧ LanesClean (me run0) g0 [⟨fmtKind .fp32, false, .v 2⟩, ⟨fmtKind .fp32, false, .v 3⟩]
    ∧ LanesClean (me run0) g0 [⟨fmtKind .t8, false, .v 2⟩, ⟨.i32, false, .imm 3⟩] ∧ LanesClean (me run0) g0 [⟨.f32, false, .v 2⟩, ⟨.i32, false, .imm 127⟩] ∧ Issues run0 (.cvt .fp32 .fp64 g0 (.v 4) (v 2)) ∧ Issues run0 (.pack .fp16 .fp32 g0 (.v 4) (v 2) (v 3))
    ∧ Issues run0 (.unpk .fp32 .t8 g0 (.v 4) (v 2) (im 3)) ∧ Issues run0 (.dqnt .t8 g0 (.v 4) (v 2) (im 3)) ∧ Issues run0 (.qnt .t8 g0 (.v 4) (v 2) (im 127)) := by
  and_intros <;> first | decide | exact issues_of (by decide) | (unfold ScalarsClean; decide) | (unfold GuardClean; decide)
/-- A check that holds, one that fails, and a fold that fails. -/
theorem witness_ChecksAndFolds :
    let w := me run0
    isVO (.v 4) = true ∧ LanesClean w g0 [⟨.i32, false, .v 2⟩, ⟨.i32, false, dstSrc (.v 4)⟩] ∧ Issues run0 (.csum .crc g0 (.v 4) (v 2)) ∧ LanesClean w g0 [⟨.i32, false, .v 2⟩, ⟨.i32, false, .v 3⟩]
    ∧ ((active w g0).filter fun l => chkFails .eq (laneVal w ⟨.i32, false, .v 2⟩ l) (laneVal w ⟨.i32, false, .v 3⟩ l)) = [] ∧ Issues run0 (.chk .eq g0 (v 2) (v 3))
    ∧ ((active w g0).filter fun l => chkFails .eq (laneVal w ⟨.i32, false, .v 2⟩ l) (laneVal w ⟨.i32, false, .imm 1⟩ l)).length = 32 ∧ Issues run0 (.chk .near g0 (v 2) (im 1))
    ∧ (allLanes.foldl (fun x l => x ^^^ laneVal w ⟨.i32, false, .v 2⟩ l) 0 = allLanes.foldl (fun x l => x ^^^ laneVal w ⟨.i32, false, .imm 1⟩ l) 0)
    ∧ Issues run0 (.chk .fold g0 (v 2) (im 1)) := by
  and_intros <;> first | decide | exact issues_of (by decide) | (unfold ScalarsClean; decide) | (unfold GuardClean; decide)
theorem witness_ChecksAndFolds_fails :
    let u := withWave fun w => { w with regs := { w.regs with v := [(key 2 31, 5)] } }
    LanesClean (me u) g0 [⟨.i32, false, .v 2⟩, ⟨.i32, false, .v 3⟩] ∧ Issues u (.chk .fold g0 (v 2) (v 3))
    ∧ (active (me u) g0).foldl (fun x l => x ^^^ laneVal (me u) ⟨.i32, false, .v 2⟩ l) 0 ≠ (active (me u) g0).foldl (fun x l => x ^^^ laneVal (me u) ⟨.i32, false, .v 3⟩ l) 0 := by
  and_intros <;> first | decide | exact issues_of (by decide) | (unfold ScalarsClean; decide) | (unfold GuardClean; decide)
theorem witness_PackTile : ScalarsClean (me run0) [.imm 200, .imm 32] ∧ (sVal (me run0) (.imm 32)).toNat % tileElems .e2m1 = 0 ∧ Fmt.e2m1.width = 4 ∧ Fmt.fp16.width = 16 ∧ 200 + 32 ≤ (me run0).budget ∧ 236 + 32 / tileElems .e2m1 = (me run0).budget
    ∧ (∀ j, j < 32 → ∀ l ∈ execLanes (me run0), vBad (me run0) (200 + j) l = false) ∧ Issues run0 (.packTile .e2m1 (.v 236) (.imm 200) (.imm 32)) := by
  and_intros <;> first | decide | exact issues_of (by decide) | (unfold ScalarsClean; decide) | (unfold GuardClean; decide)
theorem witness_CompactFormsAreFullForms : isVO (.o 7) = true ∧ Issues run0 (.fmaBf16Compact (.o 7) (.v 1) (.imm 30)) ∧ Issues run0 (.fma .bf16 g0 (.o 7) (noHold (.v 1)) (noHold (.imm 30)) (noHold (dstSrc (.o 7))))
    ∧ (∀ k ∈ [EKind.i32], ∀ l ∈ execLanes (me run0), ∀ x ∈ [Src.v 1, .imm 30, dstSrc (.o 7)], (srcLV (me run0) 2 k false x l).poison = none) := by
  and_intros <;> first | decide | exact issues_of (by decide) | (unfold ScalarsClean; decide) | (unfold GuardClean; decide)
theorem witness_PairReadsBeforeWrites :
    let x : Half := ⟨.movU32, .v 1, .v 2, none⟩
    let y : Half := ⟨.fdot2F16, .o 0, .v 3, some (.y 0)⟩
    isVO x.d = true ∧ isVO y.d = true ∧ Issues run0 (.pair x y) ∧ (∀ l ∈ execLanes (me run0), ∀ h ∈ [x, y], ∀ z ∈ h.a :: (h.b.toList ++ if h.op.accum then [dstSrc h.d] else []), (srcLV (me run0) 2 (ropKind h.op) false z l).poison = none) := by
  and_intros <;> first | decide | exact issues_of (by decide) | (unfold ScalarsClean; decide) | (unfold GuardClean; decide)

/-- Quiet and Alone, as checks. -/
def quietB (s : State) : Bool :=
  !s.unverified s.cur && decide ((me s).cpc = 0) && decide ((me s).ttc = 0) && !s.draining s.cur && (me s).rel == .none && decide ((me s).step = 0) && s.changes.isEmpty && decide (s.interval s.cur < 0xFFFF)
    && (me s).dies.all (fun d => d == s.dieOf s.cur) && (me s).stage1.isEmpty && (match s.unitOf s.cur with | some r => r.sb.all (fun e => e.ident != s.cur) | none => true)
theorem quiet_of {s : State} (h : quietB s = true) : Quiet s := by
  simp only [quietB, Bool.and_eq_true, Bool.not_eq_true', decide_eq_true_eq, beq_iff_eq, List.isEmpty_iff, List.all_eq_true] at h
  obtain ⟨⟨⟨⟨⟨⟨⟨⟨⟨⟨h1, h2⟩, h3⟩, h4⟩, h5⟩, h6⟩, h7⟩, h8⟩, h9⟩, h10⟩, h11⟩ := h
  refine ⟨h1, h2, h3, h4, h5, h6, h7, h8, h9, h10, fun r hr => ?_⟩
  rw [hr] at h11; simpa using h11
theorem alone_of {s : State} (h : quietB s = true) (hu : (match s.unitOf s.cur with | some r => r.sb.isEmpty | none => true) = true) (hr : s.recs = []) (ht : (me s).taint = {}) : Alone s :=
  ⟨quiet_of h, fun r e => by rw [e] at hu; simpa using hu, hr, ht⟩

/-- An open if, an open loop with lanes that wait at its end, and a full stack. -/
def inIf : State := withWave fun w => { w with depth := 1, stack := [(0, ⟨.ifK, 0xFF, 0x0F⟩)] }
def inLoop : State := withWave fun w => { w with depth := 2, stack := [(0, ⟨.loopK, 0xFF, 0x0F⟩), (1, ⟨.ifK, 0xFF, 0x0F⟩)] }
theorem witness_StructuredControl :
    inVariant (me run0) = false ∧ (me run0).depth < 32 ∧ (∀ l ∈ execLanes (me run0), (predLV (me run0) 2 1 l).poison = none) ∧ Issues run0 (.ifP true 1 6) ∧ ((me inIf).ment 0).kind = .ifK ∧ Issues inIf (.elseP 4) ∧ Issues inIf .endif
    ∧ innermost (me inLoop) (me inLoop).depth = some 0 ∧ Issues inLoop (.breakP false 1) ∧ Issues inLoop (.contP false 1) := by
  and_intros <;> first | decide | exact issues_of (by decide) | exact quiet_of (by decide) | (unfold ScalarsClean; decide) | (unfold AddressesClean GuardClean; decide) | (unfold GuardClean; decide)
theorem witness_StructuredControl_endloop :
    let u := withWave fun w => { w with depth := 1, stack := [(0, ⟨.loopK, 0xFF, 0x0F⟩)] }
    let x := withWave fun w => { w with depth := 1, stack := [(0, ⟨.loopK, 0xFF, 0⟩)], regs := { w.regs with exec := 0 } }
    inVariant (me u) = false ∧ ((me u).ment 0).kind = .loopK ∧ (me u).regs.exec ||| ((me u).ment 0).aux ≠ 0 ∧ (me x).regs.exec ||| ((me x).ment 0).aux = 0 ∧ Issues u (.endloop 4) ∧ Issues x (.endloop 4) := by
  and_intros <;> first | decide | exact issues_of (by decide) | exact quiet_of (by decide) | (unfold ScalarsClean; decide) | (unfold AddressesClean GuardClean; decide) | (unfold GuardClean; decide)
theorem witness_StructuredControl_faults :
    let u := withWave fun w => { w with depth := 32 }
    (me u).depth = 32 ∧ Issues u (.ifP false 1 4) ∧ Issues u .loop ∧ (me run0).depth = 0 ∧ Issues run0 (.elseP 4) ∧ Issues run0 .endif ∧ Issues run0 (.endloop 4) ∧ innermost (me inIf) (me inIf).depth = none ∧ Issues inIf (.breakP false 1) := by
  and_intros <;> first | decide | exact issues_of (by decide) | exact quiet_of (by decide) | (unfold ScalarsClean; decide) | (unfold AddressesClean GuardClean; decide) | (unfold GuardClean; decide)
/-- A target in every lane of the pair v4, and one in s1; one that is misaligned, one that is not canonical. -/
theorem witness_CallsAndReturns :
    let u := withWave fun w => { w with regs := { w.regs with s := [(1, 0x2002), (2, 0x0100000000000000)] } }
    (me run0).pc + BitVec.ofInt 64 (4 * (-2)) = 0xFF8 ∧ canonical 0xFF8 = true ∧ UniformIs (me run0) (.s 1) 0x2000 ∧ canonical 0x2000 = true ∧ UniformIs (me run0) (.v 4) 0 ∧ Issues run0 (.callRelative 5 (-2)) ∧ Issues run0 (.callIndirect 5 (sr 1)) ∧ Issues run0 (.ret (v 4))
    ∧ UniformIs (me u) (.s 1) 0x2002 ∧ Issues u (.ret (sr 1)) ∧ UniformIs (me u) (.s 2) 0x0100000000000000 ∧ canonical 0x0100000000000000 = false ∧ Issues u (.ret (sr 2)) := by
  and_intros <;> first | decide | exact issues_of (by decide) | exact quiet_of (by decide) | (unfold ScalarsClean; decide) | (unfold AddressesClean GuardClean; decide) | (unfold GuardClean; decide)
/-- Targets that trap, a v target with EXEC empty, and one that differs from lane to lane. -/
theorem witness_CallsAndReturns_traps :
    let u := withWave fun w => { w with regs := { w.regs with s := [(1, 0x2002), (2, 0x0100000000000000)] } }
    let m := withWave fun w => { w with pc := 0x1002 }
    let f := withWave fun w => { w with pc := 0x00FFFFFFFFFFFFF8 }
    let e := withWave fun w => { w with regs := { w.regs with exec := 0, v := [(key 4 0, 0x2000)] } }
    let n := withWave fun w => { w with regs := { w.regs with v := [(key 4 0, 0x2000)] } }
    ((me m).pc + BitVec.ofInt 64 (4 * 2)).toNat % 4 ≠ 0 ∧ Issues m (.callRelative 5 2) ∧ ((me f).pc + BitVec.ofInt 64 (4 * 4)).toNat % 4 = 0 ∧ canonical ((me f).pc + BitVec.ofInt 64 (4 * 4)).toNat = false ∧ Issues f (.callRelative 5 4)
    ∧ Issues u (.callIndirect 5 (sr 1)) ∧ Issues u (.callIndirect 5 (sr 2)) ∧ execLanes (me e) = [] ∧ (vLV (me e) 2 true 4 0).val = (0x2000 : W64).toNat ∧ Issues e (.callIndirect 5 (v 4)) ∧ Issues e (.ret (v 4))
    ∧ (∀ l ∈ execLanes (me n), (vLV (me n) 2 true 4 l).poison = none) ∧ (∃ l ∈ execLanes (me n), ∃ k ∈ execLanes (me n), (vLV (me n) 2 true 4 l).val ≠ (vLV (me n) 2 true 4 k).val) ∧ Issues n (.callIndirect 5 (v 4)) ∧ Issues n (.ret (v 4)) := by
  and_intros <;> first | decide | exact issues_of (by decide) | exact quiet_of (by decide) | (unfold ScalarsClean; decide) | (unfold AddressesClean GuardClean; decide) | (unfold GuardClean; decide)
theorem witness_TrapsAndBreakpoints :
    let u := withWave fun w => { w with tvec := 0x4003 }
    let x := withWave fun w => { w with bkarm := true }
    (me u).ctl = false ∧ (me u).tstat.getLsbD 0 = false ∧ (me u).tvec.getLsbD 0 = true ∧ (me u).tvec.getLsbD 1 = true ∧ (me u).bkarm = false ∧ (me u).stage1 = [] ∧ u.unverified u.cur = false ∧ Issues u (.trap 5) ∧ Issues u (.bkpt 5)
    ∧ (me run0).delivers 0 = false ∧ (me run0).delivers 1 = false ∧ Issues run0 (.trap 5) ∧ Issues run0 (.bkpt 0xFFFFF) ∧ Issues x (.bkpt 5) := by
  and_intros <;> first | decide | exact issues_of (by decide) | exact quiet_of (by decide) | (unfold ScalarsClean; decide) | (unfold AddressesClean GuardClean; decide) | (unfold GuardClean; decide)
theorem witness_TrapReturn :
    let u := withWave fun w => { w with level := 1, tepc := 0x1008, tstat := 1 }
    let x := withWave fun w => { w with level := 1, tepc := 0x100A }
    (me run0).mode ≠ .restore ∧ (me run0).level = 0 ∧ Issues run0 .tret ∧ (me u).level ≠ 0 ∧ (me u).tepc.toNat % 4 = 0 ∧ Issues u .tret ∧ (me x).tepc.toNat % 4 ≠ 0 ∧ Issues x .tret := by
  and_intros <;> first | decide | exact issues_of (by decide) | exact quiet_of (by decide) | (unfold ScalarsClean; decide) | (unfold AddressesClean GuardClean; decide) | (unfold GuardClean; decide)
theorem witness_InstructionsNotAllowed :
    let u := withWave fun w => { w with mode := .save }
    let x := withWave fun w => { w with rgn := { w.rgn with first := false } }
    (Instr.add .w32 g0 (.v 0) (v 1) (v 2)).word.isSome = true ∧ (me ctl0).ctl = true ∧ ctlAllows (.add .w32 g0 (.v 0) (v 1) (v 2)) = false ∧ (me u).ctl = false ∧ (Instr.bar .u).word.isSome = true ∧ modeAllows .save (.bar .u) = false
    ∧ (me x).mode = .normal ∧ nonIdem (.chk .eq g0 (v 1) (v 2)) = true ∧ (me x).rgn.first = false ∧ (Instr.chk .eq g0 (v 1) (v 2)).word.isSome = true := by
  and_intros <;> first | decide | exact issues_of (by decide) | exact quiet_of (by decide) | (unfold ScalarsClean; decide) | (unfold AddressesClean GuardClean; decide) | (unfold GuardClean; decide)
/-- Poison in a scalar register, in the guard, in a v, an o and a predicate register, in an address and in store data. -/
def bad0 : State := withWave fun w => { w with poison := { s := [(1, true)], v := [(key 3 7, true)], o := [(key 2 4, true)], p := [(key 5 9, true)] }, regs := { w.regs with p := [(key 6 1, true)] } }
theorem witness_InstructionsNotAllowed_poison :
    let w := me bad0
    let g : Guard := ⟨5, true⟩
    sBad w 1 = true ∧ (scalarLV w 2 (.s 2)).poison = none ∧ Issues bad0 (.sadd 4 (.s 1) (.imm 2)) ∧ Issues bad0 (.sxor 4 (.s 2) (.s 1)) ∧ (execLanes w).filter (fun l => pBad w 5 l) = [9] ∧ Issues bad0 (.add .w32 g (.v 0) (v 1) (v 2)) ∧ Issues bad0 (.por g 1 2 3) ∧ Issues bad0 (.ld .b4 false g (.v 4) (v 2) (im 0))
    ∧ Issues bad0 (.st .b4 false g (v 2) (v 9) (im 0)) ∧ GuardClean w g0 ∧ isVO (.v 0) = true ∧ (active w g0).filter (fun l => vBad w 3 l || (true && vBad w 4 l)) = [7] ∧ (∀ l ∈ active w g0, ((opI .w64 (v 10)).at w 3 l).poison = none) ∧ (∀ l ∈ active w g0, ((opI .w64 (v 10)).at w 2 l).poison = none)
    ∧ Issues bad0 (.add .w64 g0 (.v 0) (v 3) (v 10)) ∧ Issues bad0 (.mul .w64 g0 (.v 0) (v 10) (v 3)) ∧ (active w g0).filter (fun l => oBad w 2 l || (false && oBad w 3 l)) = [4] ∧ Issues bad0 (.add .w32 g0 (.v 0) ⟨.o 2, false⟩ (v 10)) ∧ active w g0 ≠ [] ∧ Issues bad0 (.add .w32 g0 (.v 0) (sr 1) (v 10))
    ∧ (active w g0).filter (fun l => pBad w 5 l) = [9] ∧ (∀ l ∈ active w g0, (predLV w 3 6 l).poison = none) ∧ Issues bad0 (.pand g0 1 5 6) ∧ (∀ l ∈ active w g0, (srcLV w 4 .i32 false (.imm 0) l).poison = none) ∧ Issues bad0 (.ld .b4 false g0 (.v 4) (v 3) (im 0)) ∧ AddressesClean w g0 false (.v 10) (.imm 0) ∧ Issues bad0 (.st .b4 false g0 (v 10) (v 3) (im 0)) := by
  and_intros <;> first | decide | exact issues_of (by decide) | exact quiet_of (by decide) | (unfold ScalarsClean; decide) | (unfold AddressesClean GuardClean; decide) | (unfold GuardClean; decide)
/-- A unit that is started again, and one that is not. -/
theorem witness_FaultEndsTheUnit :
    let u := { run0 with launches := [(1, some { launch1 with restart := true })] }
    isCtl u.cur = false ∧ u.unit (me u).unit = some unit0 ∧ relaunchable { cause := 0x0B } false = true ∧ ((u.launch 1).getD {}).restart = true ∧ run0.unit (me run0).unit = some unit0 ∧ ((run0.launch 1).getD {}).restart = false := by
  and_intros <;> first | decide | exact issues_of (by decide) | exact quiet_of (by decide) | (unfold ScalarsClean; decide) | (unfold AddressesClean GuardClean; decide) | (unfold GuardClean; decide)
theorem witness_NopsAndYield : Issues run0 .nop ∧ Issues run0 .cnop ∧ Issues run0 .yield ∧ (me run0).ctl = false ∧ (me ctl0).ctl = true ∧ Issues ctl0 .yield := by
  and_intros <;> first | decide | exact issues_of (by decide) | exact quiet_of (by decide) | (unfold ScalarsClean; decide) | (unfold AddressesClean GuardClean; decide) | (unfold GuardClean; decide)
theorem witness_SystemReads : (me run0).window 1 = false ∧ run0.sysRead 0 1 = some 0 ∧ Issues run0 (.rdsys 4 1) ∧ run0.sysRead 0 0x10 = none ∧ Issues run0 (.rdsys 4 0x10) ∧ run0.ident 7 0 = some 0 ∧ run0.ident 1 0 = some 0 ∧ Issues run0 (.rdtime 4) ∧ Issues run0 (.rdid (.s 4) 7) ∧ Issues run0 (.rdid (.v 4) 0) ∧ run0.ident 0 0 = some 0 := by
  and_intros <;> first | decide | exact issues_of (by decide) | exact quiet_of (by decide) | (unfold ScalarsClean; decide) | (unfold AddressesClean GuardClean; decide) | (unfold GuardClean; decide)
theorem witness_SystemReads_refused : (me run0).level < 1 ∧ Issues run0 (.rdid (.v 1) 11) ∧ Issues run0 (.rdid (.o 1) 14) ∧ Issues run0 (.rdid (.s 1) 15) ∧ Issues run0 (.rdid (.s 1) 0) ∧ Issues run0 (.rdid (.o 2) 0) ∧ run0.ident 0 0 = some 0 := by
  and_intros <;> first | decide | exact issues_of (by decide) | exact quiet_of (by decide) | (unfold ScalarsClean; decide) | (unfold AddressesClean GuardClean; decide) | (unfold GuardClean; decide)
theorem witness_OwnSystemRegisters :
    let u := withWave fun w => { w with level := 1 }
    (me run0).ctl = false ∧ (me run0).st ≠ .empty ∧ ScalarsClean (me run0) [.s 1] ∧ (me run0).level = 0 ∧ Issues run0 (.wrsys (.s 1) 0) ∧ Issues run0 (.wrsys (.s 1) 0x10) ∧ (me u).ctl = false ∧ (me u).st ≠ .empty ∧ 1 ≤ (me u).level ∧ ScalarsClean (me u) [.s 1] ∧ Issues u (.wrsys (.s 1) 0x13) := by
  and_intros <;> first | decide | exact issues_of (by decide) | exact quiet_of (by decide) | (unfold ScalarsClean; decide) | (unfold AddressesClean GuardClean; decide) | (unfold GuardClean; decide)
theorem witness_OwnSystemRegisters_depth : (me run0).level = 0 ∧ Issues run0 (.wrsys (.s 1) 3) ∧ Issues run0 (.wrsys (.s 1) 1) := by
  and_intros <;> first | decide | exact issues_of (by decide) | exact quiet_of (by decide) | (unfold ScalarsClean; decide) | (unfold AddressesClean GuardClean; decide) | (unfold GuardClean; decide)
theorem witness_ContextWindow :
    let u := withWave fun w => { w with level := 1, mode := .save, ctxsel := 0x03000000 }
    (me u).mode = .save ∧ 1 ≤ (me u).level ∧ ScalarsClean (me u) [.s 1] ∧ Issues u (.wrsys (.s 1) 0x1B) ∧ (u.gateMark u.cur).ctxItem u.cur = .value 0 ∧ Issues u (.rdsys 4 0x1B) := by
  and_intros <;> first | decide | exact issues_of (by decide) | exact quiet_of (by decide) | (unfold ScalarsClean; decide) | (unfold AddressesClean GuardClean; decide) | (unfold GuardClean; decide)
/-- In restore mode: a scalar register, and the last word of a store-buffer entry. -/
theorem witness_ContextWindow_restore :
    let x := withWave fun w => { w with level := 1, mode := .restore, ctxsel := 0x02000005 }
    let y := { (withWave fun w => { w with level := 1, mode := .restore, ctxsel := 0x09000009 }) with units := [(0, some { unit0 with sbCnt := 1, sbImg := [(0, 0x2001)] })] }
    (me x).mode = .restore ∧ bits (me x).ctxsel.toNat 24 8 = 2 ∧ bits (me x).ctxsel.toNat 0 24 = 5 ∧ (x.unit (me x).unit).isSome = true ∧ Issues x (.wrsys (.s 1) 0x1B) ∧ (x.ctxPut x.cur 7).isSome = true
    ∧ bits (me y).ctxsel.toNat 24 8 = 9 ∧ (match y.ctxPut y.cur 7 with | some u => (match u.installEntry y.cur 0 with | .done _ => true | _ => false) | none => false) = true := by
  and_intros <;> first | decide | exact issues_of (by decide)
theorem witness_ServiceRequests :
    let u := withWave fun w => { w with level := 1, regs := { w.regs with s := [(0, 0x2040)] } }
    Issues run0 (.svc 0x40) ∧ (me run0).level < 1 ∧ Issues u (.svc 0x43) ∧ 1 ≤ (me u).level ∧ sBad (me u) 0 = false ∧ isFabric 0x42040 = false ∧ u.drainLines u.cur = [] ∧ u.xlate (coreOf u.cur) 0 1 .write ((sAt (me u) 0).toNat / 64 * 64) = .ok 0x42040 (page 0x2000 0x42000) := by
  and_intros <;> first | decide | exact issues_of (by decide) | exact quiet_of (by decide) | (unfold ScalarsClean; decide) | (unfold AddressesClean GuardClean; decide) | (unfold GuardClean; decide)
theorem witness_SpawnEnqueuesAChild :
    let u := withUnit fun r => { r with task := { task0 with depth := 8 } }
    (me run0).ctl = false ∧ isCtl run0.cur = false ∧ Issues run0 (.spawn (sr 1) (sr 2)) ∧ run0.unit (me run0).unit = some unit0 ∧ run0.launch unit0.task.launch = some launch1 ∧ UniformIs (me run0) (.s 1) 0x2000 ∧ UniformIs (me run0) (.s 2) 7 ∧ (0x2000 : W64).toNat % 4 = 0
    ∧ canonical (0x2000 : W64).toNat = true ∧ upper (0x2000 : W64).toNat = false ∧ unit0.task.depth ≠ 8 ∧ launch1.cnt.cancelled = false ∧ UniformIs (me run0) (.imm 7) 7 ∧ Issues run0 (.spawn (im 7) (sr 2)) ∧ Issues u (.spawn (sr 1) (sr 2)) ∧ u.unit 0 = some { unit0 with task := { task0 with depth := 8 } } := by
  and_intros <;> first | decide | exact issues_of (by decide) | exact quiet_of (by decide) | (unfold ScalarsClean; decide) | (unfold AddressesClean GuardClean; decide) | (unfold GuardClean; decide)

/-- A second wave of the unit beside the first. -/
def two : State := { withUnit (fun r => { r with slots := [0, 1], w := 2 }) with waves := [(0, wave0), (1, { wave0 with widx := 1 })] }
theorem witness_RegionAndExit :
    let u := run0.modWave 0 fun w => { w with step := 4 }
    let x := { two with waves := [(0, { wave0 with mode := .save, level := 1 }), (1, { wave0 with widx := 1, mode := .save })] }
    (me run0).ctl = false ∧ (me run0).mode = .normal ∧ run0.unverified run0.cur = false ∧ (me run0).gz.entry = none ∧ (me run0).stage1 = [] ∧ run0.unit (me run0).unit = some unit0 ∧ run0.cancelled 1 = false ∧ unit0.moving = false ∧ unit0.preReq = false ∧ run0.gLevel 0 1 = 3 ∧ inVariant (me run0) = false
    ∧ (me ctl0).ctl = true ∧ Issues ctl0 (.region 0 0) ∧ (me u).step = 4 ∧ Issues u .exit ∧ u.changes = [] ∧ launch1.cnt.count ≠ 0 ∧ Quiet two ∧ Issues two .exit ∧ (two.wave 1).st ≠ .empty ∧ (two.wave 1).unit = (me two).unit ∧ Quiet ctl0 ∧ Issues ctl0 .exit ∧ ctl0.launch (me ctl0).launch = some launch1
    ∧ Issues x .exit ∧ (me x).mode = .save ∧ (x.wave 1).widx ≠ (me x).widx := by
  and_intros <;> first | decide | exact issues_of (by decide) | exact quiet_of (by decide) | (unfold ScalarsClean; decide) | (unfold AddressesClean GuardClean; decide) | (unfold GuardClean; decide)
theorem witness_Cancels :
    let u := { run0 with launches := [(1, some { launch1 with graph := 5, phase := 6, job := 7 })], vfs := [(0, { ctab := [(5, ⟨false, false, 1⟩), (6, ⟨false, false, 1⟩), (7, ⟨false, false, 1⟩)] })] }
    run0.launch 1 = some launch1 ∧ launch1.cnt.done = false ∧ launch1.cnt.cancelled = false ∧ (me run0).launch = 1 ∧ Issues run0 (.cncl .launch) ∧ Issues u (.cncl .job) ∧ (mget {} (u.vf 0).ctab 7).done = false ∧ (mget {} (u.vf 0).ctab 5).cancelled = false := by
  and_intros <;> first | decide | exact issues_of (by decide) | exact quiet_of (by decide) | (unfold ScalarsClean; decide) | (unfold AddressesClean GuardClean; decide) | (unfold GuardClean; decide)
theorem witness_Cancels_waves : ∀ id, (run0.wave id).cancelNow = false := by
  intro id
  by_cases h : id = 0
  · subst h; decide
  · have : run0.wave id = {} := by simp [State.wave, run0, mget, Ne.symm h]
    rw [this]; decide

/-- Lane l holds the address 0x2000 + 4·l in the pair v2. -/
def mem0 : State := withWave fun w => { w with regs := { w.regs with v := (List.range 32).map (fun l => (key 2 l, BitVec.ofNat 32 (0x2000 + 4 * l))) } }
def looked (i : AccKind) (s : State) (vec : Bool) (xs : List (Nat × Int × Bool)) : List Acc × SMap (Option Page) := match s.look s.cur false i 4 vec xs with | .ok a m => (a, m) | _ => ([], [])
theorem witness_LoadsIssue :
    let w := me mem0
    let y := looked .read mem0 true (addresses w g0 false (.v 2) (.imm 0))
    let x := addrLV (me run0) false (.s 1) (.imm 4) 0
    let z := looked .read run0 false [(0, x.1, x.2.taint)]
    AddressesClean w g0 false (.v 2) (.imm 0) ∧ y.1 ≠ [] ∧ (∀ a ∈ y.1, a.sp = .mem → isFabric a.pa = false) ∧ mem0.look mem0.cur false .read 4 true (addresses w g0 false (.v 2) (.imm 0)) = .ok y.1 y.2 ∧ w.mode = .normal ∧ w.serial = false ∧ w.ldc < 63
    ∧ Issues mem0 (.ld .b4 false g0 (.v 4) (v 2) (im 0)) ∧ active w ⟨5, false⟩ = [] ∧ z.1 ≠ [] ∧ x.2.poison = none ∧ run0.look run0.cur false .read 4 false [(0, x.1, x.2.taint)] = .ok z.1 z.2 ∧ (∀ a ∈ z.1, a.sp = .mem → isFabric a.pa = false) ∧ Issues run0 (.sld .b4 false 4 (.s 1) (.imm 4)) := by
  and_intros <;> first | decide | exact issues_of (by decide) | exact quiet_of (by decide) | (unfold ScalarsClean; decide) | (unfold AddressesClean GuardClean; decide) | (unfold GuardClean; decide)
/-- Serial mode, and save mode. -/
theorem witness_LoadsIssue_modes :
    let u := withWave fun w => { w with rgn := { w.rgn with serial := true } }
    let x := addrLV (me u) false (.s 1) (.imm 4) 0
    let y := looked .read u false [(0, x.1, x.2.taint)]
    let q := withWave fun w => { w with mode := .save, level := 1 }
    (me u).serial = true ∧ u.recs = [] ∧ u.claimReady (u.claimsOf 0 (u.interval 0) u.fresh u.cycle .read false y.1) = true ∧ Issues u (.sld .b4 false 4 (.s 1) (.imm 4)) ∧ (me q).mode ≠ .normal ∧ Issues q (.sld .b4 false 4 (.s 1) (.imm 4)) := by
  and_intros <;> first | decide | exact issues_of (by decide) | exact quiet_of (by decide) | (unfold ScalarsClean; decide) | (unfold AddressesClean GuardClean; decide) | (unfold GuardClean; decide)
/-- A misaligned lane, and a lane whose line a command writes. -/
theorem witness_LoadsIssue_traps :
    let u := withWave fun w => { w with regs := { w.regs with s := [(1, 0x2002), (2, 7)] } }
    let x := addrLV (me u) false (.s 1) (.imm 0) 0
    let q := mem0.setCore 0 { core0 with locks := [(5, some ⟨0x42000 / 32, 0x42000 / 32, 1, 0, 0, true⟩)] }
    let y := looked .read mem0 true (addresses (me mem0) g0 false (.v 2) (.imm 0))
    AddressesClean (me mem0) g0 false (.v 2) (.imm 0) ∧ (1, 0x2004, false) ∈ (addresses (me mem0) g0 false (.v 2) (.imm 0)).filter (fun x => x.2.1 % 8 != 0) ∧ (∀ y ∈ (addresses (me mem0) g0 false (.v 2) (.imm 0)).filter (fun x => x.2.1 % 8 != 0), (0x2004 : Int) % 2 ^ 64 ≤ y.2.1 % 2 ^ 64)
    ∧ Issues mem0 (.ld .b8 false g0 (.v 4) (v 2) (im 0)) ∧ Issues mem0 (.ldSigned .b2 false g0 (.v 4) (v 2) (im 0)) ∧ x.2.poison = none ∧ x.1 % 4 ≠ 0 ∧ Issues u (.sld .b4 false 4 (.s 1) (.imm 0)) ∧ (scalarLV (me u) 3 (.s 2)).poison = none ∧ Issues u (.sst .b4 false (.s 1) (.s 2) (.imm 0))
    ∧ (me q).mode = .normal ∧ (match q.lookVirt 0 .read 4 true ((addresses (me q) g0 false (.v 2) (.imm 0)).map fun x => (x.1, x.2.1.toNat, x.2.2)) with | .ok a _ => a | _ => []) = y.1 ∧ (q.core 0).locks = [(5, some ⟨0x42000 / 32, 0x42000 / 32, 1, 0, 0, true⟩)]
    ∧ (y.1.filter fun a => (0x42000 / 32 ≤ (a.pa + 3) / 32 && a.pa / 32 ≤ 0x42000 / 32)).map (·.lane) = [0, 1, 2, 3, 4, 5, 6, 7] ∧ Issues q (.ld .b4 false g0 (.v 4) (v 2) (im 0)) ∧ Issues q (.st .b4 false g0 (v 2) (v 9) (im 0)) ∧ (∀ l ∈ active (me q) g0, (srcLV (me q) 3 (dataKind .b4) false (.v 9) l).poison = none) := by
  and_intros <;> first | decide | exact issues_of (by decide) | exact quiet_of (by decide) | (unfold ScalarsClean; decide) | (unfold AddressesClean GuardClean; decide) | (unfold GuardClean; decide)
theorem witness_StoresIssue :
    let w := me mem0
    let y := looked .write mem0 true (addresses w g0 false (.v 2) (.imm 0))
    let x := addrLV (me run0) false (.s 1) (.imm 4) 0
    let z := looked .write run0 false [(0, x.1, x.2.taint)]
    let c := addrLV (me ctl0) false (.s 1) (.imm 4) 0
    let zc := looked .write ctl0 false [(0, c.1, c.2.taint)]
    let q := withWave fun w => { w with mode := .restore, level := 1 }
    w.taint = {} ∧ AddressesClean w g0 false (.v 2) (.imm 0) ∧ (∀ l ∈ active w g0, (srcLV w 3 (dataKind .b4) false (.v 9) l).poison = none) ∧ y.1 ≠ [] ∧ mem0.look mem0.cur false .write 4 true (addresses w g0 false (.v 2) (.imm 0)) = .ok y.1 y.2 ∧ w.mode = .normal ∧ w.serial = false ∧ w.stc < 63
    ∧ (entriesOf w.stage1 mem0.cur (stLanes w .b4 (.v 2) (.v 9) (some (.imm 0)) y.1)).length ≤ 64 ∧ Issues mem0 (.st .b4 false g0 (v 2) (v 9) (im 0)) ∧ z.1.length = 1 ∧ (scalarLV (me run0) 3 (.s 2)).poison = none ∧ run0.look run0.cur false .write 4 false [(0, x.1, x.2.taint)] = .ok z.1 z.2 ∧ (me run0).stage1 = []
    ∧ Issues run0 (.sst .b4 false (.s 1) (.s 2) (.imm 4)) ∧ (me ctl0).ctl = true ∧ zc.1.length = 1 ∧ ctl0.recs = [] ∧ ctl0.claimReady (ctl0.claimsOf 12288 (ctl0.interval 12288) ctl0.fresh ctl0.cycle .write false zc.1) = true ∧ Issues ctl0 (.sst .b4 false (.s 1) (.s 2) (.imm 4)) ∧ Issues q (.sst .b4 false (.s 1) (.s 2) (.imm 4)) := by
  and_intros <;> first | decide | exact issues_of (by decide) | exact quiet_of (by decide) | (unfold ScalarsClean; decide) | (unfold AddressesClean GuardClean; decide) | (unfold GuardClean; decide)
/-- One lane runs. -/
def one0 : State := withWave fun w => { w with regs := { w.regs with exec := 2, v := [(key 2 1, 0x2004), (key 9 1, 5)] } }
theorem witness_AtomicsAndReleases :
    let w := me one0
    let y := looked .write one0 true (addresses w g0 false (.v 2) (.imm 0))
    let x := y.1.headD ⟨0, 0, .mem, 0, false, false⟩
    quietB one0 = true ∧ (match one0.unitOf one0.cur with | some r => r.sb.isEmpty | none => true) = true ∧ one0.recs = [] ∧ w.taint = {} ∧ AddressesClean w g0 false (.v 2) (.imm 0) ∧ active w g0 = [1] ∧ isFabric x.pa = false ∧ one0.poisoned x.sp x.pa 4 = false
    ∧ one0.look one0.cur false .write 4 true (addresses w g0 false (.v 2) (.imm 0)) = .ok [x] y.2 ∧ one0.look one0.cur false .read 4 true (addresses w g0 false (.v 2) (.imm 0)) = .ok [x] y.2 ∧ (srcLV w 3 (dataKind .b4) false (.v 9) 1).poison = none ∧ (srcLV w 1 (dataKind .b4) false (.v 6) 1).poison = none
    ∧ Issues one0 (.atom .add .b4 false .k g0 (.v 6) (v 2) (v 9)) ∧ Issues one0 (.cas .b4 false .k g0 (.v 6) (v 2) (v 9)) ∧ Issues one0 (.ldacq .b4 false .k g0 (.v 6) (v 2)) ∧ Issues one0 (.strel .b4 false .k g0 (v 2) (v 9)) ∧ Issues one0 (.prf false g0 (v 2) (im 0)) := by
  and_intros <;> first | decide | exact issues_of (by decide) | exact quiet_of (by decide) | (unfold ScalarsClean; decide) | (unfold AddressesClean GuardClean; decide) | (unfold GuardClean; decide)
theorem witness_SynchronisingInstructions :
    let u := withUnit fun r => { r with bar := { count := 1, level := 1 }, slots := [0, 1], w := 2 }
    let x := { run0 with launches := [(1, some { launch1 with kind := 0, whole := false })] }
    Quiet run0 ∧ Issues run0 (.rel .f) ∧ Issues run0 (.fence .w) ∧ Issues run0 (.acq .f) ∧ isCtl run0.cur = false ∧ Issues run0 (.bar .d) ∧ run0.cancelled 1 = false ∧ launch1.kind = 1 ∧ unit0.bar.count = 0 ∧ (me run0).within 0 0 0 0 = true ∧ Issues run0 (.wait 0 0 0 0) ∧ Issues u (.bar .d) ∧ Issues x (.bar .k)
    ∧ (me (withWave fun w => { w with cpc := 1 })).within 63 63 0 15 = false ∧ Issues (withWave fun w => { w with cpc := 1 }) (.wait 63 63 0 15) := by
  and_intros <;> first | decide | exact issues_of (by decide) | exact quiet_of (by decide) | (unfold ScalarsClean; decide) | (unfold AddressesClean GuardClean; decide) | (unfold GuardClean; decide)

/-- The launch has a queue of 8 two-word entries, which stage 0 fills and empties, with n entries in it; one lane runs. -/
def queued (n : Nat) : State :=
  { run0 with launches := [(1, some { launch1 with queues := [{ log2cap := 3, size4 := 2, ring := (List.range n).map fun k => { words := [(BitVec.ofNat 32 k, false), (7, false)] } }] })], waves := [(0, { wave0 with regs := { exec := 2, s := [(2, 7)] } })] }
def theQueue (n : Nat) : BQueue := { log2cap := 3, size4 := 2, ring := (List.range n).map fun k => { words := [(BitVec.ofNat 32 k, false), (7, false)] } }
theorem witness_QueueInstructions :
    let u := queued 3
    let x := queued 8
    let y := queued 0
    ScalarsClean (me u) [.s 4] ∧ u.cancelled (me u).launch = false ∧ ScalarsClean (me u) [.s 2] ∧ u.queueTrap (.poll true) (u.sval (.s 2)) = .error (qfault 1 0 7 1) ∧ Issues u (.poll true 1 (.s 2))
    ∧ u.sval (.s 4) = 0 ∧ u.queueTrap (.poll true) 0 = .ok (theQueue 3) ∧ (me u).qLanes.length ≤ (theQueue 3).free ∧ Issues u (.poll true 1 (.s 4)) ∧ x.queueTrap (.poll true) 0 = .ok (theQueue 8) ∧ (theQueue 8).free < (me x).qLanes.length ∧ Issues x (.poll true 1 (.s 4))
    ∧ y.queueTrap (.poll false) 0 = .ok (theQueue 0) ∧ (theQueue 0).ready.length < (me y).qLanes.length ∧ (me u).qLanes.length ≤ (theQueue 3).ready.length
    ∧ Quiet u ∧ u.queueTrap (.put 238) 0 = .ok (theQueue 3) ∧ (me u).taint.v = [] ∧ (∀ j, j < 2 → ∀ l ∈ execLanes (me u), vBad (me u) (238 + j) l = false) ∧ (∀ e ∈ (theQueue 3).ring, e.owner ≠ some u.cur) ∧ Issues u (.qput (.s 4) 238)
    ∧ Quiet x ∧ x.queueTrap (.put 238) 0 = .ok (theQueue 8) ∧ (theQueue 8).free < (execLanes (me x)).length ∧ (∀ e ∈ (theQueue 8).ring, e.owner ≠ some x.cur) ∧ Issues x (.qput (.s 4) 238)
    ∧ u.queueTrap (.get 238) 0 = .ok (theQueue 3) ∧ (∀ e ∈ (theQueue 3).ring, e.words.length = 2) ∧ (execLanes (me u)).length ≤ (theQueue 3).ready.length ∧ Issues u (.qget 238 (.s 4))
    ∧ Quiet y ∧ y.queueTrap (.get 238) 0 = .ok (theQueue 0) ∧ (theQueue 0).ready.length < (execLanes (me y)).length ∧ Issues y (.qget 238 (.s 4)) ∧ u.queueOf 0 = some (theQueue 3) ∧ Issues u (.qprobe 4 (.s 4)) := by
  and_intros <;> first | decide | rfl | exact issues_of (by decide) | exact quiet_of (by decide) | (unfold ScalarsClean; decide) | (unfold AddressesClean GuardClean; decide) | (unfold GuardClean; decide)
/-- The queue's fault cases, in the order of the checks: no such queue, the wrong stage, too high a register, too many lanes. -/
theorem witness_QueueInstructions_faults :
    let u := queued 3
    let x := { u with launches := [(1, some { launch1 with queues := [{ theQueue 0 with consumer := 1 }] })] }
    let y := u.modWave 0 fun w => { w with regs := { w.regs with exec := 0x1FF } }
    u.queueTrap (.get 0) 1 = .error (qfault 1 0 1 1) ∧ x.queueTrap (.get 0) 0 = .error (qfault 1 0 0 2) ∧ u.queueTrap (.put 239) 0 = .error (qfault 1 0 0 3) ∧ y.queueTrap (.put 238) 0 = .error (qfault 9 0 0 4) := by
  and_intros <;> first | decide | rfl

/-- Handle 15 is full, with a command's error noted. -/
def armed : State := withUnit fun r => { r with handles := [(15, { st := .full, err := true, fill := 3 })] }
theorem witness_HandlesRecordsAndGraze :
    let u := run0.modWave 0 fun w => { w with regs := { w.regs with s := [(1, 15), (2, 16), (5, 3)] } }
    let y := armed.modWave 0 fun w => { w with regs := { w.regs with s := [(1, 15)] } }
    ScalarsClean (me u) [.s 1] ∧ u.sval (.s 1) = 15 ∧ (State.handle u.curUnit 15).st = .free ∧ Issues u (.hwait false 1 (.s 1)) ∧ (State.handle y.curUnit (y.sval (.s 1))).st = .full ∧ Issues y (.hwait true 1 (.s 1)) ∧ y.cancelled (me y).launch = false ∧ Issues u (.hwait true 1 (.s 1))
    ∧ ScalarsClean (me u) [.s 2] ∧ 15 < u.sval (.s 2) ∧ Issues u (.hwait true 1 (.s 2)) ∧ y.hrelTarget 15 = some (0, 15) ∧ y.unit 0 = some { unit0 with handles := [(15, { st := .full, err := true, fill := 3 })] } ∧ Issues y (.hrel (.s 1)) ∧ u.hrelTarget 15 = some (0, 15) ∧ Issues u (.hrel (.s 1))
    ∧ isCtl u.cur = false ∧ u.unit (me u).unit = some unit0 ∧ (me u).step = 0 ∧ selectSched ((u.launch (me u).launch).getD {}).sched 0 1 true = [] ∧ (me u).sched = none ∧ (u.schedPlan 1).1 = [] ∧ Issues u (.stadv 1)
    ∧ u.launch (me u).launch = some launch1 ∧ u.sval (.s 5) = 3 ∧ launch1.graze ≤ 3 ∧ Issues u (.gpol (.s 5)) ∧ Issues u (.gqry 4 (.s 5)) ∧ bits 3 26 6 = (me u).vf ∧ u.fold 0 3 = none ∧ Issues u (.gcul (.s 5)) := by
  and_intros <;> first | decide | rfl | exact issues_of (by decide) | exact quiet_of (by decide) | (unfold ScalarsClean; decide) | (unfold AddressesClean GuardClean; decide) | (unfold GuardClean; decide)
/-- A record in the event queue of the control core's core; none; a wave at user level; a variant to be culled. -/
theorem witness_HandlesRecordsAndGraze_records :
    let u := { ctl0 with cores := [(0, { core0 with evq := [⟨1, 0, 2, 5, 9⟩] })] }
    let x := { (withWave fun w => { w with regs := { w.regs with s := [(5, 3)] } }) with vfs := [(0, { graze := { folds := [{ seq := 3, pc := 0x1000, fmode := 0, nmode := 0, code := [], ev := 0 }] } })] }
    (me u).ctl = true ∧ u.ctlCancel = false ∧ (u.core (coreOf u.cur)).evq = [⟨1, 0, 2, 5, 9⟩] ∧ Issues u (.evget 4) ∧ (me ctl0).ctl = true ∧ ctl0.ctlCancel = false ∧ (ctl0.core (coreOf ctl0.cur)).evq = [] ∧ Issues ctl0 (.evget 4)
    ∧ (me run0).ctl = false ∧ (me run0).level = 0 ∧ Issues run0 (.evget 4) ∧ bits (x.sval (.s 5)) 26 6 = (me x).vf ∧ (x.fold 0 (x.sval (.s 5) % 2 ^ 26)).isSome = true ∧ Issues x (.gcul (.s 5)) := by
  and_intros <;> first | decide | rfl | exact issues_of (by decide) | exact quiet_of (by decide) | (unfold ScalarsClean; decide) | (unfold AddressesClean GuardClean; decide) | (unfold GuardClean; decide)

/-- A structure in memory: n bytes, of which those listed (offset, length, value) are not zero. -/
def image (n : Nat) (xs : List (Nat × Nat × Nat)) : List Byte := (List.range n).map fun k => BitVec.ofNat 8 ((xs.map fun x => if x.1 ≤ k ∧ k < x.1 + x.2.1 then x.2.2 / 2 ^ (8 * (k - x.1)) % 256 else 0).foldl (· + ·) 0)
/-- A copy of 16 words from 0x2000 to the handle's buffer at offset 0; a broadcast of 4 words from rank 0; a task over 32 columns of e2m1; an epilogue to memory in fp32. -/
def copyD : List Byte := image 128 [(0, 1, 1), (1, 1, 2), (2, 1, 8), (8, 8, 0x2000), (0x1C, 4, 64), (0x28, 4, 16), (0x74, 2, 16)]
def collD : List Byte := image 64 [(1, 1, 4), (8, 4, 4), (0x10, 8, 0x200000), (0x18, 8, 0x200100)]
def taskD : List Byte := image 64 [(0, 1, 15), (1, 1, 15), (4, 2, 1)]
def rowsD : List Byte := image 64 [(8, 4, 256)]
/-- Group 5 of the function: two members, this one rank 0, windows from 2 on, 2 MiB of memory from 2 MiB on. -/
def group5 : SMap Byte := (List.range 16).map fun k => (0x1010050 + k, (BitVec.ofNat 8 ((1 + 2 * 2 ^ 54 + 2 * 2 ^ 65 + 2 ^ 76 + 2 ^ 112) / 2 ^ (8 * k) % 256) : Byte))
/-- The descriptor has been read; the unit has bank 0. -/
def hasRead (d : List Byte) : State :=
  { withUnit (fun r => { r with acc := some [0] }) with waves := [(0, { wave0 with eng := [d], regs := { wave0.regs with s := [(1, 0x2040), (2, 7), (3, 16), (4, 5)] } })], cores := [(0, { core0 with banks := [(0, some 0)] })], hw := group5 }
theorem witness_CommandsIssue :
    let s := hasRead copyD
    let u := hasRead collD
    let full := fun (s : State) (x : Cmd) => { x with parts := s.resolveAll (coreOf s.cur) x }
    let g := u.groupEntry (me u).vf 5
    ScalarsClean (me s) [.s 3, .s 1, .s 4] ∧ 15 < s.sval (.s 3) ∧ (me s).step ≠ 2 ∧ Issues s (.cpy (.s 3) (.s 1)) ∧ Issues s (.cpyc (.s 3) (.s 1) (.s 4)) ∧ ScalarsClean (me s) [.s 2, .s 2] ∧ s.sval (.s 2) ≤ 15 ∧ s.sval (.s 2) % 64 ≠ 0 ∧ Issues s (.cpy (.s 2) (.s 2))
    ∧ ScalarsClean (me s) [.s 2, .s 1] ∧ s.sval (.s 1) % 64 = 0 ∧ copyTrap s.curUnit 7 copyD = none ∧ s.copyBusy 7 false = false ∧ (s.core 0).freeSlot false = some 0 ∧ s.entering = none ∧ (me s).eng = [copyD] ∧ (full s (s.copyCmd 7 copyD)).locks.length ≤ 64 ∧ Issues s (.cpy (.s 2) (.s 1))
    ∧ ScalarsClean (me u) [.s 2, .s 1, .s 4] ∧ u.sval (.s 4) = 5 ∧ collTrap collD g = none ∧ u.copyBusy 7 true = false ∧ (full u (u.collCmd 7 collD g)).locks.length ≤ 64 ∧ Issues u (.cpyc (.s 2) (.s 1) (.s 4)) := by
  and_intros <;> first | decide | rfl | exact issues_of (by decide) | (unfold ScalarsClean; decide)
set_option maxRecDepth 8000 in
theorem witness_CommandsIssue_tiles :
    let x := hasRead taskD
    let y := hasRead rowsD
    let full := fun (s : State) (x : Cmd) => { x with parts := s.resolveAll (coreOf s.cur) x }
    x.ueScalar ([(1, .s 8), (4, .s 1)] ++ topScalars 2 (.s 10) ++ topScalars 3 (.v 4)) = none ∧ tileTrap x.curUnit (x.sval (.s 8)) 1 = none ∧ x.sval (.s 1) % 64 = 0 ∧ fbTrap x.curUnit taskD = none ∧ x.taskTrap taskD (.s 10) (.v 4) = none ∧ (me x).ttc < 15
    ∧ (x.core 0).freeSlot true = some 128 ∧ x.entering = none ∧ (me x).step ≠ 2 ∧ (me x).eng = [taskD] ∧ (full x (x.taskCmd 0 (.s 10) (.v 4) taskD)).locks.length ≤ 64 ∧ Issues x (.mtask (.s 8) (.s 10) (.v 4) (.s 1))
    ∧ ScalarsClean (me y) [.s 8, .s 9, .s 1] ∧ tileTrap y.curUnit (y.sval (.s 8)) 2 = none ∧ y.sval (.s 9) % 32 = 0 ∧ edTrap y.curUnit rowsD (y.sval (.s 9)) = none ∧ (y.core 0).freeSlot true = some 128 ∧ (full y (y.aepCmd 0 0 false rowsD)).locks.length ≤ 64 ∧ Issues y (.aep (.s 8) (.s 9) (.s 1)) := by
  and_intros <;> first | decide | rfl | exact issues_of (by decide) | (unfold ScalarsClean; decide)
/-- A command of each kind of engine that has its ranges and enters its locks. -/
def entering (k : Nat) (x : Cmd) : State := { run0 with waves := [(0, { wave0 with step := 2, eng := [x.desc] })], cores := [(0, { core0 with cmds := [(k, some x)] })] }
theorem witness_CommandsIssue_enters :
    let c : Cmd := { (hasRead copyD).copyCmd 7 copyD with parts := [⟨0x2000, 64, some 0x42000, 0, false, 0⟩] }
    let d : Cmd := { c with kind := .aep, args := [0, 0], desc := rowsD, fixed := [(2, 0, 511, false)] }
    let s := entering 0 c
    let u := entering 128 d
    let full := fun (s : State) (x : Cmd) => { x with parts := s.resolveAll (coreOf s.cur) x }
    (me s).step = 2 ∧ s.entering = some (0, c) ∧ (full s c).locks.length ≤ 64 ∧ (full s c).parts.any Part.isOpen = false ∧ ((s.core 0).enter 0 c.unit (full s c).locks).isSome = true ∧ (me s).ctl = false ∧ Issues s (.cpy (.s 2) (.s 1)) ∧ Issues s (.stadv 1)
    ∧ u.entering = some (128, d) ∧ (full u d).parts.any Part.isOpen = false ∧ ((u.core 0).enter 128 d.unit (full u d).locks).isSome = true ∧ Issues u (.aep (.s 8) (.s 9) (.s 1)) ∧ Issues u (.mtask (.s 8) (.s 10) (.v 4) (.s 1)) := by
  and_intros <;> first | decide | rfl | exact issues_of (by decide)

/-- The unit holds bank 3; lane 1 alone runs, with a logical address in v2. -/
def banked : State := { withUnit (fun r => { r with acc := some [3] }) with waves := [(0, { wave0 with regs := { exec := 2, s := [(2, 1)], v := [(key 2 1, 0x1FFFC)] } })], cores := [(0, { core0 with banks := [(3, some 0)], acc := [(131071, 9)] })] }
theorem witness_AccumulatorInstructions :
    let s := banked
    let u := run0.modWave 0 fun w => { w with regs := { w.regs with s := [(2, 4), (3, 5)] } }
    let q := { u with cores := [(0, { core0 with accQ := [(1, 4, 64)] })] }
    let lanes := (active (me s) g0).map fun l => (l, (addrLV (me s) true (.v 2) (.imm 0) l).1)
    isVO (.v 4) = true ∧ isCtl s.cur = false ∧ s.unit (me s).unit = some { unit0 with acc := some [3] } ∧ ScalarsClean (me s) [.s 2] ∧ Issues s (.aalloc (.s 2)) ∧ u.unit (me u).unit = some unit0 ∧ unit0.acc = none ∧ unit0.accReq = none
    ∧ ScalarsClean (me u) [.s 3] ∧ unit0.m < u.sval (.s 3) ∧ Issues u (.aalloc (.s 3)) ∧ ScalarsClean (me u) [.s 2] ∧ u.sval (.s 2) = unit0.m ∧ (u.core 0).accQ = [] ∧ u.sval (.s 2) ≤ (u.core 0).bankFree.length ∧ Issues u (.aalloc (.s 2)) ∧ (q.core 0).accQ ≠ [] ∧ q.cancelled (me q).launch = false ∧ Issues q (.aalloc (.s 2))
    ∧ Issues u .afree ∧ (∀ e ∈ (s.core 0).cmds, ∀ x, e.2 = some x → x.unit = (me s).unit → x.kind ≠ .tile ∧ x.kind ≠ .aep) ∧ Issues s .afree ∧ AddressesClean (me s) g0 true (.v 2) (.imm 0) ∧ s.accCheck false lanes = none ∧ (me s).ldc < 63 ∧ lanes ≠ [] ∧ Issues s (.ald g0 (.v 4) (v 2) (im 0))
    ∧ (me s).taint = {} ∧ active (me s) g0 = [1] ∧ (srcLV (me s) 3 .i32 false (.v 9) 1).poison = none ∧ s.accCheck true lanes = none ∧ Issues s (.ast g0 (v 2) (v 9) (im 0)) ∧ ScalarsClean (me s) [.s 9] ∧ tileTrap s.curUnit (s.sval (.s 9)) 0 = none
    ∧ (s.core 0).lockTrap 0x4000 true false [(0, 0, 2, s.curUnit.accPhys 0)] = none ∧ Issues s (.azero (.s 9)) := by
  and_intros <;> first | decide | rfl | exact issues_of (by decide) | (unfold ScalarsClean; decide) | (unfold AddressesClean GuardClean; decide) | (unfold GuardClean; decide) | (intro e he; cases he)

/-! ### Events of ordering, translation and firmware -/

/-- A claim of the wave on the line at 0x42000, whose records are p; identity 65 has the entry e. -/
def claimed (k : ClaimKind) (op : Nat) (p : RecPair) (e : SlotStatus) : State :=
  { run0 with claims := [⟨0, 0x1080, k, 0, 1, op, 0x2000, 0⟩], recs := if p = {} then [] else [(0x1080, p)], ids := if e = {} then [] else [(65, e)] }
/-- The wave has a load under way on that line; in serial mode or not. -/
def loading (serial : Bool) : State :=
  { claimed .read 5 {} {} with waves := [(0, { wave0 with ldc := 1, stc := 1, loads := [⟨5, 4, 4, false, false, [⟨1, .mem, 0x42004, [], false, 0x2004⟩], [], 0, false, 0, false, false⟩], rgn := { wave0.rgn with serial := serial } })] }
theorem witness_OrderingEvents_records :
    let P : RecPair := { wr := some ⟨65, 3, 0⟩ }
    let Q : RecPair := { rd := some ⟨65, 3, 0⟩ }
    let open_ : SlotStatus := { cur := 3, v := true }
    let out : SlotStatus := { cur := 9, pubu := 9, pubd := 9, pubk := 9, pubf := 9, v := true }
    let at_ := fun (s : State) => s.entry (granDie 0x1080) 65
    let hidden := fun (s : State) => (at_ s).mark (s.commonScope 0 65) ≤ 3
    let a := claimed .read 5 P open_
    let b := claimed .read 5 P out
    let c := claimed .write 5 Q open_
    let d := claimed .write 5 Q out
    65 ≠ a.cur ∧ (at_ a).fv = false ∧ mget {} a.recs 0x1080 = P ∧ (at_ a).v = true ∧ (3 : Nat) = (at_ a).cur ∧ hidden (claimed .read 5 P {}) ∧ mget {} b.recs 0x1080 = P ∧ P.rd = none ∧ ¬((at_ b).v = true ∧ 3 = (at_ b).cur) ∧ ¬hidden b
    ∧ mget {} c.recs 0x1080 = Q ∧ Q.wr = none ∧ (at_ c).v = true ∧ (3 : Nat) = (at_ c).cur ∧ mget {} d.recs 0x1080 = Q ∧ ¬((at_ d).v = true ∧ 3 = (at_ d).cur) ∧ mget {} (loading false).recs 0x1080 = {} := by
  and_intros <;> first | decide | rfl | (dsimp only; decide)
theorem witness_OrderingEvents :
    let s := loading false
    let z := loading true
    let c : Claim := ⟨0, 0x1080, .read, 0, 1, 5, 0x2000, 0⟩
    let l : PendLoad := ⟨5, 4, 4, false, false, [⟨1, .mem, 0x42004, [], false, 0x2004⟩], [], 0, false, 0, false, false⟩
    let x : LoadLane := ⟨1, 9, false, false⟩
    let done : PendLoad := { l with reqs := [], got := [x] }
    let w := { run0 with waves := [(0, { wave0 with loads := [done] })] }
    let y := { run0 with waves := [(0, { wave0 with loads := [{ done with scalar := true, dst := 260 }] })] }
    let v := { z with verdicts := [⟨{ c with kind := .write }, some ⟨65, 3, 0, 1⟩⟩] }
    let q := { s with verdicts := [⟨{ c with op := 0 }, some ⟨65, 3, 0, 1⟩⟩, ⟨{ c with kind := .write }, none⟩, ⟨{ c with kind := .write }, some ⟨65, 3, 0, 1⟩⟩], claims := [] }
    let moving := { s with changes := [⟨0, 0, {}⟩] }
    s.claims[0]? = some c ∧ moving.claimReady [c] = false ∧ s.claimReady [c] = true ∧ s.claims.take 0 = [] ∧ l ∈ (s.wave 0).loads ∧ l.id = c.op ∧ l.acq = false ∧ (∀ q ∈ l.reqs, q.remote = false ∧ granule q.sp q.addr = c.gran) ∧ s.judge c = none ∧ s.room c.gran = true
    ∧ q.verdicts[0]? = some ⟨{ c with op := 0 }, some ⟨65, 3, 0, 1⟩⟩ ∧ q.verdicts[1]? = some ⟨{ c with kind := .write }, none⟩ ∧ (∀ d ∈ q.claims, ¬(d.ident = 0 ∧ d.op = 5)) ∧ v.verdicts[0]? = some ⟨{ c with kind := .write }, some ⟨65, 3, 0, 1⟩⟩ ∧ (v.wave 0).serial = true
    ∧ q.verdicts[2]? = some ⟨{ c with kind := .write }, some ⟨65, 3, 0, 1⟩⟩ ∧ (q.wave 0).serial = false ∧ (s.wave 0).loads.find? (fun q => q.id == l.id && !q.acq) = some l ∧ l.reqs ≠ [] ∧ (w.wave 0).loads.find? (fun q => q.id == 5 && !q.acq) = some done ∧ done.got = [x] ∧ x.lane < 32 ∧ done.dst + 1 < 240
    ∧ (y.wave 0).loads.find? (fun q => q.id == 5 && !q.acq) = some { done with scalar := true, dst := 260 } := by
  and_intros <;> first | decide | rfl

/-- An access that waits for its verdicts alone: one of two is still to come; both have come, one of them a race. -/
theorem witness_OrderingEvents_alone :
    let a : Claim := ⟨0, 0x1080, .write, 1, 1, 1, 0x2000, 0⟩
    let b : Claim := { a with gran := 0x1081, lanes := 2, addr := 0x2040 }
    let s := { run0 with verdicts := [⟨a, none⟩], claims := [b] }
    let u := { run0 with verdicts := [⟨a, none⟩, ⟨b, some ⟨65, 3, 0, 1⟩⟩] }
    s.verdicts[0]? = some ⟨a, none⟩ ∧ a.op = 1 ∧ (∃ d ∈ s.claims, d.ident = a.ident ∧ d.op = 1) ∧ u.verdicts[1]? = some ⟨b, some ⟨65, 3, 0, 1⟩⟩ ∧ b.op = 1 ∧ u.claims = [] := by
  and_intros <;> first | decide | rfl

/-- The first n lines of die 0 have records. -/
def crowded (n : Nat) : State := { claimed .write 5 {} {} with recs := (List.range n).map fun k => (k, { wr := some ⟨0, 0, 0⟩ }), claims := [⟨0, 80000000, .write, 0, 1, 5, 0x2000, 0⟩], cycle := 1400000 }
theorem crowded_room (n : Nat) (hn : n = 71303168) : (crowded n).room 80000000 = false := by
  have h : mget ({} : RecPair) (crowded n).recs 80000000 = {} := by
    show mget _ ((List.range n).map _) _ = _
    have : ∀ k ∈ List.range n, k < 80000000 := fun k hk => by have := List.mem_range.mp hk; omega
    revert this
    generalize List.range n = l
    intro this
    induction l with
    | nil => rfl
    | cons a l ih => rw [List.map_cons, mget, if_neg (by have := this a (by simp); omega), ih fun k hk => this k (by simp [hk])]
  have hd : ∀ k, k < n → granDie k = 0 := by
    intro k hk
    have a : ¬ 70368744177664 ≤ k := by omega
    have b : isLocal (64 * k) = true := by unfold isLocal; simp; omega
    unfold granDie homeDie granSpad
    simp only [b, Nat.reducePow, a, decide_false, Bool.false_eq_true, if_false, if_true]; omega
  have hf : (crowded n).recs.filter (fun x => granDie x.1 == granDie 80000000) = (crowded n).recs := by
    rw [List.filter_eq_self]
    intro x hx
    obtain ⟨k, hk, rfl⟩ := List.mem_map.mp hx
    rw [hd k (List.mem_range.mp hk)]; decide
  have hl : (crowded n).recs.length = n := by show ((List.range n).map _).length = n; rw [List.length_map, List.length_range]
  unfold State.room State.tracks
  rw [h, hf, hl, hn]
  decide
theorem witness_OrderingEvents_no_room : (crowded 71303168).claims[0]? = some ⟨0, 80000000, .write, 0, 1, 5, 0x2000, 0⟩ ∧ (crowded 71303168).room 80000000 = false ∧ 0 + 1400000 ≤ (crowded 71303168).cycle :=
  ⟨rfl, crowded_room _ rfl, by decide⟩

/-- A line of the unit's buffer drains; another waits for its acknowledgement. -/
def draining0 : State :=
  { withUnit (fun r => { r with sb := [⟨.mem, 0x42000, [(4, some 7)], 0, false, 0x2000⟩] }) with drains := [⟨0, 0, 0x42000⟩], acks := [⟨0, 0, 0x42040⟩], changes := [⟨0, 1, { cur := 2 }⟩, ⟨0, 1, { cur := 3 }⟩], purges := [⟨0, 4, [0x1080], none, 0⟩], recs := [(0x1080, { wr := some ⟨0, 5, 0⟩, rd := some ⟨0, 5, 0⟩ })], rewrites := [12480] }
theorem witness_DrainsAndRecords :
    let s := draining0
    let u := { draining0 with purges := [⟨12480, 0, [], none, 0⟩] }
    let e : SBEntry := ⟨.mem, 0x42000, [(4, some 7)], 0, false, 0x2000⟩
    s.drains[0]? = some ⟨0, 0, 0x42000⟩ ∧ isFabric 0x42000 = false ∧ (s.takeLine 0 0 0x42000).2 = [e] ∧ e.sp = .mem ∧ mwf none e.data = true ∧ (∀ q ∈ e.data, q.1 < 64)
    ∧ s.changes[1]? = some ⟨0, 1, { cur := 3 }⟩ ∧ (∃ x ∈ s.changes.take 1, x.ident = 0 ∧ x.die = 1) ∧ s.changes[0]? = some ⟨0, 1, { cur := 2 }⟩ ∧ (∀ x ∈ s.changes.take 0, ¬(x.ident = 0 ∧ x.die = 1)) ∧ s.purges[0]? = some ⟨0, 4, [0x1080], none, 0⟩ ∧ 0 ∉ s.rewrites ∧ u.purges[0]? = some ⟨12480, 0, [], none, 0⟩ ∧ 12480 ∈ u.rewrites ∧ mwf {} s.recs = true ∧ 12480 ∈ s.rewrites ∧ 12481 ∉ s.rewrites := by
  and_intros <;> first | decide | rfl

/-- Bytes of memory. -/
def stores (xs : List (Nat × Nat × Nat)) : List Host.Cell := xs.foldl (fun m x => writeN m x.1 x.2.1 x.2.2) []
/-- Nothing translates yet; the last-level table of the addresses below 2 MiB is at 0x50000, and maps 0x3000 at 0x43000. -/
def missing (a : Nat) (f : VFn) : State :=
  { run0 with vfs := [(0, f)], mem := stores [(0x50018, 0x43000 + leafBits 0 7 0 0 false, 8)], cores := [(0, { vf := some 0, wcache := [(0, 0, 0, 0x50000)] })], waves := [(0, { wave0 with st := .stalled, walk := some ⟨.read, 2, [(1, BitVec.ofNat 64 a)]⟩ })] }
def resv1 : Resv := ⟨0x4000, 4096, 0, 0, 7, 0, 0, 0⟩
/-- A range of 4 KiB at 0x5000 whose frame at 0x45000 is to come free when cores 0 and 1 have answered. -/
def sweep1 : Sweep := ⟨0x5000, 4096, [0], [0, 1], [(0x45000, 0)], true, none, none⟩
theorem witness_TranslationEvents :
    let s := missing 0x3004 {}
    let u := missing 0x4004 {}
    let x := missing 0x4004 { resvs := [resv1], pool := [(0x44000, 0)] }
    let r : WalkReq := ⟨.read, 2, [(1, 0x3004)]⟩
    let q : WalkReq := ⟨.read, 2, [(1, 0x4004)]⟩
    let pagesOf := fun (f : VFn) (r : WalkReq) => sortCodes (((r.addrs.filter (fun a => r.lanes == 0 || r.lanes.getLsbD a.1)).map (fun a => a.2.toNat)).map f.namedPage)
    (s.wave 0).walk = some r ∧ (s.wave 0).st ≠ .sleeping ∧ pagesOf {} r = [0x3000] ∧ ((s.fillWalk 0 0 0x3000).coreWalk 0 0 0x3000).isSome = true ∧ (u.wave 0).walk = some q ∧ pagesOf {} q = [0x4000] ∧ (u.fillWalk 0 0 0x4000).coreWalk 0 0 0x4000 = none ∧ VFn.resvAt {} 0x4000 = none
    ∧ pagesOf (x.vf 0) q = [0x4000] ∧ (x.fillWalk 0 0 0x4000).coreWalk 0 0 0x4000 = none ∧ (x.vf 0).resvAt 0x4000 = some resv1 ∧ pageOf 0x4000 0 = 0x4000 ∧ (x.vf 0).requestFor 0x4000 = none ∧ (x.vf 0).resident = [] ∧ resv1.kind = 0 ∧ (x.vf 0).poolFrame false 0 = some 0x44000 := by
  and_intros <;> first | decide | rfl
theorem witness_TranslationEvents_engines :
    let p : Part := ⟨0x3000, 64, none, 0, false, 0⟩
    let c : Cmd := { (hasRead copyD).copyCmd 7 copyD with parts := [p] }
    let s := { missing 0 {} with cores := [(0, { vf := some 0, wcache := [(0, 0, 0, 0x50000)], cmds := [(0, some c)] })] }
    let d : Cmd := { c with parts := [{ p with va := 0x4000 }] }
    let u := { s with cores := [(0, { vf := some 0, wcache := [(0, 0, 0, 0x50000)], cmds := [(0, some d)] })] }
    let x := { run0 with vfs := [(0, { sweeps := [sweep1] })], cores := [(0, { core0 with tlb := [page 0x5000 0x45000] }), (1, { core0 with tlb := [] })] }
    let y := { run0 with vfs := [(0, { sweeps := [{ sweep1 with todo := [] }] })] }
    let z := { run0 with vfs := [(0, { sweeps := [{ sweep1 with todo := [], unacked := [1] }] })] }
    s.cmd 0 0 = some c ∧ c.phase = 0 ∧ c.wait = none ∧ c.parts.find? Part.isOpen = some p ∧ ((s.fillWalk 0 0 0x3000).coreWalk 0 0 0x3000).isSome = true ∧ u.cmd 0 0 = some d ∧ (u.fillWalk 0 0 0x4000).coreWalk 0 0 0x4000 = none ∧ (u.vf 0).resvAt 0x4000 = none
    ∧ (x.core 0).vf = some 0 ∧ (x.vf 0).sweeps.find? (fun w => w.todo.contains 0) = some sweep1 ∧ (∀ j, j < 64 → (x.wave (64 * 0 + j)).stage1 = []) ∧ 0 ∈ { sweep1 with todo := [] }.unacked ∧ y.sweepBusy 0 { sweep1 with todo := [] } = false ∧ (∃ j ∈ { sweep1 with todo := [] }.unacked, j ≠ 0)
    ∧ 1 ∈ { sweep1 with todo := [], unacked := [1] }.unacked ∧ z.sweepBusy 1 { sweep1 with todo := [], unacked := [1] } = false ∧ (∀ j ∈ { sweep1 with todo := [], unacked := [1] }.unacked, j = 1) ∧ sweep1.free = true ∧ sweep1.req = none ∧ sweep1.window = none := by
  and_intros <;> first | decide | rfl

/-- A request of the wave with a code, for a range of 4 KiB at 0x8000 with permissions p; length n. -/
def asking (code p n : Nat) (f : VFn) : State :=
  { run0 with mem := stores [(0x42000, 0x8000, 8), (0x42008, n, 8), (0x42018, p, 4)], vfs := [(0, { f with svcq := [⟨5, code, 0x2000, 0x42000, false, 0, false⟩] })], waves := [(0, { wave0 with st := .waiting, wait := .svc, svcreq := some 5 })] }
def made : Resv := ⟨0x8000, 4096, 0, 0, 7, 0, 0, 0⟩
theorem witness_ServiceEvents :
    let f : VFn := { resvs := [made], resident := [(0x8000, 0, 0x48000)] }
    let s := fun (code : Nat) => asking code 7 4096 { pool := [(0x44000, 0)] }
    let bad := fun (code : Nat) => asking code 7 0 {}
    let u := asking 0x42 7 4096 f
    let x := asking 0x43 3 4096 f
    let y := asking 0x43 7 4096 f
    let q := fun (code : Nat) => (⟨5, code, 0x2000, 0x42000, false, 0, false⟩ : SvcReq)
    let z := { asking 0x41 7 4096 f with vfs := [(0, { f with svcq := [{ q 0x41 with begun := true, vbase := made.base }] })] }
    (s 0x40).vfs = [(0, { pool := [(0x44000, 0)], svcq := [q 0x40] })] ∧ ((s 0x40).vf 0).idle = true ∧ isFabric 0x42000 = false ∧ (s 0x40).askerOf (q 0x40) = some 0 ∧ ((s 0x40).wave 0).mode = .normal ∧ ((s 0x40).wave 0).st = .waiting
    ∧ (bad 0x40).validate 0 (q 0x40) ((bad 0x40).readBlock 0x42000) = some (1, 2) ∧ (bad 0x43).validate 0 (q 0x43) ((bad 0x43).readBlock 0x42000) = some (1, 2) ∧ (s 0x40).validate 0 (q 0x40) ((s 0x40).readBlock 0x42000) = none ∧ (s 0x41).validate 0 (q 0x41) ((s 0x41).readBlock 0x42000) = none
    ∧ u.validate 0 (q 0x42) (u.readBlock 0x42000) = none ∧ u.vfCores 0 ≠ [] ∧ x.validate 0 (q 0x43) (x.readBlock 0x42000) = none ∧ (x.vf 0).resvs = [made] ∧ made.base = (x.readBlock 0x42000).vbase ∧ (([0, 1, 2] : List Nat).any fun k => made.perm.testBit k && !(x.readBlock 0x42000).perm.testBit k) = true
    ∧ y.validate 0 (q 0x43) (y.readBlock 0x42000) = none ∧ (([0, 1, 2] : List Nat).any fun k => made.perm.testBit k && !(y.readBlock 0x42000).perm.testBit k) = false ∧ z.askerOf { q 0x41 with begun := true, vbase := made.base } = some 0 ∧ (z.vf 0).resvAt made.base = some made ∧ (∀ p ∈ made.pages, ∃ y ∈ (z.vf 0).resident, y.1 = p) := by
  and_intros <;> first | decide | rfl

/-- Entry 255 of the page-request table is live in its last generation; a frame is in quarantine for it. -/
def requested (e : PageReq) : State := { run0 with vfs := [(0, { resvs := [made], preqs := [(255, e)], quar := [⟨255, 0x49000, 0, 0, false⟩] })] }
theorem witness_PageRequests :
    let e : PageReq := { live := true, gen := 255, hostdata := true, vpage := 0x8000, frame := 0x44000 }
    let d : PageReq := { e with hostdata := false }
    let s := requested e
    let u := requested d
    let x := { requested { d with joined := [0] } with waves := [(0, { wave0 with st := .sleeping, walk := some ⟨.read, 0, [(0, 0x8000)]⟩ })] }
    let y := { s with cycle := 140000000 }
    e.gen < 256 ∧ e.live = true ∧ (s.vf 0).resvAt e.vpage = some made ∧ u.goodFrame 0 d 0x40000000 = true ∧ u.goodFrame 0 d 0x40000800 = false ∧ mwf ({} : PageReq) (x.vf 0).preqs = true ∧ (∀ z ∈ (x.vf 0).preqs, z.1 ≠ 255 → z.2.live = true → 0 ∉ z.2.joined) ∧ (x.wave 0).st = .sleeping ∧ e.joined = [] ∧ e.cmds = []
    ∧ mget {} (y.vf 0).preqs 255 = e ∧ e.posted + y.pageTimeout 0 ≤ y.cycle ∧ s.cycle < e.posted + s.pageTimeout 0 ∧ (∃ q ∈ (y.vf 0).quar, q.tag % 256 = 255 ∧ q.since + y.pageTimeout 0 ≤ y.cycle ∧ q.reset = false) := by
  and_intros <;> first | decide | rfl

/-! ### Events of engines, scheduling, launches, power -/

/-- A command in slot k of core 0, with the unit's handle 7 filling. -/
def working (k : Nat) (x : Cmd) : State :=
  { hasRead copyD with units := [(0, some { unit0 with acc := some [0], handles := [(7, { st := .filling, blen := 64, pend := 64, ncmd := 1, fill := 1 })] })], cores := [(0, { core0 with banks := [(0, some 0)], cmds := [(k, some x)] })], cycle := 1400000000 }
def copying (n : Nat) : Cmd := { (hasRead copyD).copyCmd 7 copyD with phase := n, parts := [⟨0x2000, 64, some 0x42000, 0, false, 0⟩] }
def gathering : Cmd := { (hasRead collD).collCmd 7 collD (readN group5 0x1010050 16) with phase := 2, parts := [⟨0x200000, 16, some 0x60000, 0, false, 0⟩, ⟨0x200100, 16, some 0x60100, 0, true, 0⟩] }
def tiling (n : Nat) : Cmd := { (hasRead taskD).newCmd .tile 0 taskD with phase := n, args := [0, 0, 0, 0, 0, 0, 0] }
def rowing : Cmd := { (hasRead rowsD).newCmd .aep 0 rowsD with phase := 2, args := [0, 0x4000], parts := [⟨0x4000, 16384, some 0x64000, 0, true, 0⟩] }
set_option maxRecDepth 4000 in
theorem witness_EngineEvents :
    let s := working 0 (copying 2)
    let u := working 0 (copying 1)
    let x := working 0 (copying 3)
    let r := { unit0 with acc := some [0], handles := [(7, { st := .filling, blen := 64, pend := 64, ncmd := 1, fill := 1 })] }
    let pl := s.copyPlan 0 r (copying 2)
    let Clear := fun (s : State) (x : Cmd) (reads writes : List Acc) => s.recs = [] ∧ s.claimReady (s.planClaims r x reads writes) = true
    s.cmd 0 0 = some (copying 2) ∧ s.unit 0 = some r ∧ u.cmd 0 0 = some (copying 1) ∧ (u.core 0).blocked 0 = false ∧ (u.core 0).heldBack 0 (copying 1) = false ∧ (copying 1).remoteLines = [] ∧ (copying 2).err = 0 ∧ s.cmdWaits 0 0 = false ∧ pl.stop = none ∧ (State.handle r 7).st = .filling
    ∧ pl.writes.length = 64 ∧ (∀ y ∈ pl.writes, y.1.sp = .mem → isFabric y.1.pa = false) ∧ Clear s (copying 2) pl.reads (pl.writes.map (·.1)) ∧ (∀ d, (s.entry d 0).fv = false) ∧ x.cmdWaits 0 0 = false := by
  and_intros <;> first | decide | rfl | (intro e he d hd; simp only [working, State.core, mget, if_pos] at he; simp only [List.mem_singleton] at he; subst he; cases hd; decide) | (intro d; rfl)
theorem witness_EngineEvents_collectives :
    let s := working 0 gathering
    let y := { s with cycle := 0 }
    let r := { unit0 with acc := some [0], handles := [(7, { st := .filling, blen := 64, pend := 64, ncmd := 1, fill := 1 })] }
    let pl := s.collPlan gathering
    let b : Lock := ⟨8448, 8449, 1, 0, 0, true⟩
    let z := (working 0 (copying 1)).modCore 0 fun c => { c with cmds := [(0, some { (copying 1) with order := 5 }), (1, some (copying 1))], locks := [(0, some { b with owner := 0, wl := false }), (1, some b)] }
    let late : Cmd := { gathering with join := 1400000001 }
    gathering.kind = .coll ∧ gathering.joined s.cycle = true ∧ gathering.odd = false ∧ { gathering with odd := true }.joined s.cycle = true ∧ late.joined s.cycle = false ∧ late.first + 1400000000 < late.join ∧ gathering.err = 0 ∧ s.cmdWaits 0 0 = false ∧ pl.stop = none ∧ pl.writes.length = 16 ∧ (∀ y ∈ pl.writes, y.1.sp = .mem → isFabric y.1.pa = false) ∧ s.claimReady (s.planClaims r gathering pl.reads (pl.writes.map (·.1))) = true
    ∧ late.first + 1400000000 ≤ s.cycle ∧ y.cycle < late.first + 1400000000 ∧ gathering.join ≤ gathering.first + 1400000000 ∧ (z.core 0).blocked 0 = true := by
  and_intros <;> first | decide | rfl
set_option maxRecDepth 20000 in
theorem witness_EngineEvents_tiles :
    let s := working 128 (tiling 1)
    let u := working 128 (tiling 2)
    let y := working 128 rowing
    let r := { unit0 with acc := some [0], handles := [(7, { st := .filling, blen := 64, pend := 64, ncmd := 1, fill := 1 })] }
    (s.core 0).blocked 128 = false ∧ (s.core 0).heldBack 128 (tiling 1) = false ∧ gateOpen r (tiling 1) = true ∧ (s.core 0).running < 4 ∧ s.cmdWaits 0 128 = false ∧ (tiling 1).gate = none ∧ (∀ q ∈ partLines (tiling 1).parts, mget none (tiling 1).lines (q / 64) ≠ none) ∧ (tiling 1).scalePlaces 0 r = .ok [] ∧ s.claimReady (s.planClaims r (tiling 1) [] []) = true ∧ s.cmdBytes (tiling 1) [] = .ok []
    ∧ u.claimReady (u.planClaims r (tiling 2) ((tiling 2).tileReads 0 r) []) = true ∧ (∀ a ∈ (tiling 2).tileReads 0 r, u.poisoned a.sp a.pa 4 = false) ∧ (u.core 0).tilePoison (r.tileOf 0) = none ∧ y.cmdWaits 0 128 = false ∧ mget false (y.core 0).accTaint (r.tileOf 0) = false := by
  and_intros <;> first | decide | rfl
/-- A plan whose parts all have places stops nowhere, and writes nowhere else. -/
theorem plan_goes_on (f : Nat → Except (Nat × Nat) (List Acc × List (Acc × Byte))) (P : Acc → Prop) : ∀ (l : List Nat) (pl : Plan), pl.stop = none → (∀ y ∈ pl.writes, P y.1) → (∀ m ∈ l, ∃ v, f m = .ok v ∧ ∀ y ∈ v.2, P y.1) →
    (l.foldl (fun pl m => pl.add false (f m)) pl).stop = none ∧ ∀ y ∈ (l.foldl (fun pl m => pl.add false (f m)) pl).writes, P y.1
  | [], _, h, hw, _ => ⟨h, hw⟩
  | m :: l, pl, h, hw, hf => by
    obtain ⟨v, hv, hp⟩ := hf m (by simp)
    refine plan_goes_on f P l _ ?_ ?_ fun k hk => hf k (by simp [hk])
    · simpa [Plan.add, Plan.stop, hv] using h
    · intro y hy
      simp only [Plan.add, hv, List.mem_append] at hy
      exact hy.elim (hw y) (hp y)
/-- An epilogue whose rows go to the scratchpad from offset 0 on. -/
def rowing1 : Cmd := { rowing with desc := image 64 [(1, 1, 1), (8, 4, 64)], args := [0, 0] }
theorem witness_EngineEvents_rows :
    let s := working 128 rowing1
    let r := { unit0 with acc := some [0], handles := [(7, { st := .filling, blen := 64, pend := 64, ncmd := 1, fill := 1 })] }
    let pl := s.edPlan 0 r rowing1 (r.tileOf 0)
    s.cmd 0 128 = some rowing1 ∧ pl.stop = none ∧ (∀ y ∈ pl.writes, y.1.sp = .mem → isFabric y.1.pa = false) ∧ s.claimReady (s.planClaims r rowing1 [] (pl.writes.map (·.1))) = true := by
  intro s r pl
  have h : pl.stop = none ∧ ∀ y ∈ pl.writes, y.1.sp ≠ .mem := by
    refine plan_goes_on _ (fun a => a.sp ≠ .mem) _ _ rfl (fun y hy => absurd hy (by simp)) fun m _ => ⟨_, rfl, fun y hy => ?_⟩
    obtain ⟨k, _, hk⟩ := List.mem_map.mp (List.of_mem_zip hy).1
    rw [← hk]; exact fun h => nomatch h
  refine ⟨rfl, h.1, fun y hy e => absurd e (h.2 y hy), ?_⟩
  unfold State.claimReady
  rw [List.all_eq_true]
  intro c _
  rfl
theorem witness_EngineEvents_grant :
    let s := { run0 with cores := [(0, { core0 with accQ := [(0, 16, 0)] })] }
    let u := { run0 with cores := [(0, { core0 with accQ := [(0, 16, 0)], banks := [(3, some 1)] })] }
    (s.core 0).accQ = [(0, 16, 0)] ∧ 16 ≤ (s.core 0).bankFree.length ∧ s.unit 0 = some unit0 ∧ (u.core 0).bankFree.length < 16 := by decide

theorem witness_SchedulingEvents :
    let s := withWave fun w => { w with st := .parked, parkEnd := 5 }
    let y := { s with cycle := 5 }
    let z := { (withWave fun w => { w with yielded := some 7 }) with cycle := 71 }
    let h := { run0 with cycle := 4096 }
    let r : UnitR := { unit0 with slots := [0, 1], w := 2, bar := { count := 2, mask := 3, level := 1 } }
    let at1 := { run0 with units := [(0, some r)], waves := [(0, { wave0 with st := .waiting, wait := .bar .u }), (1, { wave0 with widx := 1, st := .waiting, wait := .bar .u })] }
    let at2 := { at1 with units := [(0, some { r with bar := { count := 2, mask := 3, level := 2, sent := true } })] }
    (s.wave 0).st = .parked ∧ s.cycle < 5 ∧ (y.wave 0).parkEnd ≤ y.cycle ∧ (z.wave 0).yielded = some 7 ∧ 7 + 64 ≤ z.cycle ∧ { z with cycle := 70 }.cycle < 7 + 64 ∧ (h.wave 0).st = .ready ∧ (h.wave 0).halt = false ∧ (h.wave 0).lastIssue + 4096 ≤ h.cycle ∧ run0.cycle < (run0.wave 0).lastIssue + 4096
    ∧ at1.unit 0 = some r ∧ r.area = none ∧ at1.allArrived 0 r = true ∧ at1.allArrived 0 { r with bar := { r.bar with mask := 1 } } = false ∧ at2.allArrived 0 { r with bar := { count := 2, mask := 3, level := 2 } } = true ∧ mwf none at2.units = true ∧ at2.dieComplete 1 (dieOfCore (0 / 16)) 2 = true
    ∧ (∃ y ∈ at1.liveSlots 0 r, (at1.wave y).st = .waiting ∧ (at1.wave y).wait = .bar .u) ∧ (run0.wave 1).st = .empty ∧ isCtl 0 = false ∧ 0 ∈ unit0.slots := by
  and_intros <;> first | decide | rfl
theorem witness_SchedulingEvents_save :
    let s := { run0 with vfs := [(0, { ctxsv := 0x4001, ctxrs := 0x5001, ctxpool := 1 })] }
    let u := { run0 with cores := [(0, { core0 with evWait := [⟨1, 0, 2, 5, 9⟩] })] }
    (run0.vf 0).ctxsv.getLsbD 0 = false ∧ unit0.moving = false ∧ (s.vf 0).ctxsv.getLsbD 0 = true ∧ (s.vf 0).ctxrs.getLsbD 0 = true ∧ s.unit 0 = some unit0 ∧ (∀ y ∈ s.liveSlots 0 unit0, (s.wave y).deferred = false) ∧ (u.core 0).evWait = [⟨1, 0, 2, 5, 9⟩] ∧ (u.core 0).evq.length < 256 := by
  and_intros <;> first | decide | rfl

/-- Queue 0 runs, with its ring of 16 records at 0x60000 and one record in it. -/
def record1 : List Byte := image 256 [(1, 1, 1), (6, 1, 2), (8, 8, 9), (0x18, 4, 3), (0x40, 8, 0x1000), (0x48, 1, 2), (0x4C, 2, 2)]
def ringing (d : List Byte) (base head tail : Nat) : State :=
  { run0 with hw := stores [(0x80000, base, 8), (0x80008, 4, 1), (0x8000B, 1, 1), (0x80010, tail, 4), (0x80014, head, 4)], mem := (List.range 256).foldl (fun m k => writeN m (0x60000 + k) (d.getD k 0).toNat 1) [], vfs := [(0, { resvs := [⟨0x1000, 4096, 0, 0, 7, 0, 0, 0⟩] })] }
def ready (s : State) (q : Nat) : Prop := q < 8192 ∧ s.qRunning q = true ∧ s.qAhead q ≠ 0 ∧ s.qAhead q ≤ 2 ^ s.qLog q ∧ (s.vf (s.hwN (qBlock q + 9) 1 % 64)).resetting = false
set_option maxRecDepth 4000 in
theorem witness_LaunchEvents :
    let s := ringing record1 0x60000 0 1
    let u := ringing (image 256 []) 0x60000 0xFFFFFFFF 0
    let x := ringing record1 0x3000000000 0 16
    let y := { s with vfs := [(0, { resetting := true })] }
    let a := s.hwN (qBlock 0) 8 + 256 * (s.qHead 0 % 2 ^ s.qLog 0)
    ready s 0 ∧ isLocal a = true ∧ readBytes s.mem a 256 = record1 ∧ s.recordError 0 record1 = 0 ∧ ready u 0 ∧ isLocal (u.hwN (qBlock 0) 8 + 256 * (u.qHead 0 % 2 ^ u.qLog 0)) = true ∧ u.recordError 0 (image 256 []) ≠ 0 ∧ ready x 0 ∧ isLocal (x.hwN (qBlock 0) 8) = false ∧ isTier2 (x.hwN (qBlock 0) 8) = false ∧ (y.vf 0).resetting = true
    ∧ s.qRunning 0 = true ∧ 2 ^ s.qLog 0 < (17 % 2 ^ 32 + 2 ^ 32 - s.qHead 0) % 2 ^ 32 ∧ (16 % 2 ^ 32 + 2 ^ 32 - s.qHead 0) % 2 ^ 32 ≤ 2 ^ s.qLog 0 := by
  and_intros <;> first | decide | rfl
theorem witness_LaunchEvents_placement :
    let k : Task := { task0 with budget := 24, uidx := 1 }
    let l : Launch := { launch1 with kind := 0, stages := [{ entry := 0x1000, budget := 2, w := 2 }] }
    let s := { run0 with pend := [k], launches := [(1, some l)] }
    (s.vf 0).resetting = false ∧ s.waiting 0 = [.task k] ∧ s.launch k.launch = some l ∧ l.whole = true ∧ { l with placed := true }.placed = true ∧ { l with whole := false }.whole = false ∧ s.ctlReady l = true
    ∧ { s with launches := [(1, some { l with whole := false })] }.chooseCore 0 1 0 0 2 24 0 0 false none = some (0, ⟨1, [16, 32], 0⟩) ∧ ([16, 32] : List Nat).Nodup := by
  and_intros <;> first | decide | rfl

def asker : Endpoint := ⟨true, 4⟩
/-- A requester that has come to the end of the negotiation. -/
theorem witness_AttestationAndPower :
    let s := { State.reset with spdm := [⟨asker, true, true, some (true, true)⟩] }
    let u := { s with power := false }
    let x := { s with cores := [(0, { core0 with temp := 115 })] }
    let y := { s with cores := [(0, { core0 with temp := 114 })] }
    s.power = true ∧ s.spdmOf asker = ⟨asker, true, true, some (true, true)⟩ ∧ (s.mlog.filter fun b => b.1 == 4 || 4 == 255) ≠ [] ∧ (s.mlog.filter fun b => b.1 == 9 || 9 == 255) = [] ∧ u.power = false ∧ 115 ≤ (x.core 0).temp ∧ (y.core 0).temp < 115 := by
  and_intros <;> first | decide | rfl | (intro h; cases h)

theorem witness_HeatAndPower :
    let V2 : Vault := { mult := 2, hot2 := 0, hot4 := 0 }
    let s := { run0 with vaults := [(0, V2), (1, { mult := 1 })], cycle := 1400000 }
    let x := s.modCore 0 fun c => { c with temp := 90 }
    let m := (withWave fun w => { w with st := .waiting, stopped := true }).modCore 0 fun c => { c with migTo := some 5 }
    let e := { m with units := [], waves := [] }
    let p := m.stopForMove 0
    let r := { unit0 with moving := true }
    (192 : Nat) = 191 + 1 ∧ s.vault 0 = V2 ∧ s.vaultT 0 ≤ 83 ∧ V2.hot4 + 1400000 ≤ s.cycle ∧ (s.vault 1).mult = 1 ∧ 83 < x.vaultT 0 ∧ x.vaultT 0 ≤ 93 ∧ { s with cycle := 1399999 }.cycle < V2.hot2 + 1400000 ∧ (run0.core 0).migTo = none ∧ (m.core 0).hotWait = false ∧ (m.core 0).migTo = some 5 ∧ e.coreUnits 0 = []
    ∧ m.coreUnits 0 = [(0, unit0)] ∧ p.coreUnits 0 = [(0, r)] ∧ p.unit 0 = some r ∧ p.cancelled 1 = false ∧ p.stoppedUnit 0 r = true ∧ p.routeOpen (p.straight 5 (0, r)) = true ∧ m.logical 0 ≠ m.logical 5 ∧ p.liveSlots 0 r = [0] := by
  and_intros <;> first | decide | rfl
/-- The end of a unit has raised the request of a hot core, which finds no target. -/
theorem witness_HeatAndPower_waits :
    let s := run0.modCore 0 fun c => { c with hotWait := true, migReq := true }
    let late := s.setCore 0 { s.core 0 with hotWait := false }
    (s.core 0).hotWait = true ∧ (s.core 0).migReq = true ∧ (s.core 0).migTo = none ∧ late.chooseTarget 0 = none ∧ (run0.core 0).migReq = false := by
  and_intros <;> first | decide +kernel | rfl
/-- A pipeline of two stages on three cores of which the second's queue fills; one whose stages are level. -/
def pipeline (n : Nat) : Launch :=
  { kind := 1, whole := true, persist := true, placed := true, cnt := { count := 3 }, stages := [{ mincores := 1 }, { mincores := 1 }], queues := [{ log2cap := 3, producer := 0, consumer := 1, samples := [n, n] }], cores := [(0, 0), (1, 0), (2, 1)], next := [1, 1] }
theorem witness_DroverMoves :
    let s := { run0 with launches := [(1, some (pipeline 8))], cycle := 140000, units := [], cores := [(0, core0), (1, core0), (2, core0)] }
    let u := { s with launches := [(1, some (pipeline 0))] }
    let y := { s with cycle := 4199 }
    s.launch 1 = some (pipeline 8) ∧ (pipeline 8).kind = 1 ∧ (pipeline 8).placed = true ∧ (pipeline 8).cnt.done = false ∧ 0 + 1400 * (2 + 1) ≤ s.cycle ∧ y.cycle < 0 + 1400 * (2 + 1) ∧ (pipeline 8).move = none ∧ y.cycle < 0 + 1400 * (pipeline 8).drover ∧ 0 + 1400 * (pipeline 8).drover ≤ s.cycle
    ∧ u.launch 1 = some (pipeline 0) ∧ (pipeline 0).pickMove = none ∧ (pipeline 8).pickMove = some (1, 0) ∧ s.pickDonor (pipeline 8) 0 = some 1 ∧ (s.core (s.phys 1)).migTo = none ∧ s.coreUnits (s.phys 1) = [] ∧ launch1.kind = 1 ∧ launch1.placed = false := by
  and_intros <;> first | decide | rfl
theorem witness_PowerModes_lending :
    let s := { run0 with hw := [(0x1003, 0x80)], waves := [(64, { wave0 with unit := 16 })], units := [], cores := [(0, core0), (1, { vf := some 0 }), (2, { vf := some 0 })], cycle := 14000 }
    let u := s.modCore 0 fun c => { c with lendTo := some 1, throttled := true }
    let x := { run0 with cores := [(0, { core0 with lendTo := some 1 })], cycle := 1 }
    (s.core 0).vf = some 0 ∧ (s.hwN 0x1000 4).testBit 31 = true ∧ (s.core 0).lendTo = none ∧ (s.core 0).throttled = false ∧ s.readyOn 0 = 0 ∧ (s.core 0).idleSince + 14000 ≤ s.cycle ∧ (s.vfCores 0).filter (fun k => k != 0 && dieOfCore k == dieOfCore 0 && !(s.core k).throttled && s.readyOn k != 0) = [1]
    ∧ (run0.hwN 0x1000 4).testBit 31 = false ∧ (x.core 0).lendTo = some 1 ∧ x.readyOn 0 ≠ 0 ∧ { x with waves := [] }.readyOn 0 = 0 ∧ (x.core 0).throttled = false ∧ (x.core 1).throttled = false ∧ (x.core 0).vf = some 0 ∧ (u.core 0).vf = some 0 ∧ (u.quarter 0 3).refill < u.cycle ∧ (u.core 0).throttled = true ∧ (u.core 0).cmds = [] ∧ (u.core 7).vf = none := by
  and_intros <;> first | decide | rfl
/-- 349 busy cycles of the last 1,400 and 701; a change that is under way. -/
theorem witness_PowerModes :
    let z := fun (nt : Bool) (n : Nat) => { (run0.modCore 0 fun c => { c with quarters := [(0, { nt := nt, hist := [(n, false), (0, true)] })] }) with cycle := 1400 }
    let w := { (run0.modCore 0 fun c => { c with quarters := [(0, { nt := true, ntUntil := 700 })] }) with cycle := 699 }
    (z false 349).busyIn 0 0 = 349 ∧ ((z false 349).quarter 0 0).nt = false ∧ ((z false 349).quarter 0 0).ntUntil ≤ 1400 ∧ (z true 701).busyIn 0 0 = 701 ∧ ((z true 701).quarter 0 0).nt = true ∧ (z true 350).busyIn 0 0 = 350 ∧ w.cycle < (w.quarter 0 0).ntUntil := by
  and_intros <;> decide

/-! ### Events of Graze, errors, registers and the fabric -/

/-- The words of an instruction. -/
def wordsOf (i : Instr) : List W32 := (List.range (i.length / 4)).map fun k => BitVec.ofNat 32 (fld (encode i) (4 * k) 4)
def bytesAt (m : List Host.Cell) (a : Nat) (bs : List Byte) : List Host.Cell := (bs.zipIdx).foldl (fun m x => writeN m (a + x.2) x.1.toNat 1) m
/-- v4 becomes v1 + v2 between two markers at 0x1000 and 0x1010; the page is mapped. -/
def body1 : Instr := .add .w32 g0 (.v 4) (v 1) (v 2)
def grazing (f : VFn) : State :=
  { run0 with vfs := [(0, { f with root := 0x50000 })], mem := bytesAt (stores [(0x50000, 0x51001, 8), (0x51000, 0x52001, 8), (0x52000, 0x53001, 8), (0x53000, 0x54001, 8), (0x54008, 0x41000 + leafBits 0 7 0 0 false, 8)]) 0x41000 (encode (.region 240 0) ++ encode body1 ++ encode (.region 240 0)) }
def info1 : RInfo := { code := [(0, body1)], close := 0x1010, vlive := 240, olive := 0, vin := [1, 2], sin := none, pin := [], vout := [4], pout := [], ints := [(1, { width := 32, signed := false }), (2, { width := 32, signed := false })], ok := true }
def target1 (n : Nat) (y : W32) : GTarget := { pc := 0x1000, fmode := 0, nmode := 0, ev := some 0, samples := List.replicate n ({ v := [2, 3] }, { v := [y] }) }
def fold1 (st : GState) : Fold := { seq := 7, pc := 0x1000, fmode := 0, nmode := 0, code := wordsOf body1, ev := 0, st := st }
set_option maxRecDepth 20000 in
theorem witness_GrazeEvents_candidates :
    let s := grazing { graze := { targets := [target1 512 5], next := 7 } }
    let u := grazing { graze := { targets := [target1 512 5], paddock := [⟨7, (0x1000, 0, 0), 0, wordsOf body1⟩] } }
    let code : Code := [(0, body1)]
    let T := target1 512 5
    let W := target1 512 6
    s.region 0 240 0x1000 = some info1 ∧ decodeCode 240 64 0 (wordsOf body1) = some code ∧ candidateOk 240 info1 code = true ∧ T.ev = some 0 ∧ (s.vf 0).graze.targets[0]? = some T ∧ (u.vf 0).graze.paddock[0]? = some ⟨7, (0x1000, 0, 0), 0, wordsOf body1⟩ ∧ u.region 0 240 0x1000 = some info1 ∧ T.samples.length = 512 ∧ (target1 511 5).samples.length = 511
    ∧ T.key = (0x1000, 0, 0) ∧ (u.vf 0).graze.targets.find? (fun t => t.key == (0x1000, 0, 0)) = some T ∧ (u.vf 0).graze.targets.find? (fun t => t.key == (0x1010, 0, 0)) = none ∧ (u.vf 0).graze.folds = []
    ∧ (∀ x ∈ T.samples, runLane info1 T.bud T.fmode T.nmode code x.1 = some x.2) ∧ (∃ x ∈ W.samples, runLane info1 W.bud W.fmode W.nmode code x.1 ≠ some x.2) := by
  have ht : runLane info1 240 0 0 [(0, body1)] { v := [2, 3] } = some { v := [5] } := by decide
  refine ⟨by decide +kernel, by decide, by decide, rfl, rfl, rfl, by decide +kernel, List.length_replicate, List.length_replicate, rfl, by decide +kernel, by decide +kernel, rfl, ?_, ?_⟩
  · intro x hx
    rw [List.eq_of_mem_replicate hx]
    exact ht
  · refine ⟨({ v := [2, 3] }, { v := [6] }), List.mem_replicate.mpr ⟨by decide, rfl⟩, ?_⟩
    rw [show (target1 512 6).bud = 240 from rfl, show (target1 512 6).fmode = 0 from rfl, show (target1 512 6).nmode = 0 from rfl, ht]
    decide
/-- v4 written where v1 < v2 under a guard and behind an if (R372), and an if whose offset does not name its endif (R154, R367). -/
def less (p : Nat) : Instr := .cmp .w32 true .lt g0 p (v 1) (v 2)
def add4 (p : Nat) (neg : Bool) : Instr := .add .w32 ⟨p, neg⟩ (.v 4) (v 1) (v 2)
def guarded (p : Nat) (neg : Bool) : Code := [(0, less p), (8, add4 p neg)]
def branched (n : Nat) : Code := [(0, less 1), (8, .ifP false 1 n), (16, add4 0 false), (24, .endif)]
theorem test_candidate_paths : writesWith (guarded 1 false) (branched 4) [4] = true ∧ writesWith (guarded 1 false) (guarded 2 true) [4] = false ∧ jumpsIn [] (branched 4) = true ∧ jumpsIn [] (branched 6) = false := by decide
/-- A comparison of the wave that has ended, with lane 0 as the original left it. -/
def hurdled (st : GState) (y : W32) : State :=
  { grazing { graze := { folds := [fold1 st] } } with hw := [(0x100000B, 1)], hurdles := [{ core := 0, quarter := 0, ident := 0, fold := 7, launch := 1, stage := 0, uidx := 0, entry := { v := [(key 1 0, 2), (key 2 0, 3)] }, mask := 1, result := { v := [(key 4 0, y)] }, closed := some 0, spot := false }] }
set_option maxRecDepth 8000 in
theorem witness_GrazeEvents_comparisons :
    let s := hurdled .guarded 5
    let u := hurdled .promoted 6
    let h := s.hurdles.headD default
    let rs := ((fold1 .guarded).run 240 h.entry h.mask pureFuel).getD {}
    h.closed = some 0 ∧ s.shut 0 0 = false ∧ s.fold 0 7 = some (fold1 .guarded) ∧ s.region 0 240 0x1000 = some info1 ∧ ((fold1 .guarded).run 240 h.entry h.mask pureFuel).isSome = true ∧ (mismatch info1 h.entry h.result rs h.mask).isNone = true ∧ h.level ≤ 1 ∧ 2 ≤ { h with level := 3 }.level ∧ { s with cores := [(0, { core0 with throttled := true })] }.shut 0 0 = true ∧ (fold1 .guarded).agree + 1 < 4096 ∧ u.fold 0 7 = some (fold1 .promoted)
    ∧ (mismatch info1 h.entry (u.hurdles.headD default).result rs h.mask).isSome = true ∧ { s with cycle := 4096 }.cycle ≤ 0 + 4096 ∧ 0 + 4096 < { s with cycle := 4097 }.cycle ∧ s.cycle ≤ 0 + 4096 := by
  and_intros <;> first | decide +kernel | rfl
theorem witness_GrazeEvents_records :
    let f := fold1 .culled
    let s := { grazing { graze := { folds := [f] } } with hw := stores [(0x1000009, 4, 1), (0x1000010, 0x1800, 8), (0x1000020, 15, 8)] }
    let u := { grazing { graze := { folds := [f], held := [[1]] } } with hw := s.hw }
    s.fold 0 7 = some f ∧ f.st = .culled ∧ f.posted = false ∧ s.hwN 0x1000009 1 = 4 ∧ s.hwN 0x1000010 8 = 0x1800 ∧ (s.vf 0).graze.held = [] ∧ s.hwN 0x1000020 8 - s.hwN 0x1000028 8 < 2 ^ 4 ∧ (s.ringPut 0 (0x1800 + 128 * (15 % 2 ^ 4)) []).isSome = true ∧ s.hwN 0x1000020 8 < (16 : W64).toNat ∧ (0 : W64).toNat ≤ s.hwN 0x1000020 8
    ∧ s.hwN 0x1000020 8 - (0 : W64).toNat ≤ 2 ^ 4 ∧ (u.vf 0).graze.held = [[1]] ∧ u.hwN 0x1000020 8 - (0 : W64).toNat < 2 ^ 4 ∧ (u.ringPut 0 (0x1800 + 128 * (15 % 2 ^ 4)) [1]).isSome = true := by
  and_intros <;> first | decide +kernel | rfl

/-- A die with a corrected error of 24 hours ago and one a second younger. -/
def erring : State := { run0 with cycle := 24 * 3600 * 1400000000, dies := [(0, { errs := [⟨1, 2, 3, 4, 0, 1⟩, ⟨1, 2, 5, 4, 1400000000, 1⟩], repairs := [(1, 2, 1, 9, 4)] })] }
theorem witness_ErrorsAndResets :
    let s := erring
    let u := { run0 with hw := stores [(0x1200, 0x70000, 8), (0x1208, 6, 1)] }
    let x := { run0 with hw := stores [(0x1200, 0x3000000000, 8), (0x1208, 16, 1)] }
    let hit := fun (isRow : Bool) (n : Nat) (x : Nat × Nat × Nat × Nat × Nat) => x.1 == 1 && x.2.1 == 2 && (x.2.2.1 == 1) == isRow && (if isRow then x.2.2.2.1 else x.2.2.2.2) == n
    (run0.wave 0).st ≠ .empty ∧ isCtl 0 = false ∧ run0.unit (run0.wave 0).unit = some unit0 ∧ (run0.wave 1).st = .empty ∧ isTier2 0x100000000000 = true ∧ isLocal 0x42000 = true ∧ run0.hwN 0x1200 8 = 0 ∧ u.hwN 0x1200 8 ≠ 0 ∧ u.hwN 0x1208 1 = 6 ∧ isLocal (u.hwN 0x1200 8) = true ∧ x.hwN 0x1208 1 = 16 ∧ isLocal (x.hwN 0x1200 8) = false ∧ isTier2 (x.hwN 0x1200 8) = false
    ∧ (s.die 0).errs[0]? = some ⟨1, 2, 3, 4, 0, 1⟩ ∧ 0 + 24 * 3600 * 1400000000 ≤ s.cycle ∧ (s.die 0).errs[1]? = some ⟨1, 2, 5, 4, 1400000000, 1⟩ ∧ s.cycle < 1400000000 + 24 * 3600 * 1400000000 ∧ (s.die 0).repairs.find? (hit false 4) = none ∧ (s.die 0).repairs.find? (hit true 9) = some (1, 2, 1, 9, 4) := by
  and_intros <;> first | decide | rfl
/-- A latch that holds v5, a line of the unit's buffer, a kept copy of a line of a window, an entry of a queue. -/
theorem witness_ErrorsAndResets_copies :
    let s := withWave fun w => { w with latA := some ⟨5, []⟩ }
    let u := withUnit fun r => { r with sb := [⟨.mem, 0x42000, [(4, some 7)], 0, false, 0x2000⟩] }
    let x := { run0 with dies := [(0, { fcache := [(5, some [1])] })] }
    (s.wave 0).st ≠ .empty ∧ (s.wave 0).latA = some ⟨5, []⟩ ∧ (u.unit 0).map (·.sb.length) = some 1 ∧ (mget none (x.die 0).fcache 5).isSome = true ∧ ((queued 3).launch 1).map (·.queues[0]?) = some (some (theQueue 3)) := by
  and_intros <;> first | decide | rfl
/-- No threshold is reached; the rule of a row, of a column and of a cell is; the bank's. -/
theorem witness_ErrorsAndResets_thresholds :
    let s := erring
    let old := (s.die 0).errs.filter (fun x => s.cycle < x.last + 24 * 3600 * 1400000000)
    let two := fun (a b c d : Nat) => ([⟨1, 2, a, b, s.cycle, 1⟩, ⟨1, 2, c, d, s.cycle, 1⟩] : List ErrEntry)
    let adds := fun (es : List ErrEntry) (a b : Nat) => reached es (addErr es 1 2 a b s.cycle) 1 2 a b
    old = [⟨1, 2, 5, 4, 1400000000, 1⟩] ∧ (¬∃ x ∈ old, x.vault = 15 ∧ x.bank = 2 ∧ x.row = 3 ∧ x.col = 4) ∧ old.length < 64 ∧ reached old (addErr old 15 2 3 4 s.cycle) 15 2 3 4 = [] ∧ (∃ x ∈ old, x.vault = 1 ∧ x.bank = 2 ∧ x.row = 5 ∧ x.col = 4)
    ∧ adds old 5 4 = [0] ∧ adds (two 3 1 3 2) 3 7 = [1] ∧ adds (two 1 3 2 3) 7 3 = [2] ∧ adds (two 1 1 2 2) 3 3 = [3] ∧ mget 0 (s.die 0).spares (2 * (16 * 2 + 1)) < 4 := by
  and_intros <;> first | decide | rfl
/-- A resident unit's slot whose wave has exited; an empty slot of no unit; a parked identity of a unit that is saved, and of one that is being restored; a control core that runs; the last line of a ring; ring bases that no range of R15 holds. -/
theorem witness_ErrorsAndResets_control :
    let r := { unit0 with slots := [0, 16], gone := [1] }
    let s := { run0 with units := [(0, some r)], launches := [(1, some launch1)], waves := [(0, wave0), (ctlId 0, { wave0 with ctl := true })] }
    let x : SavedUnit := { unit := unit0, waves := [wave0], parked := [12480], accTaint := [], core := 0 }
    let u := { s with saved := [x] }
    let y := { s with saved := [{ x with back := some 0 }] }
    isCtl 16 = false ∧ (s.wave 16).st = .empty ∧ s.holderOf 16 = some 0 ∧ s.unit 0 = some r ∧ s.holderOf 32 = none ∧ isCtl (ctlId 0) = true ∧ ctlId 0 < 12480 ∧ (s.wave (ctlId 0)).st ≠ .empty ∧ (s.wave (ctlId 1)).st = .empty
    ∧ (12480 : Nat) ≤ 12480 ∧ u.saved.find? (fun z => z.parked.contains 12480) = some x ∧ x.back = none ∧ y.saved.find? (fun z => z.parked.contains 12480) = some { x with back := some 0 }
    ∧ isHole 0x3000000000 = true ∧ (s.core 0).vf = some 0 ∧ (0 : BitVec 128).toNat.testBit 31 = false := by
  and_intros <;> first | decide | rfl
def bell0 : Bell := { ident := 0, pc := 0x1000, seq := 5, var := false, levels := [0], lid := 1, hold := false }
/-- Function 63, present; in the middle of a reset; a bellwether; a core that the hypervisor does not hold. -/
theorem witness_ErrorsAndResets_functions :
    let s := { State.reset with hw := [(64 * 63 + 9, 1)] }
    let u := { s with vfs := [(63, { resetting := true })] }
    let b := { run0 with cores := [(0, { core0 with quarters := [(3, { bell := some bell0 })] })] }
    s.hwN (64 * 63 + 9) 1 = 1 ∧ State.reset.hwN (64 * 63 + 9) 1 ≠ 1 ∧ (s.vf 63).resetting = false ∧ (u.vf 63).resetting = true ∧ u.reqs = [] ∧ u.changes = [] ∧ (b.core 0).vf = some 0 ∧ (b.quarter 0 3).bell = some bell0 ∧ b.bellDone bell0 = true ∧ { (b.modWave 0 fun w => { w with loads := [⟨5, 4, 4, false, false, [], [], 0, false, 0, false, false⟩] }) with claims := [] }.bellDone { bell0 with ops := [5] } = false ∧ b.hwN (64 * 0 + 0x18) 8 = 0 ∧ (b.quarter 0 2).bell = none ∧ (b.core 0).lent = false
    ∧ ({ core0 with lent := true } : Core).lent = true := by
  and_intros <;> first | decide | rfl

theorem witness_RegisterWrites :
    let s := { State.reset with hw := stores [(0x1408, 1, 1), (0x2000 + 16 * 2047, 1, 16)], vfs := [(0, { resvs := [{ resv1 with kind := 2, window := 2047 }] })], cores := [(0, core0)] }
    let u := withWave fun w => { w with level := 1 }
    (16383 : Nat) < 16384 ∧ State.reset.bank = 0 ∧ s.bank = 1 ∧ (255 : BitVec 128).toNat % 256 ≠ 1 ∧ (257 : BitVec 128).toNat % 256 = 1 ∧ (2 : BitVec 128).toNat.testBit 1 = true ∧ (1 : BitVec 128).toNat.testBit 1 = false ∧ mget none State.reset.winOld 2047 = none ∧ (State.reset.winEntry 2047).testBit 0 = false
    ∧ (s.winEntry 2047).testBit 0 = true ∧ s.winEntry 2047 / 2 % 64 = 0 ∧ (∃ r ∈ (s.vf 0).resvs, r.kind = 2 ∧ r.window = 2047) ∧ s.vfCores 0 ≠ [] ∧ (me run0).level = 0 ∧ 1 ≤ (me u).level ∧ u.ownsCore (me u).vf (5 % 256) = false ∧ u.ownsCore (me u).vf (256 % 256) = true ∧ (u.wave (64 * u.phys 0 + 0)).st ≠ .empty ∧ (u.wave (64 * u.phys 0 + 0)).mode = .normal := by
  and_intros <;> first | decide +kernel | rfl

def peer : Endpoint := ⟨false, 9⟩
/-- Link 47 is up, with the key 7 in the last place of its active set; die 0's first line is in a page of function 0. -/
def linked : State :=
  { run0 with hw := stores [(0x1410, 2 ^ 47, 8), (0x50000 + 16 * 47 + 14, 0x8007, 2), (0x50000 + 16 * 47, 0x8001, 2)], retries := [(47, 16)], vfs := [(0, { pool := [(0x42000, 0)] })] }
def incoming (op : FabOp) (a : Nat) : FabReq := { port := 47, src := peer, pkey := 7, addr := a, op := op }
def request (use : FabUse) (write : List (Nat × Byte)) (fail : Nat) : FabOut := ⟨5, 47, 0, peer, 0, use, 0x8000000000040, 0x3040, 0x40, false, write, 0, fail, false, none⟩
def requesting (use : FabUse) (w : Wave) (fail : Nat) : State := { linked with reqs := [request use [] fail], waves := [(0, w)] }
def remote1 : PendLoad := ⟨3, 4, 4, false, false, [⟨2, .mem, 0x8000000000044, [], false, 0x3044⟩], [], 0, false, 0, false, false⟩
theorem witness_FabricEvents_in :
    let s := linked
    let u := { linked with vfs := [(0, { resident := [(0x2000, 0, 0x42000)] })] }
    let h := { linked with hw := stores [(0x50000 + 16 * 47, 0xFFFF, 2), (0x1428, 9 + 2 ^ 16, 8)] }
    let v := { linked with hw := stores [(0x50000 + 16 * 47, 0x8007, 2), (0x1000, 4, 4), (0x1004, 7, 2), (0x80000 + 64 * 8191 + 9, 0, 1)] }
    let tail : FabReq := { src := ⟨true, 4⟩, pkey := 7, port := 47, addr := 0x2FFF080010 + 64 * 8191, op := .write [1, 0, 0, 0] }
    let hv : FabReq := { src := peer, pkey := 0xFFFF, port := 47, addr := 0x2FFF000000, op := .read 8 }
    let memory := fun (a : Nat) => ¬(0x2FFF000000 ≤ a ∧ a < 0x3000000000)
    s.power = true ∧ (47 : Nat) < 48 ∧ ¬s.keyPasses 47 2 = true ∧ s.keyPasses 47 7 = true ∧ s.keyPasses 47 0x8001 = true ∧ memory 0x2FFEFFFFFF ∧ memory 0x3000000000 ∧ ¬memory 0x2FFF000000 ∧ ¬memory 0x2FFFFFFFFF
    ∧ u.memRefusal (incoming (.read 8) 0x42000) = 0 ∧ u.memRefusal (incoming (.write [1, 2]) 0x42FFE) = 0 ∧ u.memRefusal (incoming (.atomic .add .b4 1) 0x42000) = 0 ∧ { claimed .read 1 { wr := some ⟨65, 3, 0⟩ } {} with power := true }.incoming 0x42000 false = false
    ∧ s.winRefusal (incoming (.read 8) 0x2FFF000000) 0 ≠ 0 ∧ h.keyPasses 47 0xFFFF = true ∧ h.winRefusal hv 0 = 0 ∧ v.keyPasses 47 7 = true ∧ v.winRefusal tail (tail.addr - 0x2FFF000000) = 0 := by
  and_intros <;> first | decide +kernel | rfl
theorem witness_FabricEvents :
    let s := requesting .drain wave0 0
    let l := requesting (.load 3) { wave0 with loads := [remote1], ldc := 1 } 0
    let a := requesting (.atomic 3 2) { wave0 with loads := [remote1], ldc := 1 } 1
    let c := { requesting (.cmd 0 1) wave0 0 with cores := [(0, { core0 with cmds := [(1, some (copying 1))] })] }
    let late := { requesting .prefetch wave0 0 with cycle := 1400000 }
    let live := fun (s : State) => s.reqs.find? (fun z => z.id == 5 && z.fail == 0)
    live s = some (request .drain [] 0) ∧ live a = none ∧ live c = some (request (.cmd 0 1) [] 0) ∧ c.cmd 0 1 = some (copying 1) ∧ (copying 1).kind = .copy ∧ (copying 1).err = 0 ∧ live l = some (request (.load 3) [] 0) ∧ (l.wave 0).loads = [remote1] ∧ remote1.reqs.all LoadReq.remote = true ∧ (∀ y ∈ remote1.reqs, y.addr / 64 = 0x8000000000040 / 64 ∧ y.own = [])
    ∧ (l.unitOf 0).map (·.sb) = some [] ∧ { a with reqs := [request (.atomic 3 2) [] 0] }.reqs.length = 1 ∧ late.cycle = 0 + 1400000 ∧ live late = some (request .prefetch [] 0) ∧ s.cycle < 0 + 1400000 ∧ run0.reqs.find? (fun z => z.id == 5) = none
    ∧ (l.wave 0).loads.find? (fun z => z.id == 3) = some remote1 ∧ (l.wave 0).ctl = false ∧ (l.wave 0).rgn.serial = false ∧ (l.wave 0).rgn.spilled = false := by
  and_intros <;> first | decide +kernel | rfl
/-- A request for another package, whose route's one link is up with a key or without; without a route; a request to this one; transit is not. -/
theorem witness_FabricEvents_transit :
    let s := { linked with hw := stores [(0x1410, 2 ^ 47, 8), (0x50000 + 16 * 47, 0x8007, 2), (0x10000 + 8 * 9, 2 ^ 63 + 2 ^ 47, 8)] }
    let r := { incoming (.read 8) 0x42000 with dst := some peer }
    s.keyPasses r.port r.pkey.toNat = true ∧ s.isSelf peer = false ∧ linked.linksTo peer = [] ∧ s.linksTo peer = [47] ∧ (s.routeOf peer).testBit 62 = false ∧ s.keyPasses 47 8 = false ∧ s.isSelf ⟨false, 8192⟩ = true := by
  and_intros <;> first | decide +kernel | rfl
/-- A request of the wave alone; one that is held; one that stays inside the package; a prefetch to be kept. -/
theorem witness_FabricEvents_answers :
    let q := request (.atomic 3 2) [] 0
    let s := requesting (.atomic 3 2) { wave0 with loads := [remote1], ldc := 1 } 0
    let h := { s with reqs := [{ q with held := true }] }
    let here := { linked with reqs := [{ q with link := 48, use := .drain, remote := 0x42040, write := [(0, 7)] }], vfs := [(0, { resident := [(0x2000, 0, 0x42000)] })] }
    s.reqs.find? (fun z => z.id == 5 && z.fail == 0) = some q ∧ s.reqs.filter (fun z => z.id == 5) = [q] ∧ s.reqs.filter (fun z => z.id != 5) = [] ∧ (∀ z ∈ s.reqs, z.held = false) ∧ q.fail = 0 ∧ h.reqs.find? (fun z => z.id == 5) = some { q with held := true }
    ∧ (∀ z ∈ here.reqs, z.held = false ∧ z.link = 48) ∧ (here.serveReq (here.asRequest (here.reqs.headD q))).2.1 = 0 ∧ { request .prefetch [] 0 with cached := true }.cached = true ∧ (s.wave 0).loads.find? (fun z => z.id == 3) = some remote1 := by
  and_intros <;> first | decide +kernel | rfl
/-- A fabric load of a wave in serial mode. -/
theorem witness_FabricEvents_serial :
    let s := requesting (.load 3) { wave0 with loads := [remote1], ldc := 1, rgn := { wave0.rgn with serial := true } } 0
    let u := requesting (.load 3) { wave0 with loads := [{ remote1 with rg := 1 }], ldc := 1 } 0
    (s.wave 0).serial = true ∧ s.reqs.filter (fun z => z.id == 5) = [request (.load 3) [] 0] ∧ s.reqs.filter (fun z => z.id != 5) = [] ∧ isCtl 0 = false ∧ (s.unit (s.wave 0).unit).isSome = true ∧ (u.wave 0).serial = false ∧ { remote1 with rg := 1 }.rg = (u.wave 0).rgn.opened
    ∧ (u.wave 0).loads.find? (fun z => z.id == 3) = some { remote1 with rg := 1 } := by
  and_intros <;> first | decide +kernel | rfl
theorem witness_FabricEvents_links :
    let s := linked
    let u := { linked with retries := [(47, 15)], hw := stores [(0x1410, 2 ^ 47, 8), (0x1420, 9 + 2 ^ 16, 8)] }
    (s.hwN 0x1410 8).testBit 46 = false ∧ (s.hwN 0x1410 8).testBit 47 = true ∧ s.power = true ∧ u.fmNode = some peer ∧ s.reqs = [] ∧ mget 0 u.retries 47 < 16 ∧ 16 ≤ mget 0 s.retries 47 ∧ s.switching = false ∧ { s with switching := true }.switching = true := by
  and_intros <;> first | decide +kernel | rfl

/-! ### The whole machine -/

/-- The longest instruction with the highest register numbers of the budget, and the shortest one. -/
theorem witness_DecodeEncode : WellFormed 240 (.fma .f64 ⟨127, true⟩ (.v 238) ⟨.v 238, true⟩ ⟨.lit 0xFFFFFFFF, false⟩ ⟨.y 1, false⟩) = true ∧ WellFormed 12 .cnop = true := by decide
/-- A nop in the first word that the wave fetches, its turn; and no turn laid down. -/
def fetching : State := { run0 with launches := [(1, some { launch1 with placed := true })], mem := writeBytes [] 0x41000 (encode .nop), waves := [(0, { wave0 with lastIssue := 0 })] }
theorem witness_StepRunsDecoded :
    let s := { fetching with agenda := [.issue 0] }
    let w := s.wave 0
    inVariant w = false ∧ s.canIssue 0 = true ∧ isLocal 0x41000 = true ∧ decodeBytes w.budget (readBytes s.mem 0x41000 12) = (.ok .nop, 8) ∧ (∀ k, k < 8 / 4 → s.xlate (coreOf 0) w.vf w.level .fetch ((0x1000 + 4 * k) % 2 ^ 64) = .ok (0x41000 + 4 * k) (page 0x1000 0x41000)) ∧ s.agenda = .issue 0 :: [] ∧ fetching.agenda = [] ∧ fetching.power = true
    ∧ (firstEvent fetching fetching.due).isNone = true ∧ fetching.choose = some 0 := by
  and_intros <;> first | decide +kernel | rfl
/-- A step that answers a next state, from the state after reset with an instruction placed: spawn's and sdiv's among the words that it runs. -/
theorem witness_StepKeepsInvariant : Inv State.reset ∧ (match step State.reset with | .next _ => true | _ => false) = true ∧ (match step (State.reset.withFetchWord 64 (fld (encode (.sdiv true 1 (.s 2) (.s 3))) 0 8)) with | .next _ => true | _ => false) = true := by
  and_intros <;> first | decide +kernel | rfl

/-! ## One step: results that the spec prints -/

/-- A wave with EXEC m, some lanes of v registers, some scalars and p3. -/
def lanesAt (m : W32) (vs : List (Nat × List W32)) (ss : List (Nat × W64)) (p3 : List Nat) : State :=
  withWave fun w => { w with regs := { exec := m, v := vs.flatMap fun x => x.2.zipIdx.map fun y => (key x.1 y.2, y.1), s := ss, p := p3.map fun l => (key 3 l, true) } }
def v32 (t : State) (n : Nat) (xs : List (Nat × W32)) : Bool := xs.all fun x => vAt (me t) n x.1 == x.2

/-- The table under R288: div.i32, rem.i32 and sar.i32 on 5, −8, −3 and −2^31. -/
def quarters : State := lanesAt 15 [(2, [5, -8, -3, 0x80000000])] [] []
theorem test_div : ends (.div .w32 true g0 (.v 8) (v 2) (im 4)) quarters (fun t => v32 t 8 [(0, 1), (1, -2), (2, 0), (3, 0xE0000000), (4, 0)] && yAt (me t) 0 1 == 0xFFFFFFFE) = true := by decide +kernel
theorem test_rem : ends (.rem .w32 true g0 (.v 8) (v 2) (im 4)) quarters (fun t => v32 t 8 [(0, 1), (1, 0), (2, -3), (3, 0)]) = true := by decide +kernel
theorem test_sar : ends (.sar .w32 g0 (.v 8) (v 2) (im 2)) quarters (fun t => v32 t 8 [(0, 1), (1, -2), (2, 0xFFFFFFFF), (3, 0xE0000000)]) = true := by decide +kernel

/-- The table under R292. -/
def scanning : State := lanesAt 0xFF [(1, [5, 9, -2, 4, 7, 1, 3, 8])] [] [0, 2, 3, 5, 6]
theorem test_lscan : ends (.lscan .w32 true .add false ⟨3, false⟩ (.v 2) (v 1)) scanning (fun t => v32 t 2 [(0, 5), (1, 0), (2, 3), (3, 7), (4, 0), (5, 8), (6, 11), (7, 0)]) = true := by decide +kernel
theorem test_lscan_excl : ends (.lscan .w32 true .add true ⟨3, false⟩ (.v 2) (v 1)) scanning (fun t => v32 t 2 [(0, 0), (1, 0), (2, 5), (3, 3), (5, 7), (6, 8)]) = true := by decide +kernel
theorem test_lred : ends (.lred .w32 true .max ⟨3, false⟩ (.s 6) (v 1)) scanning (fun t => sAt (me t) 6 == 5) = true ∧ ends (.lred .w32 false .max ⟨3, false⟩ (.s 6) (v 1)) scanning (fun t => sAt (me t) 6 == 0xFFFFFFFE) = true := by decide +kernel

/-- R131 and R313: a store into a line that a command of core 0 writes. -/
theorem test_mmlock : ends (.sst .b4 false (.s 1) (.s 2) (.imm 4)) (run0.setCore 0 { core0 with locks := [(5, some ⟨0x42000 / 32, 0x42000 / 32, 1, 0, 0, true⟩)] }) (fun t => (t.unit 0).isNone) = true := by decide
/-- R302 and R211: 0.7 and 3,072 as T8, with saturation clear; 2,500 rounds to 2,048, code 0x01. -/
theorem test_cvt_t8 : ends (.cvt .t8 .fp32 g0 (.v 4) (v 3)) (lanesAt 7 [(3, [0x3F333333, 0x45400000, 0x451C4000])] [] []) (fun t => v32 t 4 [(0, 0x66), (1, 0x80), (2, 0x01)]) = true := by decide +kernel
/-- R206: 0xAB is −11 and 0x66 is 0.6875. -/
theorem test_unpk_t8 : ends (.unpk .fp32 .t8 g0 (.v 4) (v 3) (im 1)) (lanesAt 1 [(3, [0xAB66])] [] []) (fun t => v32 t 4 [(0, 0xC1300000)]) = true ∧ ends (.unpk .fp32 .t8 g0 (.v 4) (v 3) (im 0)) (lanesAt 1 [(3, [0xAB66])] [] []) (fun t => v32 t 4 [(0, 0x3F300000)]) = true := by decide +kernel

/-- The example under R310: the sums, and the fault that the check raises, with its mask and detail word; the unit is relaunched. -/
def summing : State := lanesAt 15 [(5, [3, 3, 4, 3]), (9, [0x10, 0x10, 0x10, 0x10])] [] []
def checking : State := { lanesAt 15 [(9, [0x13, 0x13, 0x14, 0x13]), (10, [0x13, 0x13, 0x13, 0x13])] [] [] with launches := [(1, some { launch1 with kind := 0, restart := true, whole := false })], cur := 0 }
theorem test_csum : ends (.csum .add g0 (.v 9) (v 5)) summing (fun t => v32 t 9 [(0, 0x13), (1, 0x13), (2, 0x14), (3, 0x13)]) = true := by decide +kernel
theorem test_chk : (match effChk .eq g0 (v 9) (v 10) (me checking) with | .error t => t == { cause := 0x0B, lanes := 4, detail := 0x0000001400000013 } | _ => false) = true := by decide +kernel
theorem test_chk_relaunches : ends (.chk .eq g0 (v 9) (v 10)) checking (fun t => (t.wave 0).st == .empty && t.pend.any (fun k => k.relaunches == 1) && ((t.core 0).evq.map fun e => (e.kind, e.status, e.data)) == [(5, 0x0B, 4)]) = true := by decide +kernel

/-- Pass 6 and pass 7 of the loop after R274: smul; the break that empties EXEC; the endloop that ends the loop. -/
def passing (s5 : W64) (p1 : Bool) (m : W32) : State :=
  withWave fun w => { w with pc := 0x1020, depth := 1, stack := [(0, ⟨.loopK, 0xFFFFFFFF, 0⟩)], regs := { exec := m, s := [(4, 2520), (5, s5)], p := if p1 then (List.range 32).map fun l => (key 1 l, true) else [] } }
theorem test_scmp : ends (.scmp true .lt 1 (.s 5) (.imm 2)) (passing 1 false 0xFFFFFFFF) (fun t => allLanes.all fun l => predBit (me t) 1 l) = true := by decide +kernel
theorem test_break : ends (.breakP false 1) (passing 1 true 0xFFFFFFFF) (fun t => (me t).regs.exec == 0 && (me t).pc == 0x1028 && (me t).depth == 1) = true := by decide +kernel
theorem test_smul : ends (.smul 4 (.s 4) (.s 5)) (passing 2 false 0) (fun t => sAt (me t) 4 == 5040) = true := by decide +kernel
theorem test_endloop : ends (.endloop 8) (passing 0 true 0) (fun t => (me t).regs.exec == 0xFFFFFFFF && (me t).depth == 0 && (me t).pc == 0x1028) = true ∧ ends (.endloop 8) (passing 2 false 1) (fun t => (me t).pc == 0x1000 && (me t).depth == 1) = true := by decide +kernel

/-- The example after R348: two rows of two images of six pixels. -/
def pixels (conv circ : Nat) : List Byte := image 128 [(0, 1, 2), (2, 1, 8), (3, 1, 2 * conv), (4, 1, circ), (8, 8, 0x2000), (0x18, 4, 4), (0x1C, 4, 8), (0x20, 8, 0xEEEEEEEEEEEEEEEE), (0x28, 4, 6), (0x2C, 4, 2), (0x40, 8, 6), (0x60, 4, 0xFFFFFFFF), (0x64, 4, 1), (0x74, 2, 4), (0x76, 2, 2)]
def copied (conv circ : Nat) : List Byte × Bool :=
  let s := { hasRead (pixels conv circ) with mem := (List.range 12).foldl (fun m k => writeN m (0x42000 + k) (16 * (k / 6) + k % 6) 1) [] }
  let pl := s.copyPlan 0 { unit0 with acc := some [0] } { s.copyCmd 7 (pixels conv circ) with parts := [⟨0x2000, 64, some 0x42000, 0, false, 0⟩] }
  (pl.writes.map (·.2), pl.bovr)
set_option maxRecDepth 4000 in
theorem test_copy : copied 1 0 = ([0xEE, 0x10, 0x11, 0x12, 0xEE, 0xEE, 0xEE, 0xEE], true) ∧ copied 0 3 = ([0x15, 0x10, 0x11, 0x12, 0x05, 0x00, 0x01, 0x02], false) := by decide +kernel
/-- Without CONV and CIRC it is rejected with ACCESS and OFFSET 0x60. -/
theorem test_copy_rejected : copyTrap unit0 7 (pixels 0 0) = some (engTrap 0x06 1 0 0x60) := by decide +kernel

/-- R3: the core's die and vault. -/
theorem test_places : ([3, 4, 5].map fun c => (dieOfCore c, vaultOf c)) = [(0, 1), (0, 1), (0, 1)] ∧ ([9, 10, 11].map fun c => (dieOfCore c, vaultOf c)) = [(0, 3), (0, 3), (0, 3)] ∧ dieOfCore 191 = 3 := by decide
/-- The table of R263. -/
theorem test_sdiv : ([(true, -7, 2, -3), (true, -7, 0, 0xFFFFFFFFFFFFFFFF), (false, 7, 0, 0xFFFFFFFFFFFFFFFF), (true, 0x8000000000000000, -1, 0x8000000000000000)] : List (Bool × W64 × W64 × W64)).all
    (fun x => ends (.sdiv x.1 4 (.s 1) (.s 3)) (lanesAt 1 [] [(1, x.2.1), (3, x.2.2.1)] []) (fun t => sAt (me t) 4 == x.2.2.2)) = true := by decide +kernel
theorem test_srem : ([(-7, 2, -1), (7, 0, 0), (0x8000000000000000, -1, 0)] : List (W64 × W64 × W64)).all
    (fun x => ends (.srem true 4 (.s 1) (.s 3)) (lanesAt 1 [] [(1, x.1), (3, x.2.1)] []) (fun t => sAt (me t) 4 == x.2.2)) = true := by decide +kernel
/-- R254: the trap saves the PC behind it, its cause, and goes to its handler. -/
theorem test_trap : ends (.trap 5) (withWave fun w => { w with tvec := 0x4001 }) (fun t => (me t).pc == 0x4000 && (me t).tepc == 0x1008 && (me t).level == 1) = true := by decide +kernel
/-- The first steps from reset with a word placed: it runs. -/
theorem test_step_runs : (match step (State.reset.withFetchWord 64 0x0000020020800240) with | .next t => sAt (t.wave 0) 4 == 1 | _ => false) = true ∧ (match step (State.reset.withFetchWord 32 0xE3000003) with | .next t => vAt (t.wave 0) 0 0 == 2 | _ => false) = true := by decide +kernel

end Sys2Proof.Tests
end

section
/-! PROOFS. The scalar instructions where no source is poisoned (R261 to R265): division, fields, and the move. -/

namespace Sys2Proof.Machine

open Sys2Proof.Safety

/-! ## Scalar sources -/

/-- A scalar source is a 64-bit value (R261), so that nothing is lost in reading it as one. -/
theorem scalarLV_val_lt (w : Wave) (field : Nat) (x : Src) : (scalarLV w field x).val < 2 ^ 64 := by
  have wrap_lt : ∀ i : Int, wrap 64 i < 2 ^ 64 := fun i => by rw [wrap_eq]; exact BitVec.isLt _
  cases x with
  | v n => simp only [scalarLV, srcLV, vLV, if_true]; bv_omega
  | o n => simp only [scalarLV, srcLV, oLV, if_true]; bv_omega
  | s n => exact BitVec.isLt _
  | y n => exact BitVec.isLt _
  | exec => exact w.regs.exec.isLt.trans (by decide)
  | imm i => exact wrap_lt i
  | lit v => exact wrap_lt _

theorem scalarLV_val (w : Wave) (field : Nat) (x : Src) : (scalarLV w field x).val = (sVal w x).toNat := by
  rw [sVal, BitVec.toNat_ofNat, Nat.mod_eq_of_lt (scalarLV_val_lt w 2 x)]
  exact srcLV_val ..

@[simp] theorem sVal_s (w : Wave) (n : Nat) : sVal w (.s n) = sAt w n := by simp [sVal, scalarLV, srcLV, sAt]

theorem scalarLV_s_poison (w : Wave) (field n : Nat) : (scalarLV w field (.s n)).poison = none ↔ sBad w n = false := markOf_none

theorem scalarsClean_append {w : Wave} {xs ys : List Src} : ScalarsClean w (xs ++ ys) ↔ ScalarsClean w xs ∧ ScalarsClean w ys := List.forall_mem_append

theorem scalarsClean_s {w : Wave} {n : Nat} : ScalarsClean w [.s n] ↔ sBad w n = false := by simp [ScalarsClean, scalarLV_s_poison]

/-! ## Completion of a scalar instruction -/

/-- A scalar instruction with clean sources completes with the function of their values in D (R245, R261). -/
theorem completes_scalarOp {s : State} {i : Instr} {d : Nat} {xs : List (Nat × Src)} {f : List Nat → Nat} {v : W64} (hx : exec i s = runEff i (scalarOp d xs f) s)
    (hc : ScalarsClean (me s) (xs.map (·.2))) (hv : f (xs.map fun x => (sVal (me s) x.2).toNat) = v.toNat) : Completes s i (ScalarGets d v) := by
  have clean : ∀ x ∈ xs, (scalarLV (me s) x.1 x.2).poison = none := fun x hm =>
    (srcLV_poison_none ..).mp (hc x.2 (List.mem_map_of_mem hm))
  obtain ⟨w₁, he, hk, hg⟩ := scalarOp_ok (d := d) (f := f) clean
  simp only [scalarLV_val, hv, BitVec.ofNat_toNat, BitVec.setWidth_eq] at hg
  exact completes_of_effect hx ⟨w₁, he, hk, fun _ => scalarGets_congr hg⟩

theorem completes_sdiv {s : State} (sg : Bool) (d : Nat) {a b : Src} (h : ScalarsClean (me s) [a, b]) :
    Completes s (.sdiv sg d a b) (ScalarGets d (quotient sg (sVal (me s) a) (sVal (me s) b))) :=
  completes_scalarOp rfl h (by simp [arg, iDiv_eq])

theorem completes_srem {s : State} (sg : Bool) (d : Nat) {a b : Src} (h : ScalarsClean (me s) [a, b]) :
    Completes s (.srem sg d a b) (ScalarGets d (remainder sg (sVal (me s) a) (sVal (me s) b))) :=
  completes_scalarOp rfl h (by simp [arg, iRem_eq])

theorem completes_sbfx {s : State} (sg : Bool) (d : Nat) {a b c : Src} (h : ScalarsClean (me s) [a, b, c]) :
    Completes s (.sbfx sg d a b c) (ScalarGets d (extractField sg (sVal (me s) a) ((sVal (me s) b).toNat % 64) ((sVal (me s) c).toNat % 128))) :=
  completes_scalarOp rfl h (by simp [arg, iBfx_eq])

/-- sbfi reads D as a fourth source (R265). -/
theorem completes_sbfi {s : State} {d : Nat} {a b c : Src} (h : ScalarsClean (me s) [a, b, c]) (hd : sBad (me s) d = false) :
    Completes s (.sbfi d a b c) (ScalarGets d (insertField (sAt (me s) d) (sVal (me s) a) ((sVal (me s) b).toNat % 64) ((sVal (me s) c).toNat % 128))) :=
  completes_scalarOp rfl (scalarsClean_append.mpr ⟨h, scalarsClean_s.mpr hd⟩) (by simp [arg, iBfi_eq, (sAt (me s) d).isLt])

theorem completes_sext {s : State} (sg : Bool) (d : Nat) {a b : Src} (h : ScalarsClean (me s) [a, b]) :
    Completes s (.sext sg d a b) (ScalarGets d (if (sVal (me s) b).toNat % 128 = 0 then 0 else if 64 ≤ (sVal (me s) b).toNat % 128 then sVal (me s) a
      else extendField sg ((sVal (me s) b).toNat % 128) (sVal (me s) a))) :=
  completes_scalarOp rfl h (by simp [arg, iExt_eq, (sVal (me s) a).isLt])

/-! ## The move (R262) -/

/-- EXEC takes bits [31:0], of which a control core has one (R174). -/
theorem execBits_scalarLV (w : Wave) (field : Nat) (x : Src) :
    execBits w (scalarLV w field x).val = if w.ctl then BitVec.ofNat 32 ((sVal w x).toNat % 2) else (sVal w x).setWidth 32 := by
  rw [scalarLV_val, execBits, BitVec.ofNat_toNat]

section
variable {w : Wave} {a : Src} (h : ScalarsClean w [a])
include h

theorem scalarTrap_of_clean : scalarTrap [scalarLV w 2 a] = none :=
  scalarTrap_none (List.forall_mem_singleton.mpr (h a List.mem_cons_self))

theorem effSmov_s_ok (d : Nat) : effSmov (.s d) a w = .ok (writeS d (scalarLV w 2 a) (fillScalars [(2, a)] w)) := by
  simp only [effSmov, scalarTrap_of_clean h]

theorem effSmov_exec_ok : effSmov .exec a w = .ok (wrExec (fillScalars [(2, a)] w) (execBits w (scalarLV w 2 a).val)) := by
  simp only [effSmov, scalarTrap_of_clean h]

end

theorem completes_smov_s {s : State} {a : Src} (h : ScalarsClean (me s) [a]) (d : Nat) : Completes s (.smov (.s d) a) (ScalarGets d (sVal (me s) a)) :=
  completes_of_effect (e := effSmov (.s d) a) rfl
    ⟨_, effSmov_s_ok h d, (sameBut_fillScalars ..).trans (sameBut_writeS ..),
      fun _ => scalarGets_congr (scalarGets_of_same (scalarGets_writeS ..) (regs_fillScalars ..) (poison_fillScalars ..))⟩

theorem completes_smov_exec {s : State} {a : Src} (h : ScalarsClean (me s) [a]) : Completes s (.smov .exec a) (fun w w' =>
    w'.regs = { w.regs with exec := if w.ctl then BitVec.ofNat 32 ((sVal (me s) a).toNat % 2) else (sVal (me s) a).setWidth 32 } ∧ w'.poison = w.poison) := by
  refine completes_of_effect (e := effSmov .exec a) rfl ⟨_, effSmov_exec_ok h, rfl, fun w' hr hp => ⟨?_, hp⟩⟩
  rw [hr, ← execBits_scalarLV (me s) 2 a]
  rfl

/-! ## Quotient and remainder (R263) -/

theorem quotient_zero {n : Nat} (sg : Bool) (a : BitVec n) : quotient sg a 0 = if sg && !a.msb then 0 else BitVec.allOnes n := if_pos rfl
theorem remainder_zero {n : Nat} (sg : Bool) (a : BitVec n) : remainder sg a 0 = if sg && !a.msb then 0 else BitVec.allOnes n := if_pos rfl

section
variable {n : Nat} (a : BitVec n) {b : BitVec n} (hb : b ≠ 0)
include hb

theorem quotient_of_ne_zero (sg : Bool) : quotient sg a b = if sg then BitVec.ofInt n (a.toInt.tdiv b.toInt) else BitVec.ofNat n (a.toNat / b.toNat) := if_neg hb
theorem remainder_of_ne_zero (sg : Bool) : remainder sg a b = if sg then BitVec.ofInt n (a.toInt.tmod b.toInt) else BitVec.ofNat n (a.toNat % b.toNat) := if_neg hb

theorem quotient_unsigned : quotient false a b = a / b := by
  rw [quotient_of_ne_zero a hb, ← BitVec.setWidth_eq (a / b), ← BitVec.ofNat_toNat, BitVec.toNat_udiv]
  rfl

theorem remainder_unsigned : remainder false a b = a % b := by
  rw [remainder_of_ne_zero a hb, ← BitVec.setWidth_eq (a % b), ← BitVec.ofNat_toNat, BitVec.toNat_umod]
  rfl

theorem quotient_signed : quotient true a b = a.sdiv b := by
  apply BitVec.eq_of_toInt_eq
  rw [quotient_of_ne_zero a hb, BitVec.toInt_sdiv]
  exact BitVec.toInt_ofInt ..

theorem remainder_signed : remainder true a b = a.srem b := by
  rw [remainder_of_ne_zero a hb, ← BitVec.ofInt_toInt (x := a.srem b), BitVec.toInt_srem]
  rfl

/-- a = b · q + r on the integers that are read, hence modulo 2^n, where −2^(n−1) by −1 wraps (R263). -/
theorem mul_quotient_add_remainder (sg : Bool) : a = b * quotient sg a b + remainder sg a b := by
  rw [quotient_of_ne_zero a hb, remainder_of_ne_zero a hb]
  cases sg with
  | false =>
    apply BitVec.eq_of_toNat_eq
    simp [BitVec.toNat_add, BitVec.toNat_mul, Nat.div_add_mod]
  | true =>
    calc a = BitVec.ofInt n (b.toInt * a.toInt.tdiv b.toInt + a.toInt.tmod b.toInt) := by rw [Int.mul_tdiv_add_tmod, BitVec.ofInt_toInt]
      _ = b * BitVec.ofInt n (a.toInt.tdiv b.toInt) + BitVec.ofInt n (a.toInt.tmod b.toInt) := by rw [BitVec.ofInt_add, BitVec.ofInt_mul, BitVec.ofInt_toInt]

end

/-- For −2^63 it is the second defined case of R263: the quotient wraps, the remainder does not. -/
theorem remainder_allOnes (a : W64) : remainder true a (BitVec.allOnes 64) = 0 := by
  rw [remainder_signed a (by decide)]
  apply BitVec.eq_of_toInt_eq
  rw [BitVec.toInt_srem, show (BitVec.allOnes 64).toInt = -1 by decide]
  simp

/-! ## The statements -/

/-- Settles O2: sdiv and srem give the quotient and the remainder, which are the division of bit vectors where the divisor is not zero. -/
theorem scalarDivision : Obligations.ScalarDivision := by
  intro s sg d a b h A B
  refine ⟨quotient sg A B, remainder sg A B, completes_sdiv sg d h, completes_srem sg d h, ?zeroUnsigned, ?zeroSigned, ?overflow, ?unsigned, ?signed,
    fun hb => mul_quotient_add_remainder A hb sg⟩
  case zeroUnsigned =>
    rintro hb rfl
    rw [hb, quotient_zero, remainder_zero]
    exact ⟨rfl, rfl⟩
  case zeroSigned =>
    rintro hb rfl
    rw [hb, quotient_zero, remainder_zero]
    cases A.msb <;> exact ⟨rfl, rfl⟩
  case overflow =>
    rintro rfl hA hB
    rw [hA, hB, quotient_signed _ (by decide), ← BitVec.neg_one_eq_allOnes]
    exact ⟨BitVec.intMin_sdiv_neg_one, remainder_allOnes _⟩
  case unsigned =>
    rintro hb rfl
    rw [quotient_unsigned A hb, remainder_unsigned A hb]
    exact ⟨BitVec.toNat_udiv, BitVec.toNat_umod⟩
  case signed =>
    rintro hb rfl inRange
    rw [quotient_signed A hb, remainder_signed A hb]
    rw [not_and_or, ← BitVec.neg_one_eq_allOnes] at inRange
    exact ⟨BitVec.toInt_sdiv_of_ne_or_ne A B inRange, BitVec.toInt_srem A B⟩

/-- Settles O4: each instruction completes with its function of the source values, sbfi with D among the sources. -/
theorem scalarFieldsAndMove : Obligations.ScalarFieldsAndMove := by
  intro s sg d a b c h A P W
  obtain ⟨hab, -⟩ := scalarsClean_append (xs := [a, b]).mp h
  obtain ⟨ha, -⟩ := scalarsClean_append (xs := [a]).mp h
  exact ⟨completes_sbfx sg d h, completes_sbfi h, completes_sext sg d hab, completes_smov_s ha d, completes_smov_exec ha⟩

end Sys2Proof.Machine
end

section
/-! PROOFS. The moves between lanes (R289, R290): shfl and bcast are one gather, with a source lane per lane that has no EXEC bit in it. -/

namespace Sys2Proof.Machine

open Sys2Proof.Safety

/-! ## Completion of a result-producing instruction -/

/-- A result-producing instruction that consumes no poison completes with its result in the lanes in Active (R58, R277). -/
theorem completes_vecOp {s : State} {i : Instr} {g : Guard} {wide : Bool} {d : Dst} {a b c : Option Opn} {f : Wave → Nat → LV} {r : Nat → Nat}
    (hx : exec i s = runEff i (vecOp g wide d a b c f) s) (hd : isVO d = true) (hg : GuardClean (me s) g)
    (clean : ∀ l ∈ active (me s) g, (f (me s) l).poison = none) (hv : ∀ l, (f (me s) l).val = r l) :
    Completes s i (LanesGet wide d (active (me s) g) r) := by
  obtain ⟨w₁, he, hk, hl⟩ := vecOp_ok (a := a) (b := b) (c := c) (wide := wide) hd hg clean
  rw [funext hv] at hl
  exact completes_of_effect hx ⟨w₁, he, hk, fun _ => lanesGet_congr hl⟩

/-! ## The gather -/

/-- What lane l takes where A is read in the lane that p names from l and the value of B in l: both are consumed. -/
def gather (A B : Opn) (p : Nat → Nat → Nat) (w : Wave) (l : Nat) : LV :=
  let n := B.at w 3 l
  let x := A.at w 2 (p l n.val)
  LV.mix x.val x n

theorem effShfl_eq (t : ITy) (m : ShflMode) (g : Guard) (d : Dst) (a b : HSrc) :
    effShfl t m g d a b = vecOp g t.wide d (some (opI t a)) (some ⟨.i32, false, b.src⟩) none (gather (opI t a) ⟨.i32, false, b.src⟩ (shflSrc m)) := rfl

theorem effBcast_eq (t : ITy) (g : Guard) (d : Dst) (a : HSrc) (n : Src) :
    effBcast t g d a n = vecOp g t.wide d (some (opI t a)) (some ⟨.i32, false, n⟩) none (gather (opI t a) ⟨.i32, false, n⟩ fun _ k => k % 32) := rfl

theorem gather_val (A B : Opn) (p : Nat → Nat → Nat) (w : Wave) (l : Nat) : (gather A B p w l).val = laneVal w A (p l (laneVal w B l)) := by
  simp only [gather, LV.mix, laneVal, B.at_val w 3 l]

theorem gather_poison_none {A B : Opn} {p : Nat → Nat → Nat} {w : Wave} {l : Nat} (hA : (A.at w 2 (p l (laneVal w B l))).poison = none)
    (hB : (B.at w 2 l).poison = none) : (gather A B p w l).poison = none := by
  rw [laneVal, ← B.at_val w 3 l] at hA
  exact LV.mix_none hA (Opn.at_none 3 hB)

/-- Of B only the lanes in Active need be clean, of A only the source lanes of these, in Active or not. -/
theorem completes_gather {s : State} {i : Instr} {g : Guard} {wide : Bool} {d : Dst} {A B : Opn} (p : Nat → Nat → Nat)
    (hx : exec i s = runEff i (vecOp g wide d (some A) (some B) none (gather A B p)) s) (hd : isVO d = true) (hB : LanesClean (me s) g [B])
    (hA : ∀ l ∈ active (me s) g, (A.at (me s) 2 (p l (laneVal (me s) B l))).poison = none) :
    Completes s i (LanesGet wide d (active (me s) g) fun l => laneVal (me s) A (p l (laneVal (me s) B l))) := by
  obtain ⟨hg, hB⟩ := hB
  exact completes_vecOp hx hd hg (fun l hl => gather_poison_none (hA l hl) (hB l hl B List.mem_cons_self)) (gather_val A B p (me s))

/-! ## The source lane of shfl (R289) -/

theorem shflSrc_up (l k : Nat) : shflSrc .up l k = if l < k then l else l - k := by
  simp only [shflSrc, ← Nat.not_lt, ite_not]

theorem shflSrc_down (l k : Nat) : shflSrc .down l k = if 31 < l + k then l else l + k := by
  simp only [shflSrc, ← Nat.not_lt, ite_not]

/-! ## The instructions -/

theorem completes_shfl {s : State} (t : ITy) (m : ShflMode) {g : Guard} {d : Dst} (a : HSrc) {b : HSrc} (hd : isVO d = true)
    (hB : LanesClean (me s) g [⟨.i32, false, b.src⟩])
    (hA : ∀ l ∈ active (me s) g, ((opI t a).at (me s) 2 (shflSrc m l (laneVal (me s) ⟨.i32, false, b.src⟩ l))).poison = none) :
    Completes s (.shfl t m g d a b) (LanesGet t.wide d (active (me s) g) fun l => laneVal (me s) (opI t a) (shflSrc m l (laneVal (me s) ⟨.i32, false, b.src⟩ l))) := by
  have hx : exec (.shfl t m g d a b) s = runEff (.shfl t m g d a b) (effShfl t m g d a b) s := rfl
  rw [effShfl_eq] at hx
  exact completes_gather (shflSrc m) hx hd hB hA

theorem completes_bcast {s : State} (t : ITy) {g : Guard} {d : Dst} (a : HSrc) {n : Src} (hd : isVO d = true)
    (hB : LanesClean (me s) g [⟨.i32, false, n⟩])
    (hA : ∀ l ∈ active (me s) g, ((opI t a).at (me s) 2 (laneVal (me s) ⟨.i32, false, n⟩ l % 32)).poison = none) :
    Completes s (.bcast t g d a n) (LanesGet t.wide d (active (me s) g) fun l => laneVal (me s) (opI t a) (laneVal (me s) ⟨.i32, false, n⟩ l % 32)) := by
  have hx : exec (.bcast t g d a n) s = runEff (.bcast t g d a n) (effBcast t g d a n) s := rfl
  rw [effBcast_eq] at hx
  exact completes_gather (fun _ k => k % 32) hx hd hB hA

/-! ## The statement -/

/-- Settles O9: both instructions are a gather, and what it reads of A does not depend on EXEC. -/
theorem laneMoves : Obligations.LaneMoves := by
  intro s t m g d a b n hd w A K N src
  have hsrc : ∀ l, src l = shflSrc m l (K l) := fun l => by
    cases m with
    | idx => rfl
    | up => exact (shflSrc_up l (K l)).symm
    | down => exact (shflSrc_down l (K l)).symm
    | xor => rfl
  refine ⟨fun hb ha => ?shfl, fun hn ha => completes_bcast t a hd hn ha⟩
  case shfl =>
    simp only [hsrc] at ha ⊢
    exact completes_shfl t m a hd hb ha

end Sys2Proof.Machine
end

section
/-! PROOFS. What a ring write of firmware depends on and leaves alone (R19, R385, R391): translation reads memory and the root of the tables; a line that leaves over the fabric changes no register of the hypervisor window, no comparison and nothing of Graze. -/

namespace Sys2Proof.Machine

/-! ## Translation and code -/

section
variable {s t : State} {v : Nat}

theorem State.walk_congr (hm : t.mem = s.mem) (hr : (t.vf v).root = (s.vf v).root) : t.walk v = s.walk v := by
  funext va
  simp only [State.walk, hm, hr]

theorem State.walk_modVf {f : VFn → VFn} (h : (f (s.vf v)).root = (s.vf v).root) : (s.modVf v f).walk v = s.walk v :=
  State.walk_congr rfl (by rw [State.vf_modVf, h])

theorem State.walk_setHw (s : State) (v o x n : Nat) : (s.setHw o x n).walk v = s.walk v := rfl

variable (hm : t.mem = s.mem) (hw : t.walk v = s.walk v)
include hm hw

theorem State.parcelAt_congr : t.parcelAt v = s.parcelAt v := by
  funext va
  simp only [State.parcelAt, hm, hw]

theorem State.instrAt_congr (bud : Nat) : t.instrAt v bud = s.instrAt v bud := by
  funext va
  simp only [State.instrAt, State.parcelAt_congr hm hw]

theorem State.scan_congr (bud start n off : Nat) (acc : Code) : t.scan v bud start n off acc = s.scan v bud start n off acc := by
  induction n generalizing off acc with
  | zero => rfl
  | succ n ih => simp only [State.scan, State.instrAt_congr hm hw, ih]

theorem State.region_congr (bud pc : Nat) : t.region v bud pc = s.region v bud pc := by
  simp only [State.region, State.scan_congr hm hw, State.parcelAt_congr hm hw]

end

/-! ## The frame of a ring write -/

/-- What no ring write changes. -/
structure SameGraze (s t : State) : Prop where
  hw : t.hw = s.hw
  hurdles : t.hurdles = s.hurdles
  graze : ∀ v, (t.vf v).graze = (s.vf v).graze

theorem SameGraze.refl (s : State) : SameGraze s s := ⟨rfl, rfl, fun _ => rfl⟩

theorem SameGraze.trans {s t u : State} (h : SameGraze s t) (k : SameGraze t u) : SameGraze s u :=
  ⟨k.hw.trans h.hw, k.hurdles.trans h.hurdles, fun v => (k.graze v).trans (h.graze v)⟩

theorem SameGraze.foldl {β : Type} {f : State → β → State} (hf : ∀ s x, SameGraze s (f s x)) (xs : List β) (s : State) : SameGraze s (xs.foldl f s) := by
  induction xs generalizing s with
  | nil => exact .refl s
  | cons x xs ih => exact (hf s x).trans (ih _)

theorem sameGraze_modVf {s : State} {v : Nat} {f : VFn → VFn} (h : (f (s.vf v)).graze = (s.vf v).graze) : SameGraze s (s.modVf v f) := by
  refine ⟨rfl, rfl, fun j => ?_⟩
  by_cases hj : j = v
  · subst hj
    rw [State.vf_modVf, h]
  · rw [State.vf_modVf_ne s f hj]

theorem sameGraze_modDie (s : State) (d : Nat) (f : Die → Die) : SameGraze s (s.modDie d f) := ⟨rfl, rfl, fun _ => rfl⟩

theorem sameGraze_dropCopies (s : State) (line : Nat) : SameGraze s (s.dropCopies line) := by
  have dies := SameGraze.foldl (fun (s : State) d => sameGraze_modDie s d fun x => { x with fcache := mset none x.fcache line none, fbad := x.fbad.filter (· != line) }) [0, 1, 2, 3] s
  exact ⟨dies.hw, dies.hurdles, dies.graze⟩

theorem sameGraze_countSent (s : State) (q : FabOut) : SameGraze s (s.countSent q) := by
  unfold State.countSent
  split
  · exact .refl s
  · exact sameGraze_modVf rfl

theorem sameGraze_fabSendOp (s : State) (id : Nat) (use : FabUse) (p va : Nat) (cached : Bool) (write : List (Nat × Byte)) (op : Option FabOp) :
    SameGraze s (s.fabSendOp id use p va cached write op) := by
  have dropped : SameGraze s (if write.isEmpty && op.isNone then s else s.dropCopies (p / 64)) := by
    split
    · exact .refl s
    · exact sameGraze_dropCopies s _
  unfold State.fabSendOp
  split
  refine SameGraze.trans ?_ (sameGraze_countSent _ _)
  exact ⟨dropped.hw, dropped.hurdles, dropped.graze⟩

theorem sameGraze_fabSend (s : State) (id : Nat) (use : FabUse) (p va : Nat) (cached : Bool) (write : List (Nat × Byte)) :
    SameGraze s (s.fabSend id use p va cached write) := by
  unfold State.fabSend
  split
  · exact sameGraze_fabSendOp ..
  · exact .foldl (fun _ _ => sameGraze_fabSendOp ..) _ s

theorem sameGraze_ringSend (s : State) (id pa va : Nat) (bs : List Byte) : SameGraze s (s.ringSend id pa va bs) :=
  .foldl (fun _ _ => sameGraze_fabSend ..) _ s

theorem sameGraze_homeWrite (s : State) (a : Nat) (bs : List Byte) : SameGraze s (s.homeWrite a bs) := ⟨rfl, rfl, fun _ => rfl⟩

theorem sameGraze_ringPut {s t : State} {v va id : Nat} {bs : List Byte} (h : s.ringPut v va bs id = some t) : SameGraze s t := by
  unfold State.ringPut at h
  split at h
  next p _ =>
    split at h
    · obtain rfl := Option.some.inj h
      split
      · exact sameGraze_ringSend ..
      · exact sameGraze_homeWrite ..
    · contradiction
  next => contradiction

/-! ## Whether a ring write takes place -/

/-- A slot takes a record whatever its bytes, where it translates with write permission (R391). -/
theorem State.ringPut_isSome (s : State) (v va id : Nat) (bs : List Byte) :
    (s.ringPut v va bs id).isSome = (s.walk v va).any (fun p => canonical va && !upper va && p.w) := by
  unfold State.ringPut
  cases s.walk v va with
  | none => rfl
  | some p =>
    simp only [Option.any_some]
    split
    next h => rw [h]; rfl
    next h => rw [Bool.eq_false_iff.mpr h]; rfl

theorem State.ringPut_isSome_congr {s t : State} {v : Nat} (hw : t.walk v = s.walk v) (va id : Nat) (bs cs : List Byte) :
    (t.ringPut v va bs id).isSome = (s.ringPut v va cs id).isSome := by
  rw [State.ringPut_isSome, State.ringPut_isSome, hw]

theorem State.exists_ringPut {s : State} {v va id : Nat} {bs : List Byte} (h : (s.ringPut v va bs id).isSome = true) (cs : List Byte) :
    ∃ t, s.ringPut v va cs id = some t :=
  Option.isSome_iff_exists.mp ((State.ringPut_isSome_congr rfl va id cs bs).trans h)

/-! ## Fields of the hypervisor window -/

@[simp] theorem State.hwN_modVf (s : State) (v : Nat) (f : VFn → VFn) (o n : Nat) : (s.modVf v f).hwN o n = s.hwN o n := rfl

theorem State.hwN_setHw_same (s : State) (o x n : Nat) : (s.setHw o x n).hwN o n = x % 256 ^ n := readN_writeN ..

theorem State.hwN_setHw_out (s : State) {o p x n k : Nat} (h : p + k ≤ o ∨ o + n ≤ p) : (s.setHw o x n).hwN p k = s.hwN p k := readN_writeN_out h

theorem SameGraze.hwN {s t : State} (h : SameGraze s t) (o n : Nat) : t.hwN o n = s.hwN o n := by
  unfold State.hwN
  rw [h.hw]

end Sys2Proof.Machine
end

section
/-! PROOFS. The Fold table and the Graze queue (R376, R385): an entry changed in its place, a record posted, held records written when space appears. -/

namespace Sys2Proof.Machine

/-! ## A Fold entry changed -/

section
variable {s : State} {v q : Nat} {f : Fold} (hf : s.fold v q = some f)
include hf

theorem State.seq_of_fold : f.seq = q := by simpa using List.find?_some hf

/-- The entry stays first of its sequence number, since no change touches that. -/
theorem State.fold_modFold {g : Fold → Fold} (hg : ∀ e, e.seq = q → (g e).seq = q) : (s.modFold v q g).fold v q = some (g f) := by
  have kept : (fun e => e.seq == q) ∘ (fun e => if e.seq == q then g e else e) = fun e => e.seq == q := by
    funext e
    by_cases he : e.seq = q <;> simp [he, hg]
  unfold State.fold at hf
  simp only [State.modFold, State.modFolds, State.fold, State.vf_modVf, List.find?_map, kept, hf, Option.map_some, if_pos (List.find?_some hf)]

end

/-! ## The registers of the Graze queue (R370, R385) -/

/-- GQLOG2, GQBASE, GQWRITE and GQREAD of a function. -/
abbrev State.gqLog2 (s : State) (v : Nat) : Nat := s.hwN (gBase v + 9) 1
abbrev State.gqBase (s : State) (v : Nat) : Nat := s.hwN (gBase v + 0x10) 8
abbrev State.gqWrite (s : State) (v : Nat) : Nat := s.hwN (gBase v + 0x20) 8
abbrev State.gqRead (s : State) (v : Nat) : Nat := s.hwN (gBase v + 0x28) 8

/-- The slot of the next record. -/
abbrev State.gqSlot (s : State) (v : Nat) : Nat := s.gqBase v + 128 * (s.gqWrite v % 2 ^ s.gqLog2 v)

/-- The state with a new GQREAD. -/
abbrev State.putRead (s : State) (v : Nat) (val : W64) : State := s.setHw (gBase v + 0x28) val.toNat 8

/-! ## A record posted (R385) -/

/-- A record posted changes neither the comparisons nor the Fold table. -/
theorem State.gPost_frame (s : State) (v : Nat) (bs : Nat → List Byte) :
    (s.gPost v bs).hurdles = s.hurdles ∧ ((s.gPost v bs).vf v).graze.folds = (s.vf v).graze.folds := by
  simp only [State.gPost]
  split
  · exact ⟨rfl, rfl⟩
  · split
    · split
      next t ht =>
        have same := sameGraze_ringPut ht
        simp only [State.modVf_hurdles, State.setHw_hurdles, State.vf_modVf, State.vf_setHw]
        exact ⟨same.hurdles, by rw [same.graze v]⟩
      next => exact ⟨rfl, rfl⟩
    · split <;> simp

@[simp] theorem State.gPost_hurdles (s : State) (v : Nat) (bs : Nat → List Byte) : (s.gPost v bs).hurdles = s.hurdles := (s.gPost_frame v bs).1

@[simp] theorem State.fold_gPost (s : State) (v q : Nat) (bs : Nat → List Byte) : (s.gPost v bs).fold v q = s.fold v q := by
  rw [State.fold, (s.gPost_frame v bs).2, State.fold]

/-- Where the ring has space and no record is held, a record is written and GQWRITE counts it. -/
theorem State.gqWrite_gPost {s : State} {v : Nat} (bs : Nat → List Byte) (h4 : 4 ≤ s.gqLog2 v) (h12 : s.gqLog2 v ≤ 12)
    (hb : s.gqBase v ≠ 0) (hh : (s.vf v).graze.held = []) (hs : s.gqWrite v - s.gqRead v < 2 ^ s.gqLog2 v)
    (hp : (s.ringPut v (s.gqSlot v) []).isSome = true) :
    (s.gPost v bs).gqWrite v = (s.gqWrite v + 1) % 2 ^ 64 := by
  obtain ⟨t, ht⟩ := State.exists_ringPut hp (bs (cond (s.vf v).graze.lost 4 0))
  have sized : ¬(decide (s.gqLog2 v < 4) || decide (12 < s.gqLog2 v) || decide (s.gqBase v = 0)) = true := by
    simp [Nat.not_lt.mpr h4, Nat.not_lt.mpr h12, hb]
  have space : ((s.vf v).graze.held.isEmpty && decide (s.gqWrite v - s.gqRead v < 2 ^ s.gqLog2 v)) = true := by
    simp [hh, hs]
  simp only [State.gPost]
  rw [if_neg sized, if_pos space, ht]
  exact State.hwN_setHw_same ..

/-! ## Held records written (R385) -/

theorem State.gFlush_nil {s : State} {v : Nat} (h : (s.vf v).graze.held = []) : s.gFlush v = s := by
  simp only [State.gFlush, h]

/-- GQREAD is the reader's. -/
theorem State.gqRead_gFlush (s : State) (v : Nat) : (s.gFlush v).gqRead v = s.gqRead v := by
  simp only [State.gFlush]
  split
  · rfl
  · split
    · split
      next t ht =>
        exact (State.hwN_setHw_out t (by omega)).trans ((sameGraze_ringPut ht).hwN ..)
      next => rfl
    · rfl

/-- The one record that is held is written where there is space. -/
theorem State.gFlush_one {s : State} {v : Nat} {bs : List Byte} (hh : (s.vf v).graze.held = [bs])
    (hs : s.gqWrite v - s.gqRead v < 2 ^ s.gqLog2 v)
    (hp : (s.ringPut v (s.gqSlot v) bs).isSome = true) :
    (s.gFlush v).gqWrite v = (s.gqWrite v + 1) % 2 ^ 64 ∧ ((s.gFlush v).vf v).graze.held = [] := by
  obtain ⟨t, ht⟩ := State.exists_ringPut hp (if (s.vf v).graze.lost then markLost bs else bs)
  simp only [State.gFlush, hh]
  rw [if_pos hs, ht]
  simp only [State.hwN_modVf, State.vf_modVf, and_true]
  exact State.hwN_setHw_same ..

/-- The held records written one after the other. -/
def State.gFlushes (s : State) (v : Nat) (xs : List Nat) : State := xs.foldl (fun s _ => s.gFlush v) s

theorem State.gFlushes_nil {s : State} {v : Nat} (h : (s.vf v).graze.held = []) (xs : List Nat) : s.gFlushes v xs = s := by
  induction xs with
  | nil => rfl
  | cons x xs ih =>
    rw [State.gFlushes, List.foldl_cons, State.gFlush_nil h]
    exact ih

theorem State.gqRead_gFlushes (s : State) (v : Nat) (xs : List Nat) : (s.gFlushes v xs).gqRead v = s.gqRead v := by
  induction xs generalizing s with
  | nil => rfl
  | cons x xs ih => exact (ih (s.gFlush v)).trans (s.gqRead_gFlush v)

/-- One record is held: the first place of the list writes it, and nothing is left for the others. -/
theorem State.gFlushes_one {s : State} {v : Nat} {xs : List Nat} (hx : xs ≠ []) (h : ((s.gFlush v).vf v).graze.held = []) : s.gFlushes v xs = s.gFlush v := by
  cases xs with
  | nil => contradiction
  | cons x xs => exact State.gFlushes_nil h xs

/-! ## GQREAD written (R370) -/

theorem exec_gqrdWrite_ignored {s : State} {v : Nat} {val : W64}
    (h : s.gqWrite v < val.toNat ∨ 2 ^ s.gqLog2 v < s.gqWrite v - val.toNat) : exec (.gqrdWrite v val) s = .next s := by
  have out : (decide (s.gqWrite v < val.toNat) || decide (2 ^ s.gqLog2 v < s.gqWrite v - val.toNat)) = true := by simpa using h
  exact congrArg Host.Outcome.next (if_pos out)

theorem exec_gqrdWrite_taken {s : State} {v : Nat} {val : W64}
    (h : val.toNat ≤ s.gqWrite v) (hn : s.gqWrite v - val.toNat ≤ 2 ^ s.gqLog2 v) :
    exec (.gqrdWrite v val) s = .next ((s.putRead v val).gFlushes v (List.range 64)) := by
  have inside : ¬(decide (s.gqWrite v < val.toNat) || decide (2 ^ s.gqLog2 v < s.gqWrite v - val.toNat)) = true := by
    simp [h, hn]
  exact congrArg Host.Outcome.next (if_neg inside)

section
variable (s : State) (v : Nat) (val : W64)

theorem State.gqRead_putRead : (s.putRead v val).gqRead v = val.toNat :=
  (State.hwN_setHw_same ..).trans (Nat.mod_eq_of_lt val.isLt)

theorem State.gqWrite_putRead : (s.putRead v val).gqWrite v = s.gqWrite v := State.hwN_setHw_out s (by omega)

theorem State.gqLog2_putRead : (s.putRead v val).gqLog2 v = s.gqLog2 v := State.hwN_setHw_out s (by omega)

theorem State.gqSlot_putRead : (s.putRead v val).gqSlot v = s.gqSlot v := by
  have base : (s.putRead v val).gqBase v = s.gqBase v := State.hwN_setHw_out s (by omega)
  rw [State.gqSlot, base, s.gqWrite_putRead, s.gqLog2_putRead]

end

/-- The space that a new GQREAD gives takes the one record that is held. -/
theorem State.gFlush_putRead_one {s : State} {v : Nat} {val : W64} {bs : List Byte} (hh : (s.vf v).graze.held = [bs])
    (hs : s.gqWrite v - val.toNat < 2 ^ s.gqLog2 v)
    (hp : (s.ringPut v (s.gqSlot v) bs).isSome = true) :
    ((s.putRead v val).gFlush v).gqWrite v = (s.gqWrite v + 1) % 2 ^ 64
    ∧ (((s.putRead v val).gFlush v).vf v).graze.held = [] := by
  have flush := State.gFlush_one (s := s.putRead v val) (v := v) (bs := bs) hh
  rw [s.gqRead_putRead, s.gqWrite_putRead, s.gqLog2_putRead, s.gqSlot_putRead] at flush
  exact flush hs ((State.ringPut_isSome_congr (s.walk_setHw v ..) ..).trans hp)

end Sys2Proof.Machine
end

section
/-! PROOFS. The events of Graze (R370 to R385): what firmware does with candidates, with comparisons and with the records of culled variants. -/

namespace Sys2Proof.Machine

open Sys2Proof.Safety

/-! ## Candidates built (R372) -/

/-- The candidates in the Paddock of the function's die (R372). -/
def State.paddockUsed (s : State) (v : Nat) : Nat :=
  (s.vfs.map (fun x => (x.2.graze.paddock.filter (fun c => c.die == dieOfCore ((s.vfCores v).headD 0))).length)).foldl (· + ·) 0

/-- The function with a candidate more in its Paddock. -/
def VFn.addCandidate (key : Nat × W32 × W32) (die : Nat) (words : List W32) (f : VFn) : VFn :=
  { f with graze := { f.graze with paddock := f.graze.paddock ++ [⟨f.graze.next, key, die, words⟩], next := f.graze.next + 1 } }

section
variable {s : State} {v k : Nat} {T : GTarget} {words : List W32} {info : RInfo} {code : Code}
  (hT : (s.vf v).graze.targets[k]? = some T) (hr : s.region v T.bud T.pc = some info) (hc : decodeCode T.bud 64 0 words = some code)
include hT hr hc

theorem exec_candidateBuild : exec (.candidateBuild v k words) s = .next (
    if T.ev.isNone || 128 ≤ s.paddockUsed v || 2 ^ 26 ≤ (s.vf v).graze.next then s
    else if candidateOk T.bud info code then s.modVf v (VFn.addCandidate T.key (dieOfCore ((s.vfCores v).headD 0)) words) else s) := by
  show execCandidateBuild v k words s = _
  simp only [execCandidateBuild, hT, hr, hc]
  rfl

theorem exec_candidateBuild_builds {e : Nat} (he : T.ev = some e) (hu : s.paddockUsed v < 128) (hn : (s.vf v).graze.next < 2 ^ 26)
    (ok : candidateOk T.bud info code = true) :
    exec (.candidateBuild v k words) s = .next (s.modVf v (VFn.addCandidate T.key (dieOfCore ((s.vfCores v).headD 0)) words)) := by
  rw [exec_candidateBuild hT hr hc, if_neg (by simp [-Nat.reducePow, he, hu, hn]), if_pos ok]

theorem exec_candidateBuild_waits (h : T.ev = none ∨ 128 ≤ s.paddockUsed v ∨ 2 ^ 26 ≤ (s.vf v).graze.next ∨ candidateOk T.bud info code = false) :
    exec (.candidateBuild v k words) s = .next s := by
  rw [exec_candidateBuild hT hr hc]
  rcases h with he | hu | hn | bad
  · rw [if_pos (by simp [he])]
  · rw [if_pos (by simp [hu])]
  · rw [if_pos (by simp [-Nat.reducePow, hn])]
  · rw [bad, if_neg Bool.false_ne_true, ite_self]

end

/-! ## Candidates tested (R373) -/

/-- The live entries of a function's Fold table (R375). -/
def GrazeF.live (g : GrazeF) : List Fold := g.folds.filter (fun y => y.st != .culled)

/-- Whether a live entry stands for a target's region and modes (R375). -/
def GrazeF.taken (g : GrazeF) (T : GTarget) : Bool := g.folds.any (fun y => y.st != .culled && y.pc == T.pc && y.fmode == T.fmode && y.nmode == T.nmode)

/-- The function without candidate n of its Paddock. -/
def VFn.dropCandidate (n : Nat) (f : VFn) : VFn := { f with graze := { f.graze with paddock := f.graze.paddock.eraseIdx n } }

/-- The entry with which a candidate is installed (R375). -/
def installed (T : GTarget) (info : RInfo) (d : GCand) : Fold :=
  { seq := d.seq, pc := T.pc, fmode := T.fmode, nmode := T.nmode, code := d.code, bud := T.bud, size := info.close - T.pc, ev := T.ev.getD 1 }

/-- A code run on one lane's live-ins in the budget and the modes of a target. -/
abbrev GTarget.run (T : GTarget) (info : RInfo) (c : Code) (x : GLive) : Option GLive := runLane info T.bud T.fmode T.nmode c x

/-- What the test of R373 asks of a code: the live-outs of every sample and, at level 1, those of the original on the edge sets of the first 32. -/
def Agrees (info : RInfo) (T : GTarget) (code : Code) : Prop :=
  (∀ x ∈ T.samples, T.run info code x.1 = some x.2)
  ∧ (T.ev = some 1 → ∀ x ∈ T.samples.take 32, ∀ y ∈ edgeSet info x.1,
      ∃ z, T.run info code y = some z ∧ T.run info info.code y = some z)

theorem isSome_and_beq_iff (a b : Option GLive) : (a.isSome && a == b) = true ↔ ∃ z, a = some z ∧ b = some z := by
  cases a with
  | none => simp
  | some x =>
    rw [Option.isSome_some, Bool.true_and, beq_iff_eq]
    exact ⟨fun h => ⟨x, rfl, h.symm⟩, fun ⟨_, ha, hb⟩ => ha.trans hb.symm⟩

theorem testPasses_iff {info : RInfo} {T : GTarget} {code : Code} (h : 512 ≤ T.samples.length) : testPasses info T code = true ↔ Agrees info T code := by
  have samples : T.samples.all (fun x => T.run info code x.1 == some x.2) = true
      ↔ ∀ x ∈ T.samples, T.run info code x.1 = some x.2 := by
    simp only [List.all_eq_true, beq_iff_eq]
  have edges : ((T.samples.take 32).flatMap (fun x => edgeSet info x.1)).all (fun y => (T.run info code y).isSome
        && T.run info code y == T.run info info.code y) = true
      ↔ ∀ x ∈ T.samples.take 32, ∀ y ∈ edgeSet info x.1, ∃ z, T.run info code y = some z ∧ T.run info info.code y = some z := by
    simp only [List.all_eq_true, List.mem_flatMap, isSome_and_beq_iff, forall_exists_index, and_imp]
    exact forall_comm.trans (forall_congr' fun x => forall_comm)
  simp only [testPasses, h, decide_true, Bool.true_and]
  rw [Bool.and_eq_true, samples, Bool.or_eq_true, edges, bne_iff_ne, ← imp_iff_not_or]
  rfl

section
variable {s : State} {v n : Nat} {d : GCand} (hd : (s.vf v).graze.paddock[n]? = some d)
include hd

theorem exec_candidateTest_untargeted (hT : (s.vf v).graze.targets.find? (fun t => t.key == d.target) = none) :
    exec (.candidateTest v n) s = .next (s.modVf v (VFn.dropCandidate n)) := by
  show execCandidateTest v n s = _
  simp only [execCandidateTest, hd, hT]
  rfl

variable {T : GTarget} (hT : (s.vf v).graze.targets.find? (fun t => t.key == d.target) = some T)
include hT

theorem exec_candidateTest_waits (h : T.samples.length < 512 ∨ 64 ≤ (s.vf v).graze.live.length) : exec (.candidateTest v n) s = .next s := by
  show execCandidateTest v n s = _
  have waits : (decide (T.samples.length < 512) || decide (64 ≤ (s.vf v).graze.live.length)) = true := by simpa using h
  simp only [execCandidateTest, hd, hT]
  exact congrArg Host.Outcome.next (if_pos waits)

variable {info : RInfo} {code : Code} (h : 512 ≤ T.samples.length) (hl : (s.vf v).graze.live.length < 64)
  (hr : s.region v T.bud T.pc = some info) (hc : decodeCode T.bud 64 0 d.code = some code)
include h hl hr hc

/-- The region is read when the candidate has left the Paddock, which it does not depend on. -/
theorem exec_candidateTest : exec (.candidateTest v n) s = .next (
    if testPasses info T code && !(s.vf v).graze.taken T then (s.modVf v (VFn.dropCandidate n)).modFolds v (· ++ [installed T info d])
    else s.modVf v (VFn.dropCandidate n)) := by
  show execCandidateTest v n s = _
  have due : ¬(decide (T.samples.length < 512) || decide (64 ≤ (s.vf v).graze.live.length)) = true := by simp [h, hl]
  have dropped : (s.modVf v (VFn.dropCandidate n)).region v T.bud T.pc = some info := by
    rw [State.region_congr (s.modVf_mem v _) (State.walk_modVf rfl), hr]
  simp only [execCandidateTest, hd, hT]
  refine congrArg Host.Outcome.next ((if_neg due).trans ?_)
  unfold VFn.dropCandidate at dropped
  simp only [dropped, hc]
  rfl

theorem exec_candidateTest_installs (ht : (s.vf v).graze.taken T = false) (ok : Agrees info T code) :
    exec (.candidateTest v n) s = .next ((s.modVf v (VFn.dropCandidate n)).modFolds v (· ++ [installed T info d])) := by
  rw [exec_candidateTest hd hT h hl hr hc, if_pos (by simp [ht, (testPasses_iff h).mpr ok])]

theorem exec_candidateTest_discards (ht : (s.vf v).graze.taken T = true ∨ ¬Agrees info T code) :
    exec (.candidateTest v n) s = .next (s.modVf v (VFn.dropCandidate n)) := by
  have fails : ¬(testPasses info T code && !(s.vf v).graze.taken T) = true := by
    rw [← testPasses_iff h] at ht
    rcases ht with ht | ht <;> simp [ht]
  rw [exec_candidateTest hd hT h hl hr hc, if_neg fails]

end

/-! ## What a comparison does (R378, R384) -/

/-- The entry with a comparison more that agreed, in a unit. -/
def Fold.agreed (f : Fold) (u : Nat × Nat × Nat) : Fold :=
  { f with agree := f.agree + 1, units := if f.units.contains u then f.units else f.units ++ [u] }

/-- The entry PROMOTED, its first execution at ell (R378). -/
def Fold.promoted (f : Fold) (ell : Nat) : Fold := { f with st := .promoted, first := ell, perCore := [], execs := 0 }

section
variable {s : State} {v q l stage uidx lvl : Nat} {f : Fold} (hf : s.fold v q = some f)
include hf

theorem State.compared_counts (hg : f.st = .guarded) (hl : lvl ≤ 1)
    (few : f.agree + 1 < 4096 ∨ (f.agreed (l, stage, uidx)).units.length < 4) :
    s.compared v q l stage uidx lvl none = s.modFold v q (fun _ => f.agreed (l, stage, uidx)) := by
  have counts : (f.st == .guarded && decide (lvl ≤ 1)) = true := by simp [hg, hl]
  have short : ¬(decide (4096 ≤ (f.agreed (l, stage, uidx)).agree) && decide (4 ≤ (f.agreed (l, stage, uidx)).units.length)) = true := by
    simp only [Bool.and_eq_true, decide_eq_true_eq, not_and_or, Nat.not_le]
    exact few
  simp only [State.compared, hf]
  rw [if_pos counts]
  exact if_neg short

theorem State.compared_promotes (hg : f.st = .guarded) (hl : lvl ≤ 1) (many : 4096 ≤ f.agree + 1) (units : 4 ≤ (f.agreed (l, stage, uidx)).units.length) :
    ∃ bs, s.compared v q l stage uidx lvl none = (s.modFold v q (fun _ => (f.agreed (l, stage, uidx)).promoted (s.elWrite v))).gPost v bs := by
  have counts : (f.st == .guarded && decide (lvl ≤ 1)) = true := by simp [hg, hl]
  have enough : (decide (4096 ≤ (f.agreed (l, stage, uidx)).agree) && decide (4 ≤ (f.agreed (l, stage, uidx)).units.length)) = true := by
    simp only [Bool.and_eq_true, decide_eq_true_eq]
    exact ⟨many, units⟩
  simp only [State.compared, hf]
  rw [if_pos counts]
  exact ⟨_, if_pos enough⟩

theorem State.compared_leaves (h : f.st ≠ .guarded ∨ 2 ≤ lvl) : s.compared v q l stage uidx lvl none = s := by
  have out : ¬(f.st == .guarded && decide (lvl ≤ 1)) = true := by
    rcases h with h | h
    · simp [h]
    · simp [Nat.not_le.mpr h]
  simp only [State.compared, hf]
  rw [if_neg out]

/-- A culled entry keeps its place with the cause; its region is barred (R369, R384). -/
theorem State.cull_spec {cause : Nat} {mis : Option (Nat × GLive × GLive × GLive × Nat)} (h : f.st ≠ .culled) :
    (s.cull v q cause mis).fold v q = some { f with st := .culled, cause := cause, mis := mis }
    ∧ (f.pc, f.fmode, f.nmode) ∈ ((s.cull v q cause mis).vf v).graze.bars
    ∧ (s.cull v q cause mis).hurdles = s.hurdles ∧ (s.cull v q cause mis).mem = s.mem := by
  simp only [State.cull, hf]
  rw [if_neg (by simpa using h)]
  refine ⟨?_, ?_, rfl, rfl⟩
  · rw [State.fold, State.vf_modVf]
    exact State.fold_modFold (g := fun f => { f with st := .culled, cause := cause, mis := mis }) hf fun _ he => he
  · rw [State.vf_modVf]
    exact List.mem_append_right _ List.mem_cons_self

theorem State.compared_culls (m : Nat × GLive × GLive × GLive) :
    ∃ mis, s.compared v q l stage uidx lvl (some m) = s.cull v q (if f.st = .promoted then 0 else 1) mis := by
  simp only [State.compared, hf, beq_iff_eq]
  exact ⟨_, rfl⟩

end

/-! ## Comparisons that complete, and those that are late (R377) -/

/-- The function for whose variant a comparison is made. -/
def State.hurdleVf (s : State) (h : Hurdle) : Nat := ((s.launch h.launch).map (·.vf)).getD 0

/-- The state without comparison n. -/
def State.dropHurdle (s : State) (n : Nat) : State := { s with hurdles := s.hurdles.eraseIdx n }

section
variable {s : State} {n : Nat} {h : Hurdle} (hh : s.hurdles[n]? = some h)
include hh

theorem exec_hurdleComparison_waits (hw : h.closed = none ∨ s.shut h.core h.quarter = true ∨ (∃ c₀, h.closed = some c₀ ∧ c₀ + 4096 < s.cycle)) :
    exec (.hurdleComparison n) s = .next s := by
  show execHurdleComparison n s = _
  simp only [execHurdleComparison, hh]
  rcases hw with open_ | shut | ⟨c₀, closed, late⟩
  · simp [open_]
  · simp [shut]
  · simp [closed, late]

variable {c₀ : Nat} (hc : h.closed = some c₀)
include hc

theorem exec_hurdleComparison (ht : s.cycle ≤ c₀ + 4096) (hs : s.shut h.core h.quarter = false) {f : Fold} {info : RInfo} {rs : Regs}
    (hf : s.fold (s.hurdleVf h) h.fold = some f) (hr : s.region (s.hurdleVf h) f.bud f.pc = some info) (hx : f.run f.bud h.entry h.mask pureFuel = some rs) :
    exec (.hurdleComparison n) s
      = .next ((s.dropHurdle n).compared (s.hurdleVf h) h.fold h.launch h.stage h.uidx h.level (mismatch info h.entry h.result rs h.mask)) := by
  show execHurdleComparison n s = _
  unfold State.hurdleVf at hf hr
  simp only [execHurdleComparison, hh, hc, hs, Nat.not_lt.mpr ht, decide_false, Bool.or_false, Bool.false_eq_true, if_false, hf, hr, hx]
  rfl

theorem exec_comparisonAbandon : exec (.comparisonAbandon n) s = .next (if c₀ + 4096 < s.cycle then s.dropHurdle n else s) := by
  show execComparisonAbandon n s = _
  simp only [execComparisonAbandon, hh, hc]
  rfl

theorem exec_comparisonAbandon_late (h : c₀ + 4096 < s.cycle) : exec (.comparisonAbandon n) s = .next (s.dropHurdle n) := by
  rw [exec_comparisonAbandon hh hc, if_pos h]

theorem exec_comparisonAbandon_early (h : s.cycle ≤ c₀ + 4096) : exec (.comparisonAbandon n) s = .next s := by
  rw [exec_comparisonAbandon hh hc, if_neg (Nat.not_lt.mpr h)]

end

/-! ## The record of a culled variant (R384) -/

section
variable {s : State} {v k : Nat} {f : Fold} (hf : s.fold v k = some f)
include hf

theorem exec_cullWithdrawalRecord_waits (h : f.st ≠ .culled ∨ f.posted = true) : exec (.cullWithdrawalRecord v k) s = .next s := by
  show execCullWithdrawalRecord v k s = _
  have waits : (f.st != .culled || f.posted) = true := by simpa using h
  simp only [execCullWithdrawalRecord, hf]
  rw [if_pos waits]

theorem exec_cullWithdrawalRecord_posts (h : f.st = .culled) (hp : f.posted = false) :
    exec (.cullWithdrawalRecord v k) s = .next ((s.modFold v k (fun f => { f with posted := true })).gPost v
      (fun fl => gRecord v f f.cause (s.elWrite v) (s.hwN (gBase v + 8) 1) fl)) := by
  show execCullWithdrawalRecord v k s = _
  have due : ¬(f.st != .culled || f.posted) = true := by simp [h, hp]
  simp only [execCullWithdrawalRecord, hf]
  rw [if_neg due]

end

/-- A change of the Fold table moves no page. -/
theorem State.walk_modFold (s : State) (v q : Nat) (g : Fold → Fold) : (s.modFold v q g).walk v = s.walk v :=
  State.walk_modVf rfl

/-! ## The statement -/

/-- Settles O52: each event is its case above; the entry that an event changes is found in its place again, and a record that is posted leaves it there. -/
theorem grazeEvents : Obligations.GrazeEvents := by
  intro s v k n e T words code info d h f rs val m g run die used live taken b lg wr slot owner us
  refine ⟨fun hT hr hc => ⟨fun he hu hn ok => ?built, exec_candidateBuild_waits hT hr hc⟩,
    fun hd hT => ?untargeted,
    fun hd hT => ⟨exec_candidateTest_waits hd hT, fun hs hl hr hc => ?tested⟩,
    fun hh => ⟨exec_hurdleComparison_waits hh, fun c₀ hc ht hs hf hr hx => ?compared, fun c₀ hc => ⟨fun late => ?abandoned, exec_comparisonAbandon_early hh hc⟩⟩,
    fun hf => ⟨exec_cullWithdrawalRecord_waits hf, fun hc hp => ?withdrawn⟩,
    exec_gqrdWrite_ignored,
    fun hle hn => ?read⟩
  case built =>
    refine ⟨_, exec_candidateBuild_builds hT hr hc he hu hn ok, ?_, rfl⟩
    rw [State.vf_modVf]
    rfl
  case untargeted =>
    refine ⟨_, exec_candidateTest_untargeted hd hT, ?_, rfl⟩
    rw [State.vf_modVf]
    rfl
  case tested =>
    refine ⟨fun ht ok => ⟨_, exec_candidateTest_installs hd hT hs hl hr hc ht ok, ?_, rfl⟩,
      fun no => ⟨_, exec_candidateTest_discards hd hT hs hl hr hc no, ?_, rfl⟩⟩
    · rw [State.modFolds, State.vf_modVf, State.vf_modVf]
      rfl
    · rw [State.vf_modVf]
      rfl
  case compared =>
    have completes : exec (.hurdleComparison n) s = .next ((s.dropHurdle n).compared owner h.fold h.launch h.stage h.uidx h.level (mismatch info h.entry h.result rs h.mask)) :=
      exec_hurdleComparison hh hc ht hs hf hr hx
    have hf' : (s.dropHurdle n).fold owner h.fold = some f := hf
    have seq : f.seq = h.fold := State.seq_of_fold hf'
    refine ⟨fun none_ hg hl => ⟨fun few => ?counts, fun many units => ?promotes⟩, fun some_ hst => ?culls, fun none_ hst => ?leaves⟩
    case counts =>
      rw [none_, State.compared_counts hf' hg hl few] at completes
      exact ⟨_, completes, rfl, State.fold_modFold hf' fun _ _ => seq, rfl⟩
    case promotes =>
      obtain ⟨bs, promoted⟩ := State.compared_promotes hf' hg hl many units
      rw [none_, promoted] at completes
      exact ⟨_, completes, State.gPost_hurdles .., (State.fold_gPost ..).trans (State.fold_modFold hf' fun _ _ => seq)⟩
    case culls =>
      obtain ⟨mis, culled⟩ := State.compared_culls hf' (l := h.launch) (stage := h.stage) (uidx := h.uidx) (lvl := h.level) m
      obtain ⟨fold, bars, hurdles, mem⟩ := State.cull_spec hf' (cause := if f.st = .promoted then 0 else 1) (mis := mis) hst
      rw [some_, culled] at completes
      exact ⟨_, completes, hurdles, bars, _, fold, rfl, rfl, mem⟩
    case leaves =>
      rw [none_, State.compared_leaves hf' hst] at completes
      exact ⟨_, completes, rfl, hf', rfl⟩
  case abandoned => exact ⟨_, exec_comparisonAbandon_late hh hc late, rfl, rfl, rfl⟩
  case withdrawn =>
    refine ⟨_, exec_cullWithdrawalRecord_posts hf hc hp, (State.fold_gPost ..).trans (State.fold_modFold hf fun _ he => he),
      fun h4 h12 hb hh hs hw => State.gqWrite_gPost _ h4 h12 hb ?_ hs ?_⟩
    · rw [State.modFold, State.modFolds, State.vf_modVf]
      exact hh
    · exact (State.ringPut_isSome_congr (s.walk_modFold v k _) ..).trans hw
  case read =>
    refine ⟨_, exec_gqrdWrite_taken hle hn, (State.gqRead_gFlushes ..).trans (s.gqRead_putRead v val), fun hh => ?empty, fun bs hh hs hw => ?held⟩
    case empty =>
      rw [State.gFlushes_nil (by exact hh)]
      exact ⟨s.gqWrite_putRead v val, rfl⟩
    case held =>
      have flushed := State.gFlush_putRead_one hh hs hw
      rw [State.gFlushes_one (List.range_eq_nil.not.mpr (by decide)) flushed.2]
      exact flushed

end Sys2Proof.Machine
end
